-- ==== Sys2Proof/Word.lean ====
section
/-! DEFINITION. The word types of the Divova M96 and their plainest arithmetic (00_scope R13, R22). -/

namespace Sys2Proof

/-- A string of bytes, lowest address first. -/
abbrev Bytes := List (BitVec 8)

/-- Instance (and function) number, R19, R22, R301. -/
abbrev FnId := BitVec 6

/-- Device index of a core, R20. -/
abbrev CoreId := BitVec 12

/-- Core group number, R20. -/
abbrev GroupId := BitVec 6

/-- A 128-bit core descriptor (03_core_array, "Descriptors"). -/
abbrev Desc := BitVec 128

/-- A 128-byte command entry, R312. -/
abbrev Entry := BitVec 1024

/-- What the DMA read of a host buffer brought: its bytes, or nothing where the read failed (R319, R332). -/
abbrev Buf := Option Bytes

/-- Field [hi:lo] of a word, as a number (R13 writes fields so). -/
def fld {n : Nat} (w : BitVec n) (hi lo : Nat) : Nat :=
  (w.toNat >>> lo) % 2 ^ (hi + 1 - lo)

/-- Bit [i] of a word. -/
def bit {n : Nat} (w : BitVec n) (i : Nat) : Bool := w.getLsbD i

/-- A `Nat` with the bits [hi:lo] set, for reserved-bit masks. -/
def maskOf (hi lo : Nat) : Nat := (2 ^ (hi + 1 - lo) - 1) <<< lo

end Sys2Proof
end

