-- ==== Sys2Proof/Syntax.lean ====
section
/-! DEFINITION. The commands of the block: one constructor of `Instr` for each row of spec/opcode_table.json, with the row's operands. What only the outside or the hardware itself can tell (a buffer's bytes, a check's finding, a measured value) is an operand too (log entry 10). -/

namespace Sys2Proof

/-- What the code of a 32-byte word, or of the metadata, shows on a read (R176, R182). -/
inductive Check where
  | good | corrected | bad
deriving DecidableEq, Repr

/-- The findings on one line: its number, the four words, the metadata, whether the tag verifies (Table 7-2). -/
structure LineFind where
  line : Nat
  words : List Check
  mdata : Check
  tagOk : Bool
deriving DecidableEq, Repr

/-- A residue mismatch of a row of a PASS (R78); `again`: the repeat mismatches too. -/
structure Residue where
  row : Nat
  col : Nat
  cellRow : Nat
  again : Bool
deriving DecidableEq, Repr

/-- A 64-bit word of core SRAM whose check found an error as a unit read it (R71): its address ÷ 8; `double`: not corrected. -/
structure SramFind where
  word : Nat
  double : Bool
deriving DecidableEq, Repr

/-- A frame as received: header (Table 10-1), payload, whether a cell or the tag failed (R261), bytes corrected. -/
structure RxFrame where
  hdr : BitVec 256
  payload : Bytes
  cellBad : Bool
  tagBad : Bool
  corrected : Nat
deriving DecidableEq, Repr

/-- How an adapter fetch ended (R116, R118). -/
inductive FetchEnd where
  | arrived | poisoned | noAnswer
deriving DecidableEq, Repr

/-- Where the migration engine takes a page (R163). -/
inductive MoveTo where
  | fast | slow | sameTier
deriving DecidableEq, Repr

/-- Status of a PCIe read completion (R319). -/
inductive RcStatus where
  | successful | failed | poisoned
deriving DecidableEq, Repr

/-- The die halves (R24). -/
inductive Half where
  | west | east
deriving DecidableEq, Repr

/-- Filtered inputs (R422). -/
inductive InPin where
  | pwrok | perstN | forceSafeN
deriving DecidableEq, Repr

/-- How an SPDM message came: in the clear, or in a session under the current or the previous key (R371). -/
inductive SpdmVia where
  | clear
  | session (id : Nat) (oldKey : Bool)
deriving DecidableEq, Repr

/-- The selective IDE stream of a request that bears the T bit (R374). -/
abbrev Tee := Option (BitVec 6)

/-- TDISP messages that move or report a TDI's state (R373). -/
inductive Tdisp where
  | getState | getReport | lock (stream : Nat) | start | stop
deriving DecidableEq, Repr

/-- Who asked for a Porter operation (R406, R445). -/
inductive PorterVia where
  | window | mgmt
deriving DecidableEq, Repr

/-- Loop-back targets (Table 17-7). -/
inductive LoopTarget where
  | pcie | port (p : Fin 96) | stack (i : Fin 12) | package (i : Fin 16)
deriving DecidableEq, Repr

/-- PLDM sensors (Table 17-5). -/
inductive Sensor where
  | power | railMv (r : Fin 10) | railMa (r : Fin 10) | group (g : GroupId) | stack (i : Fin 12)
  | thermal | deviceState | timeref | clerk
deriving DecidableEq, Repr

/-- A patch set as found at start or offered: its level and whether its signature passes (R415, R433). -/
structure Patch where
  level : BitVec 16
  sigOk : Bool
deriving DecidableEq, Repr

/-- The commands. -/
inductive Instr where
  -- core descriptors and the events of the core's units (03_core_array, 04_adapter_path)
  | loadBlock (core : CoreId) (d : Desc)
  | loadBlockComplete (core : CoreId) (waited : Nat)
  | pass (core : CoreId) (d : Desc) (residues : List Residue) (words : List SramFind)
  | ringSegmentEntry (core : CoreId) (waited : Nat)
  | side (core : CoreId) (d : Desc)
  | tileprogPrologue (core : CoreId) (d : Desc)
  | tileprogEpilogue (core : CoreId) (d : Desc)
  | tileprogRun (core : CoreId) (d : Desc)
  | tileprogDetach (core : CoreId) (d : Desc)
  | move (core : CoreId) (d : Desc) (words : List SramFind)
  | moveComplete (core : CoreId) (finds : List LineFind)
  | send (core : CoreId) (d : Desc)
  | sendArrival (core : CoreId)
  | wait (core : CoreId) (d : Desc)
  | waitResume (core : CoreId) (waited : Nat)
  | waitTimeout (core : CoreId)
  | signal (core : CoreId) (d : Desc)
  | signalTakesEffect (core : CoreId)
  | fence (core : CoreId) (d : Desc)
  | spill (core : CoreId) (d : Desc)
  | spillRestore (core : CoreId) (d : Desc)
  | spillComplete (core : CoreId) (finds : List LineFind)
  | endTask (core : CoreId) (d : Desc)
  | epilogueQueueResume (core : CoreId) (waited : Nat)
  | passResultsWritten (core : CoreId)
  | sideArrayLoadComplete (core : CoreId) (waited : Nat)
  -- the vector engine (05_tile_programs)
  | tileBegin (core : CoreId)
  | mov (core : CoreId) (d a : BitVec 5)
  | const (core : CoreId) (d : BitVec 5) (m : BitVec 6)
  | lds (core : CoreId) (d : BitVec 5) (m : BitVec 6) (words : List SramFind)
  | sts (core : CoreId) (a : BitVec 5) (m : BitVec 6)
  | lane (core : CoreId) (d : BitVec 5)
  | rownum (core : CoreId) (d : BitVec 5)
  | add (core : CoreId) (d a b : BitVec 5)
  | sub (core : CoreId) (d a b : BitVec 5)
  | mul (core : CoreId) (d a b : BitVec 5)
  | fma (core : CoreId) (d a b c : BitVec 5)
  | min (core : CoreId) (d a b : BitVec 5)
  | max (core : CoreId) (d a b : BitVec 5)
  | abs (core : CoreId) (d a : BitVec 5)
  | neg (core : CoreId) (d a : BitVec 5)
  | scale (core : CoreId) (d a b : BitVec 5)
  | floor (core : CoreId) (d a : BitVec 5)
  | cmplt (core : CoreId) (d a b : BitVec 5)
  | cmple (core : CoreId) (d a b : BitVec 5)
  | cmpeq (core : CoreId) (d a b : BitVec 5)
  | sel (core : CoreId) (d a b c : BitVec 5)
  | isfin (core : CoreId) (d a : BitVec 5)
  | rcp (core : CoreId) (d a : BitVec 5)
  | sqrt (core : CoreId) (d a : BitVec 5)
  | rsqrt (core : CoreId) (d a : BitVec 5)
  | exp (core : CoreId) (d a : BitVec 5)
  | exp2 (core : CoreId) (d a : BitVec 5)
  | log (core : CoreId) (d a : BitVec 5)
  | log2 (core : CoreId) (d a : BitVec 5)
  | tanh (core : CoreId) (d a : BitVec 5)
  | sigm (core : CoreId) (d a : BitVec 5)
  | ramax (core : CoreId) (d a : BitVec 5)
  | rsum (core : CoreId) (d a : BitVec 5) (m : BitVec 6)
  | rmax (core : CoreId) (d a : BitVec 5)
  | rmin (core : CoreId) (d a : BitVec 5)
  | rsumsq (core : CoreId) (d a : BitVec 5) (m : BitVec 6)
  | csum (core : CoreId) (a : BitVec 5) (m : BitVec 6)
  | cmax (core : CoreId) (a : BitVec 5) (m : BitVec 6)
  | cget (core : CoreId) (d : BitVec 5) (m : BitVec 6)
  | cvt (core : CoreId) (d a : BitVec 5) (m : BitVec 6)
  | rscale (core : CoreId) (d a : BitVec 5) (m : BitVec 6)
  | bscale (core : CoreId) (d a : BitVec 5)
  | tileSend (core : CoreId) (m : BitVec 6)
  -- almanac, heat, residency (08_almanac, 04_adapter_path, 06_memory_tiers)
  | decisionPoint (fn : FnId) (slot occ : Nat)
  | occurrenceStart (fn : FnId) (slot occ : Nat)
  | slotEndStop (fn : FnId) (slot occ : Nat)
  | bubbleSuspend (fn : FnId)
  | bubbleResume (fn : FnId)
  | bubbleSubstepStart (fn : FnId)
  | almanacSwitch (fn : FnId)
  | transitMeasurement (group : GroupId) (rate : BitVec 16)
  | groupThermalLevel (group : GroupId) (tenths : Nat)
  | stackThermalLevel (stack : Fin 12) (tenths : Nat)
  | adapterResident (fn : FnId) (adapter : BitVec 32) (outcome : FetchEnd)
  | earlyRead (fn : FnId) (adapter : BitVec 32)
  | expertPredictedFetch (core : CoreId) (sram : BitVec 19) (len : BitVec 24) (mem : BitVec 48)
  -- memory and its maintenance (06_memory_tiers, 07_memory_protection)
  | maintActivityStart (id : Nat)
  | maintActivityEnd (id : Nat) (result : BitVec 128)
  | pageMove (inst : FnId) (page : Nat) (dest : MoveTo)
  | pageMoveComplete (id : Nat) (finds : List LineFind)
  | rekeyPage (inst : FnId) (page : Nat)
  | rekeyComplete (inst : FnId) (page : Nat) (finds : List LineFind)
  | lineRekeyComplete (inst : FnId) (line : Nat)
  | patrolScrubVisit (part : Fin 28) (find : LineFind)
  | frameRetirement (part : Fin 28) (frame : Nat) (sparedRow : Option Nat)
  | channelRecal (part : Fin 28) (channel : BitVec 7)
  | tenantScrub (part : Fin 28) (frame : Nat)
  | measurementHoldEnd (id : Nat)
  -- fine-tuning (09_fine_tuning)
  | sweepStart (fn : FnId) (finds : List LineFind)
  | sweepEnd (fn : FnId)
  | verdictFrame (port : Fin 96) (f : RxFrame)
  | verdictTimeout (fn : FnId) (job : BitVec 32)
  | exportWindowResume (fn : FnId) (job : BitVec 32)
  | recordSetDelivered (fn : FnId) (job : BitVec 32)
  | workingCopyConverted (fn : FnId) (job : BitVec 32)
  | shardSnapshotComplete (fn : FnId) (job : BitVec 32)
  -- the fabric (10_fabric)
  | portSignalDetect (port : Fin 96)
  | linkTrainingDone (port : Fin 96)
  | attestationDone (port : Fin 96) (identityOk : Bool) (digest : BitVec 384)
  | portLossOfLock (port : Fin 96)
  | portSilenceTimeout (port : Fin 96)
  | dataFrame (port : Fin 96) (f : RxFrame)
  | signalFrame (port : Fin 96) (f : RxFrame)
  | collFrame (port : Fin 96) (f : RxFrame)
  | e2eAck (port : Fin 96) (f : RxFrame)
  | pathDown (port : Fin 96) (f : RxFrame)
  | loss (port : Fin 96) (f : RxFrame)
  | hail (port : Fin 96) (f : RxFrame) (rtt : BitVec 16)
  | linkAck (port : Fin 96) (f : RxFrame)
  | topo (port : Fin 96) (f : RxFrame)
  | spdmFrame (port : Fin 96) (f : RxFrame)
  | hailTimer (port : Fin 96)
  | linkAckTimer (port : Fin 96)
  | e2eAckTimer (flow : BitVec 20)
  | flowResendTimeout (dest : BitVec 14) (flow : BitVec 20)
  | flowNoPathTimeout (dest : BitVec 14) (flow : BitVec 20)
  | memberLossTimeout (dev : BitVec 14)
  | linkKeyUpdate (port : Fin 96)
  | collectiveComplete (fn : FnId) (coll : BitVec 16)
  | collectiveTimeout (fn : FnId) (coll : BitVec 16)
  | flowMatch (fn : FnId) (flow : BitVec 20) (peerClass : Bool) (peerRate : BitVec 24) (refused : Bool)
  | flowMatchTimeout (fn : FnId) (flow : BitVec 20)
  | rdmaReadResponse (port : Fin 96) (req : Nat) (data : Bytes) (checkOk ce : Bool)
  | rdmaAck (port : Fin 96) (req : Nat)
  | rdmaNak (port : Fin 96) (qpn : BitVec 24) (psn : BitVec 24)
  | cnp (port : Fin 96) (qpn : BitVec 24)
  | incomingRequestDrop (port : Fin 96)
  | rdmaAckTimeout (port : Fin 96) (req : Nat)
  | storageNoProgress (port : Fin 96) (req : Nat)
  | pfcFrame (port : Fin 96) (pause : Bool)
  -- the host interface (12_host_interface)
  | cmdDoorbell (fn : FnId) (value : BitVec 32) (be : BitVec 4) (tee : Tee)
  | commandFetchReturn (fn : FnId) (entries : List Entry)
  | cmdEnableWrite (fn : FnId) (value : BitVec 32) (be : BitVec 4) (tee : Tee)
  | cplEnableWrite (fn : FnId) (value : BitVec 32) (be : BitVec 4) (tee : Tee)
  | cplHeadWrite (fn : FnId) (value : BitVec 32) (be : BitVec 4) (tee : Tee)
  | summaryStatusWrite (fn : FnId) (value : BitVec 32) (be : BitVec 4) (tee : Tee)
  | summaryEnableWrite (fn : FnId) (value : BitVec 32) (be : BitVec 4) (tee : Tee)
  | causeWrite (fn : FnId) (offset : BitVec 16) (value : BitVec 32) (be : BitVec 4) (tee : Tee)
  | rcRegisterRead (fn : FnId) (offset : BitVec 16) (be : BitVec 8) (tee : Tee)
  | regLowHalfRead (fn : FnId) (offset : BitVec 16) (tee : Tee)
  | regHighHalfRead (fn : FnId) (offset : BitVec 16) (tee : Tee)
  | regLowHalfWrite (fn : FnId) (offset : BitVec 16) (value : BitVec 32) (be : BitVec 4) (tee : Tee)
  | regHighHalfWrite (fn : FnId) (offset : BitVec 16) (value : BitVec 32) (be : BitVec 4) (tee : Tee)
  | registerWrite (fn : FnId) (offset : BitVec 16) (value : BitVec 64) (be : BitVec 8) (tee : Tee)
  | intrHoldoffExpiry (fn : FnId)
  | msixUnmask (fn : FnId)
  | hostReadCompletion (tag : BitVec 14) (status : RcStatus) (data : Bytes) (finds : List LineFind)
  | completionTimeout (tag : BitVec 14)
  | flr (fn : FnId)
  | pfFlr
  | flrComplete (fn : FnId)
  | busMasterDisable (fn : FnId)
  | busMasterEnable (fn : FnId)
  | d3hotEntry (fn : FnId)
  | d0Return (fn : FnId)
  | vfEnableClear
  | vfEnableSet (numVFs : BitVec 6)
  | pcieLinkDown
  | pcieLinkUp (rate : BitVec 3) (width : BitVec 5)
  | linkRetrain (rate : BitVec 3) (width : BitVec 5)
  | ideIntegrityFailure (fn : FnId)
  | tdispRequest (fn : FnId) (m : Tdisp) (via : SpdmVia)
  -- the Mohapo commands (13_command_set): function, entry, and what its buffers hold
  | sessionReport (fn : FnId) (e : Entry)
  | linkPolicy (fn : FnId) (e : Entry) (buf : Buf)
  | consent (fn : FnId) (e : Entry)
  | instanceCreate (fn : FnId) (e : Entry)
  | instanceShares (fn : FnId) (e : Entry) (buf : Buf)
  | instanceResize (fn : FnId) (e : Entry)
  | instanceDestroy (fn : FnId) (e : Entry)
  | instanceQuery (fn : FnId) (e : Entry)
  | imageLoad (fn : FnId) (e : Entry) (image map : Buf)
  | imageUnload (fn : FnId) (e : Entry)
  | weightsLoad (fn : FnId) (e : Entry) (manifest handles : Buf)
  | weightsRepair (fn : FnId) (e : Entry) (manifest handles : Buf)
  | weightsDrop (fn : FnId) (e : Entry)
  | adapterRegister (fn : FnId) (e : Entry) (handle : Buf)
  | adapterWrite (fn : FnId) (e : Entry) (buf : Buf)
  | adapterRead (fn : FnId) (e : Entry)
  | adapterFetch (fn : FnId) (e : Entry)
  | unregister (fn : FnId) (e : Entry)
  | jobOpen (fn : FnId) (e : Entry) (record tensors : Buf)
  | jobClose (fn : FnId) (e : Entry)
  | reshard (fn : FnId) (e : Entry) (map sets hostSet : Buf)
  | jobQuery (fn : FnId) (e : Entry)
  | almanacSet (fn : FnId) (e : Entry) (table : Buf)
  | almanacQuery (fn : FnId) (e : Entry)
  | stepRun (fn : FnId) (e : Entry) (list param : Buf)
  | stepCancel (fn : FnId) (e : Entry)
  | syncRead (fn : FnId) (e : Entry)
  | syncSignal (fn : FnId) (e : Entry)
  | syncReset (fn : FnId) (e : Entry)
  | exportSet (fn : FnId) (e : Entry) (handle : Buf)
  | exportAck (fn : FnId) (e : Entry)
  | exportShard (fn : FnId) (e : Entry) (handle ids : Buf)
  | portMode (fn : FnId) (e : Entry)
  | portRetry (fn : FnId) (e : Entry)
  | deviceId (fn : FnId) (e : Entry)
  | qpOpen (fn : FnId) (e : Entry)
  | qpClose (fn : FnId) (e : Entry)
  | engineReset (fn : FnId) (e : Entry)
  | groupTest (fn : FnId) (e : Entry)
  | recal (fn : FnId) (e : Entry)
  | hold (fn : FnId) (e : Entry)
  | fwUpdate (fn : FnId) (e : Entry) (buf : Buf) (patch : Patch)
  | freeze (fn : FnId) (e : Entry)
  | save (fn : FnId) (e : Entry) (handle : Buf)
  | restore (fn : FnId) (e : Entry) (package : Buf)
  | thaw (fn : FnId) (e : Entry)
  | telemetryCores (fn : FnId) (e : Entry)
  | telemetryGroups (fn : FnId) (e : Entry)
  | telemetryClips (fn : FnId) (e : Entry)
  | telemetryEnergy (fn : FnId) (e : Entry) (eArray eFull : BitVec 32) (mv tenths : BitVec 16)
  -- isolation and attestation (14_isolation)
  | generationRaiseResume (fn : FnId)
  | engineDrainReport (fn : FnId) (engine : Nat)
  | removalFenceExpiry (fn : FnId)
  | setSealSecret (fn : FnId) (via : SpdmVia) (secret : BitVec 256)
  | setMigrationKey (fn : FnId) (via : SpdmVia) (key : BitVec 256)
  | clearSecrets (fn : FnId) (via : SpdmVia) (which : BitVec 8)
  | spdmGetMeasurements (fn : FnId) (via : SpdmVia) (index : BitVec 8) (sign : Bool) (slot : BitVec 1) (nonce : BitVec 256)
  | spdmGetCertificate (fn : FnId) (via : SpdmVia) (slot : BitVec 1)
  | spdmChallenge (fn : FnId) (via : SpdmVia) (slot : BitVec 1) (nonce : BitVec 256)
  | spdmKeyExchange (fn : FnId) (slot : BitVec 1) (heartbeat : BitVec 8)
  | spdmKeyUpdate (fn : FnId) (via : SpdmVia) (confirm : Bool)
  | timeAlign (port : Fin 96) (t1 : BitVec 64)
  | timeAlignTimer (t1 t2 t3 t4 : BitVec 64)
  -- the Porter and the management bus (15_errors, 17_pins_test)
  | functionReset (via : PorterVia) (inst : FnId) (elapsed : BitVec 16)
  | stallReset (via : PorterVia) (inst : FnId) (elapsed : BitVec 16)
  | deviceReset (via : PorterVia) (elapsed : BitVec 16)
  | zeroise (via : PorterVia) (elapsed : BitVec 16)
  | porterThermal (via : PorterVia) (elapsed : BitVec 16)
  | porterReport (via : PorterVia) (inst : FnId) (elapsed : BitVec 16)
  | treeRead (offset : BitVec 16)
  | testEnter
  | testExit
  | loopback (target : LoopTarget) (depth : BitVec 3) (pattern : BitVec 4) (ms : BitVec 16)
  | loopbackEnd (records : Bytes) (badFrames : List Nat)
  | mctpSetEndpointId (eid : BitVec 8)
  | dynamicAddressAssignment (addr : BitVec 7)
  | pldmGetSensor (sensor : Sensor) (measured : BitVec 32)
  | pldmSetEventReceiver (eid : BitVec 8)
  | pcieLoopbackEntry (enter : Bool)
  | tapBypass
  | tapIdcode
  | tapSamplePreload (preload : Bytes)
  | tapExtest
  | tapExtestPulse
  | tapExtestTrain
  | tapReset
  -- power, reset, clocks and Clerks (16_power_reset, 15_errors)
  | pwrokRise (otp flash : Option Patch) (straps : BitVec 3)
  | pwrokFall (railsInBand : Bool)
  | perstNFall
  | perstNRise
  | forceSafeNFall
  | forceSafeNRise
  | inputGlitch (pin : InPin)
  | timerefLoss
  | timerefReturn
  | linkRefclkLoss
  | linkRefclkReturn
  | pcieRefclkLoss
  | pcieRefclkReturn
  | supplyExcursion (rail : Fin 10)
  | supplyFailed (rail : Fin 10)
  | thermalTrip (isStack : Bool) (index : BitVec 6)
  | memoryTrainingComplete (failedParts : BitVec 28)
  | deviceResetRelease
  | baseDigestRecheck (computed : BitVec 384)
  | keyEngineError
  | porterFault (half : Half)
  | stallStateError (fn : FnId)
  | stallResetComplete (fn : FnId)
  | stallResetOverrun (fn : FnId) (silent : BitVec 64)
  | functionResetOverrun (fn : FnId)
  | clerkWatchdogMiss (half : Half) (otherAnswers : Bool)
  | clerkRestartComplete (ok : Bool)
  | offer
  | ready
  | grant
  | bridgeFailure
deriving DecidableEq, Repr

end Sys2Proof
end

