-- ==== Sys2Proof/Machine/Table.lean ====
section
/-! DEFINITION. Sparse tables by number, in one rising order; byte strings and numbers; memory of bytes in canonical form. -/

namespace Sys2Proof.Machine

/-- A sparse table: entries by rising key. A key that is not listed holds the table's default. -/
abbrev Tbl (α : Type) := List (Nat × α)

/-- The entry at key `i`, `d` where none is listed. -/
def Tbl.get {α : Type} (d : α) : Tbl α → Nat → α
  | [], _ => d
  | (k, v) :: t, i => if i < k then d else if i = k then v else Tbl.get d t i

/-- The table with `v` at key `i`. -/
def Tbl.set {α : Type} : Tbl α → Nat → α → Tbl α
  | [], i, v => [(i, v)]
  | (k, w) :: t, i, v =>
    if i < k then (i, v) :: (k, w) :: t
    else if i = k then (i, v) :: t
    else (k, w) :: Tbl.set t i v

/-- Change the entry at key `i`. -/
def Tbl.upd {α : Type} (d : α) (t : Tbl α) (i : Nat) (f : α → α) : Tbl α :=
  Tbl.set t i (f (Tbl.get d t i))

/-- The table without key `i`. -/
def Tbl.del {α : Type} (t : Tbl α) (i : Nat) : Tbl α := t.filter (fun p => p.1 != i)

/-- Write `v` at key `i` and keep the canonical form: a value equal to the default is not listed. -/
def Tbl.put {α : Type} [DecidableEq α] (d : α) : Tbl α → Nat → α → Tbl α
  | [], i, v => if v = d then [] else [(i, v)]
  | (k, w) :: t, i, v =>
    if i < k then (if v = d then (k, w) :: t else (i, v) :: (k, w) :: t)
    else if i = k then (if v = d then t else (i, v) :: t)
    else (k, w) :: Tbl.put d t i v

/-- Canonical form: keys strictly rising from `lo`, and no entry equal to the default. -/
def Tbl.wfFrom {α : Type} [DecidableEq α] (d : α) : Nat → Tbl α → Bool
  | _, [] => true
  | lo, (k, v) :: t => decide (lo ≤ k) && decide (v ≠ d) && Tbl.wfFrom d (k + 1) t

def Tbl.wf {α : Type} [DecidableEq α] (d : α) (t : Tbl α) : Bool := Tbl.wfFrom d 0 t

/-- A memory of bytes; an address that is not listed reads 0 (R70: SRAM is cleared to zero). -/
abbrev Mem := List Host.Cell

def Mem.wf (m : Mem) : Bool := Tbl.wf (0 : BitVec 8) m

def Mem.read1 (m : Mem) (a : Nat) : BitVec 8 := Tbl.get (0 : BitVec 8) m a

def Mem.write1 (m : Mem) (a : Nat) (b : BitVec 8) : Mem := Tbl.put (0 : BitVec 8) m a b

/-- `n` bytes from address `a`. -/
def Mem.read (m : Mem) (a n : Nat) : Bytes :=
  let l := m.filter (fun c => decide (a ≤ c.1) && decide (c.1 < a + n))
  (List.range n).map (fun i => Mem.read1 l (a + i))

/-- The listed cells of a byte string stored from address `a`: its non-zero bytes. -/
def Mem.cells (a : Nat) : Bytes → Mem
  | [] => []
  | b :: bs => if b = 0 then Mem.cells (a + 1) bs else (a, b) :: Mem.cells (a + 1) bs

/-- Store a byte string from address `a`: the cells below it, its own, the cells above it. -/
def Mem.write (m : Mem) (a : Nat) (bs : Bytes) : Mem :=
  m.filter (fun c => decide (c.1 < a)) ++ Mem.cells a bs ++ m.filter (fun c => decide (a + bs.length ≤ c.1))

/-- The number a little-endian byte string holds (R13). -/
def leNat : Bytes → Nat
  | [] => 0
  | b :: bs => b.toNat + 256 * leNat bs

/-- `n` little-endian bytes of a number (R13). -/
def leBytes : Nat → Nat → Bytes
  | 0, _ => []
  | n + 1, v => BitVec.ofNat 8 v :: leBytes n (v / 256)

/-- `n` bytes of `bs` from offset `o`, zeros past its end. -/
def sub (bs : Bytes) (o n : Nat) : Bytes :=
  let l := (bs.drop o).take n
  l ++ List.replicate (n - l.length) 0

/-- The little-endian number in `n` bytes at offset `o`. -/
def num (bs : Bytes) (o n : Nat) : Nat := leNat (sub bs o n)

/-- A 16-byte unit as a word. -/
def word128 (bs : Bytes) (o : Nat) : BitVec 128 := BitVec.ofNat 128 (num bs o 16)

/-- Bits [hi:lo] of a number. -/
def nfld (v hi lo : Nat) : Nat := (v >>> lo) % 2 ^ (hi + 1 - lo)

def nbit (v i : Nat) : Bool := v.testBit i

/-- Two's complement value of a `w`-bit number. -/
def signed (w v : Nat) : Int := if v < 2 ^ (w - 1) then (v : Int) else (v : Int) - (2 ^ w : Nat)

/-- The two's complement code of an integer in `w` bits. -/
def unsigned (w : Nat) (v : Int) : Nat := (v % (2 ^ w : Nat)).toNat

/-- `a` divided by `b`, rounded up. -/
def cdiv (a b : Nat) : Nat := (a + b - 1) / b

/-- All numbers `i < n` whose bit is set in a mask. -/
def bitsOf (n mask : Nat) : List Nat := (List.range n).filter (fun i => mask.testBit i)

/-- Cut a byte string into pieces of `n`. Structural on the fuel, which is the count of pieces. -/
def chunks (n : Nat) : Nat → Bytes → List Bytes
  | 0, _ => []
  | k + 1, bs => bs.take n :: chunks n k (bs.drop n)

def b2n (b : Bool) : Nat := if b then 1 else 0

end Sys2Proof.Machine
end

