-- ==== Sys2Proof/Machine/Num.lean ====
section
/-! DEFINITION. Number formats, the one rounding, scales and the ledger (02_numerics R38 to R68). -/

namespace Sys2Proof.Machine

/-- An exact value: a signed dyadic number m × 2^e (a zero keeps its sign, R40), an infinity or a NaN. -/
inductive Num where
  | fin (neg : Bool) (m : Nat) (e : Int)
  | inf (neg : Bool)
  | nan
deriving DecidableEq, Repr

/-- An element format of Table 2-1. `hasInf`: an all-ones exponent is reserved; `sat`: conversions saturate (R47). -/
structure Fmt where
  bits : Nat
  mbits : Nat
  bias : Nat
  hasInf : Bool
  sat : Bool
  maxCode : Nat
  nanCode : Nat
deriving DecidableEq, Repr

def Fmt.ebits (f : Fmt) : Nat := f.bits - 1 - f.mbits
def Fmt.emin (f : Fmt) : Int := 1 - (f.bias : Int)

def fp4 : Fmt := ⟨4, 1, 1, false, true, 0x7, 0x10⟩
def e4m3 : Fmt := ⟨8, 3, 7, false, true, 0x7E, 0x7F⟩
def e5m2 : Fmt := ⟨8, 2, 15, true, true, 0x7B, 0x7F⟩
def bf16 : Fmt := ⟨16, 7, 127, true, false, 0x7F7F, 0x7FC0⟩
def fp32 : Fmt := ⟨32, 23, 127, true, false, 0x7F7FFFFF, 0x7FC00000⟩
/-- FP32 with 16 explicit mantissa bits (R133), held without its seven zero bits. -/
def fp32s16 : Fmt := ⟨25, 16, 127, true, false, 0xFEFFFF, 0xFF8000⟩

/-- The element's emax of R49 and R52. -/
def Fmt.emax (f : Fmt) : Int := if f = fp4 then 2 else if f = e4m3 then 8 else 15

/-- The value of a code (Table 2-1, R39: subnormals are exact). -/
def decode (f : Fmt) (code : Nat) : Num :=
  let s := code.testBit (f.bits - 1)
  let ex := nfld code (f.bits - 2) f.mbits
  let ma := code % 2 ^ f.mbits
  let top := 2 ^ f.ebits - 1
  if f = e4m3 && ex == top && ma == 7 then .nan
  else if f.hasInf && ex == top then (if ma = 0 then .inf s else .nan)
  else if ex = 0 then .fin s ma (f.emin - f.mbits)
  else .fin s (2 ^ f.mbits + ma) ((ex : Int) - f.bias - f.mbits)

/-- floor(m × 2^e ÷ 2^q), the floor that `round_ta` needs. -/
def shiftFloor (m : Nat) (e q : Int) : Nat :=
  if q ≤ e then m <<< (e - q).toNat else m >>> (q - e).toNat

/-- floor(log2 (m × 2^e)) for m > 0. -/
def ilog (m : Nat) (e : Int) : Int := (m.log2 : Int) + e

/-- The outcome of a conversion: the value, whether it clipped, whether it sets the non-finite indicator (Table 2-3). -/
structure Conv where
  code : Nat
  clip : Bool := false
  nf : Bool := false
deriving DecidableEq, Repr

def signBit (f : Fmt) (neg : Bool) : Nat := if neg then 2 ^ (f.bits - 1) else 0

/-- `round_ta` (R46) of a magnitude known through `fl`, where `fl q` is floor(x ÷ 2^q), with `l` = floor(log2 x):
n = floor(x ÷ q + 1/2) is (floor(2x ÷ q) + 1) ÷ 2. Overflow follows R47. -/
def roundBy (f : Fmt) (neg : Bool) (fl : Int → Nat) (l : Int) : Conv :=
  let e := max l f.emin
  let q := e - f.mbits
  let n := (fl (q - 1) + 1) / 2
  let code :=
    if n < 2 ^ f.mbits then n
    else if n < 2 ^ (f.mbits + 1) then ((e + f.bias).toNat) * 2 ^ f.mbits + (n - 2 ^ f.mbits)
    else ((e + 1 + f.bias).toNat) * 2 ^ f.mbits
  if code > f.maxCode then
    if f.sat then ⟨signBit f neg + f.maxCode, true, false⟩
    else ⟨signBit f neg + (2 ^ f.ebits - 1) * 2 ^ f.mbits, false, true⟩
  else ⟨signBit f neg + code, false, false⟩

/-- Conversion of an exact value into a format, by Table 2-3. An FP4 element of a non-finite value is code 0x0. -/
def convert (f : Fmt) : Num → Conv
  | .fin neg m e => if m = 0 then ⟨signBit f neg, false, false⟩ else roundBy f neg (shiftFloor m e) (ilog m e)
  | .inf neg =>
    if f = fp4 then ⟨0, false, true⟩
    else if f = e4m3 then ⟨f.nanCode, false, true⟩
    else ⟨signBit f neg + (2 ^ f.ebits - 1) * 2 ^ f.mbits, false, true⟩
  | .nan => if f = fp4 then ⟨0, false, true⟩ else ⟨f.nanCode, false, true⟩

def Num.isFin : Num → Bool
  | .fin .. => true
  | _ => false

def Num.isZero : Num → Bool
  | .fin _ m _ => m == 0
  | _ => false

def Num.neg : Num → Num
  | .fin s m e => .fin (!s) m e
  | .inf s => .inf (!s)
  | .nan => .nan

def Num.abs : Num → Num
  | .fin _ m e => .fin false m e
  | .inf _ => .inf false
  | .nan => .nan

/-- The signed mantissa of a finite value. -/
def sInt (neg : Bool) (m : Nat) : Int := if neg then -(m : Int) else m

/-- Exact product (R41: 0 × ∞ is NaN). -/
def Num.mul : Num → Num → Num
  | .nan, _ => .nan
  | _, .nan => .nan
  | .fin s m e, .fin t n k => .fin (s != t) (m * n) (e + k)
  | .inf s, .inf t => .inf (s != t)
  | .fin s m _, .inf t => if m = 0 then .nan else .inf (s != t)
  | .inf s, .fin t n _ => if n = 0 then .nan else .inf (s != t)

/-- Exact sum (R40: a zero sum is +0 unless both terms are −0; R41: ∞ − ∞ is NaN). -/
def Num.add : Num → Num → Num
  | .nan, _ => .nan
  | _, .nan => .nan
  | .inf s, .inf t => if s = t then .inf s else .nan
  | .inf s, .fin .. => .inf s
  | .fin .., .inf t => .inf t
  | .fin s m e, .fin t n k =>
    let l := min e k
    let v := sInt s (m <<< (e - l).toNat) + sInt t (n <<< (k - l).toNat)
    if v = 0 then .fin (s && t && m == 0 && n == 0) 0 l else .fin (decide (v < 0)) v.natAbs l

/-- Exact sum of a list of terms; the empty sum is +0. -/
def Num.sum : List Num → Num
  | [] => .fin false 0 0
  | x :: xs => xs.foldl Num.add x

/-- Multiplication by 2^k, exact. -/
def Num.pow2 (x : Num) (k : Int) : Num :=
  match x with
  | .fin s m e => .fin s m (e + k)
  | y => y

/-- Strict order of two values; a NaN compares with nothing. Zeros are equal. -/
def Num.lt : Num → Num → Bool
  | .nan, _ => false
  | _, .nan => false
  | .inf s, .inf t => s && !t
  | .inf s, .fin .. => s
  | .fin .., .inf t => !t
  | .fin s m e, .fin t n k =>
    let l := min e k
    decide (sInt s (m <<< (e - l).toNat) < sInt t (n <<< (k - l).toNat))

def Num.eq (x y : Num) : Bool := x != .nan && y != .nan && !(Num.lt x y) && !(Num.lt y x)

/-- The value of an E8M0 scale code (R42: 0xFF is NaN). -/
def e8m0 (code : Nat) : Num := if code = 0xFF then .nan else .fin false 1 ((code : Int) - 127)

/-- R49: the row scale code of an amax. -/
def clampScale (k : Int) : Nat := (max 0 (min 254 k)).toNat

def rowScale (amax : Num) (elem : Fmt) : Nat :=
  match amax with
  | .fin _ m e => if m = 0 then 0 else clampScale (ilog m e - elem.emax + 127)
  | _ => 127

/-- The largest magnitude over the finite values of a list, +0 where there is none (R49). -/
def amaxOf (xs : List Num) : Num :=
  xs.foldl (fun a x => if x.isFin && Num.lt a x.abs then x.abs else a) (.fin false 0 0)

/-- R50: one MXFP4 block: 0xFF where a value is not finite, else R49 with emax 2. -/
def blockScale (xs : List Num) : Nat :=
  if xs.all Num.isFin then rowScale (amaxOf xs) fp4 else 0xFF

/-- R52: the tensor scale of a history of FP32 codes (0 entries: no history, read as scale 0). -/
def tensorScale (history : List Nat) (elem : Fmt) : Nat :=
  match amaxOf (history.map (decode fp32)) with
  | .fin _ m e => if m = 0 then 0 else clampScale (ilog m e - elem.emax + 1 + 127)
  | _ => 0

/-- The value of an FP32 code. -/
def f32 (c : BitVec 32) : Num := decode fp32 c.toNat

/-- `round_ta(x, fp32)` as a code. -/
def toF32 (x : Num) : BitVec 32 := BitVec.ofNat 32 (convert fp32 x).code

def isFin32 (c : BitVec 32) : Bool := (f32 c).isFin

/-- The canonical NaN of FP32 (R41). -/
def nan32 : BitVec 32 := 0x7FC00000

/-- 1.0 in FP32. -/
def one32 : BitVec 32 := 0x3F800000

/-- floor of the square root, by Newton steps under fuel. -/
def isqrtGo (n : Nat) : Nat → Nat → Nat
  | 0, x => x
  | k + 1, x => let y := (x + n / x) / 2; if y < x then isqrtGo n k y else x

def isqrt (n : Nat) : Nat := if n = 0 then 0 else isqrtGo n (n.log2 + 8) (2 ^ (n.log2 / 2 + 1))

/-- floor(a ÷ b × 2^-q) for naturals. -/
def ratFloor (a b : Nat) (q : Int) : Nat :=
  if 0 ≤ q then a / (b <<< q.toNat) else (a <<< (-q).toNat) / b

/-- floor(log2 (a ÷ b)) for positive a, b. -/
def ratLog (a b : Nat) : Int :=
  let g : Int := (a.log2 : Int) - (b.log2 : Int)
  if 0 ≤ g then (if b <<< g.toNat ≤ a then g else g - 1)
  else (if b ≤ a <<< (-g).toNat then g else g - 1)

/-- An exact quotient rounded once into a format. Division by zero gives the signed infinity (Table 5-8), 0 ÷ 0 NaN. -/
def divConv (f : Fmt) : Num → Num → Conv
  | .fin s m e, .fin t n k =>
    if n = 0 then (if m = 0 then convert f .nan else convert f (.inf (s != t)))
    else if m = 0 then convert f (.fin (s != t) 0 0)
    else
      let d := e - k
      let a := if 0 ≤ d then m <<< d.toNat else m
      let b := if 0 ≤ d then n else n <<< (-d).toNat
      roundBy f (s != t) (ratFloor a b) (ratLog a b)
  | .fin s _ _, .inf t => convert f (.fin (s != t) 0 0)
  | .inf s, .fin t _ _ => convert f (.inf (s != t))
  | _, _ => convert f .nan

/-- The exact square root rounded once. −0 gives −0, a negative value NaN (Table 5-8). -/
def sqrtConv (f : Fmt) : Num → Conv
  | .fin s m e =>
    if m = 0 then ⟨signBit f s, false, false⟩
    else if s then convert f .nan
    else
      let m' := if e % 2 = 0 then m else m * 2
      let e' := if e % 2 = 0 then e else e - 1
      let fl := fun (q : Int) => isqrt (shiftFloor m' e' (2 * q))
      roundBy f false fl ((ilog m' e') / 2)
  | .inf s => if s then convert f .nan else convert f (.inf false)
  | .nan => convert f .nan

/-- The exact reciprocal square root rounded once. -/
def rsqrtConv (f : Fmt) : Num → Conv
  | .fin s m e =>
    if m = 0 then convert f (.inf s)
    else if s then convert f .nan
    else
      let a := if e < 0 then 1 <<< (-e).toNat else 1
      let b := if e < 0 then m else m <<< e.toNat
      let fl := fun (q : Int) => isqrt (ratFloor a b (2 * q))
      roundBy f false fl (ratLog a b / 2)
  | .inf s => if s then convert f .nan else ⟨0, false, false⟩
  | .nan => convert f .nan

/-- A ledger word's value is 128-bit two's complement (R62). The result of a ledger addition: word, OVERFLOW, NONFINITE. -/
structure LedgerRes where
  word : BitVec 128
  ovf : Bool := false
  nonfinite : Bool := false
deriving DecidableEq, Repr

/-- Integer addition into a ledger word with saturation (R64, R65). -/
def ledgerAddInt (w : BitVec 128) (n : Int) : LedgerRes :=
  let s := w.toInt + n
  if s > 2 ^ 127 - 1 then ⟨BitVec.ofInt 128 (2 ^ 127 - 1), true, false⟩
  else if s < -(2 ^ 127) then ⟨BitVec.ofInt 128 (-(2 ^ 127)), true, false⟩
  else ⟨BitVec.ofInt 128 s, false, false⟩

/-- The grid integer of a finite value at exponent e_t, ties away from zero (R64). -/
def ledgerGrid (neg : Bool) (m : Nat) (e et : Int) : Int :=
  sInt neg ((shiftFloor m e (et - 64 - 1) + 1) / 2)

/-- One term into a ledger (R64). -/
def ledgerAdd (w : BitVec 128) (p : Num) (et : Int) : LedgerRes :=
  match p with
  | .fin s m e => ledgerAddInt w (ledgerGrid s m e et)
  | _ => ⟨w, false, true⟩

/-- The value a ledger word stands for (R62). -/
def ledgerNum (w : BitVec 128) (et : Int) : Num :=
  .fin (decide (w.toInt < 0)) w.toInt.natAbs (et - 64)

end Sys2Proof.Machine
end

