-- ==== Sys2Proof/Machine/Codec.lean ====
section
/-! DEFINITION. Check codes and the exponent compression (R172 to R175, R240, R253). -/

namespace Sys2Proof.Machine

/-- One reflected CRC step over a byte, `poly` reflected. -/
def crcByte (poly : Nat) (c : Nat) (b : BitVec 8) : Nat :=
  (List.range 8).foldl (fun c _ => if c % 2 = 1 then (c / 2) ^^^ poly else c / 2) (c ^^^ b.toNat)

/-- CRC-32C (Castagnoli, reflected, all-ones start and final inversion). PRESUMED, log entry 9. -/
def crc32c (bs : Bytes) : Nat := (bs.foldl (crcByte 0x82F63B78) 0xFFFFFFFF) ^^^ 0xFFFFFFFF

/-- CRC-64/XZ with the ECMA-182 polynomial of R240, reflected. -/
def crc64Go (c : Nat) (bs : Bytes) : Nat := bs.foldl (crcByte 0xC96C5795D7870F42) c

def crc64 (bs : Bytes) : Nat := (crc64Go 0xFFFFFFFFFFFFFFFF bs) ^^^ 0xFFFFFFFFFFFFFFFF

/-- Parameters of Table 6-7: element bits, mantissa bits, exponent bits, width bits of w. -/
structure PackFmt where
  bits : Nat
  mant : Nat
  exp : Nat
  wbits : Nat

def packFmt : Nat → PackFmt
  | 0 => ⟨8, 3, 4, 3⟩
  | 1 => ⟨8, 2, 5, 3⟩
  | 2 => ⟨16, 7, 8, 4⟩
  | 3 => ⟨32, 23, 8, 4⟩
  | _ => ⟨4, 1, 2, 2⟩

/-- A number as `w` bits, lowest first. -/
def toBits (w v : Nat) : List Bool := (List.range w).map (fun i => v.testBit i)

def ofBits (bs : List Bool) : Nat := bs.foldr (fun b acc => 2 * acc + b2n b) 0

/-- Pack bits into bytes, bit 0 first, padded with zeros to a whole byte (R174). -/
def packBits (bs : List Bool) : Bytes :=
  (List.range (cdiv bs.length 8)).map (fun i => BitVec.ofNat 8 (ofBits ((bs.drop (8 * i)).take 8)))

def unpackBits (bs : Bytes) : List Bool := bs.flatMap (fun b => toBits 8 b.toNat)

/-- The elements of a 4096-byte block, lowest bits first. -/
def blockElems (bits : Nat) (bs : Bytes) : List Nat :=
  (List.range (4096 * 8 / bits)).map (fun i =>
    if bits = 4 then nfld ((bs.getD (i / 2) 0).toNat) (4 * (i % 2) + 3) (4 * (i % 2))
    else num bs (i * (bits / 8)) (bits / 8))

/-- The bits of the smallest width that holds `d`. -/
def widthOf (d : Nat) : Nat := if d = 0 then 0 else d.log2 + 1

/-- Header and differences of one group of 64 elements (R174). -/
def packGroup (p : PackFmt) (es : List Nat) : Bytes :=
  let xs := es.map (fun e => nfld e (p.bits - 2) p.mant)
  let lo := xs.foldl min (xs.headD 0)
  let w := widthOf (xs.foldl max 0 - lo)
  packBits (toBits p.exp lo ++ toBits p.wbits w) ++ packBits (xs.flatMap (fun x => toBits w (x - lo)))

/-- The payload of a block of 4096 source bytes, or nothing where it is stored raw (R174). -/
def packBlock (fmt : Nat) (bs : Bytes) : Option Bytes :=
  let p := packFmt fmt
  let es := blockElems p.bits bs
  let groups := (List.range (es.length / 64)).flatMap (fun g => packGroup p ((es.drop (64 * g)).take 64))
  let sm := packBits (es.flatMap (fun e => toBits p.mant e ++ [e.testBit (p.bits - 1)]))
  let raw := groups ++ sm
  let pay := raw ++ List.replicate (cdiv raw.length 16 * 16 - raw.length) 0
  if pay.length < 4096 then some pay else none

/-- Block map entry of Table 6-6. -/
def mapEntry (fmt : Nat) (src : Bytes) (offset16 : Nat) : Nat × Bytes :=
  match packBlock fmt src with
  | some pay => (crc32c src + (fmt <<< 33) + ((pay.length / 16) <<< 36) + (offset16 <<< 45), pay)
  | none => (crc32c src + (1 <<< 32) + (fmt <<< 33) + (256 <<< 36) + (offset16 <<< 45), src)

/-- Read the exponents of the groups of a payload: remaining bytes and exponents, or failure (a width wider than the format). -/
def unpackGroups (p : PackFmt) : Nat → Bytes → Option (List Nat × Bytes)
  | 0, bs => some ([], bs)
  | g + 1, bs =>
    let hb := cdiv (p.exp + p.wbits) 8
    let h := num bs 0 hb
    let lo := h % 2 ^ p.exp
    let w := nfld h (p.exp + p.wbits - 1) p.exp
    if w > p.exp then none
    else
      let ds := unpackBits ((bs.drop hb).take (8 * w))
      let xs := (List.range 64).map (fun i => lo + ofBits ((ds.drop (i * w)).take w))
      match unpackGroups p g (bs.drop (hb + 8 * w)) with
      | some (ys, rest) => some (xs ++ ys, rest)
      | none => none

/-- Elements back into bytes. -/
def elemBytes (bits : Nat) (es : List Nat) : Bytes :=
  if bits = 4 then
    (List.range (es.length / 2)).map (fun i => BitVec.ofNat 8 (es.getD (2 * i) 0 + 16 * es.getD (2 * i + 1) 0))
  else es.flatMap (fun e => leBytes (bits / 8) e)

/-- Decode a stored block by its map entry and check its CRC (R175). Nothing: the check fails. -/
def unpackBlock (entry : Nat) (pay : Bytes) : Option Bytes :=
  let src :=
    if nbit entry 32 then some (sub pay 0 4096)
    else
      let p := packFmt (nfld entry 35 33)
      let n := 4096 * 8 / p.bits
      match unpackGroups p (n / 64) pay with
      | none => none
      | some (xs, rest) =>
        let sm := unpackBits rest
        some (elemBytes p.bits ((List.range n).map (fun i =>
          let f := ofBits ((sm.drop (i * (p.mant + 1))).take (p.mant + 1))
          f % 2 ^ p.mant + ((xs.getD i 0) % 2 ^ p.exp) <<< p.mant + (f / 2 ^ p.mant) <<< (p.bits - 1))))
  match src with
  | some s => if crc32c s = entry % 2 ^ 32 then some s else none
  | none => none

end Sys2Proof.Machine
end

