-- ==== Sys2Proof/Config.lean ====
section
/-! DEFINITION. What a part fixes and what the manual leaves free: opaque constants without a body (log entries 5, 8 and 13), and the figures of tables that every chapter uses. -/

namespace Sys2Proof.Config

/-- The bits of the n-th free draw: random bits (R180, R378), unspecified values (R6). Log entry 5. -/
opaque freeBits : Nat → BitVec 1024

/-- The calibrated VREQ of a group in mV, fused at test (R213). The manual gives no value. Log entry 13. -/
opaque vreqCalRaw : Nat → Nat

/-- The calibrated VREQ lies from 550 to 850 mV whatever the part (R213). -/
def vreqCal (g : Nat) : Nat := 550 + vreqCalRaw g % 301

/-- SHA-384 of FIPS 180-4, which the manual only names (R171, R350, R369). Log entry 8. -/
opaque sha384 : Bytes → BitVec 384

/-- A signature of an SPDM response with the key of a certificate slot (R368). Log entry 8. -/
opaque spdmSign : Nat → Bytes → Bytes

/-- The certificate chain of a slot under a firmware patch level (R368). Log entry 8. -/
opaque certChain : Nat → Nat → Bytes

/-- A key derived by HKDF or the KDF of R180, R268, R378. Log entry 8. -/
opaque deriveKey : Bytes → BitVec 256

/-- Sealed bytes under a key, nonce and additional data (AES-256-GCM, R179, R260, R378). Log entry 8. -/
opaque gcmSeal : BitVec 256 → Nat → Bytes → Bytes → Bytes

/-- Opens sealed bytes, or nothing where the tag does not verify. Log entry 8. -/
opaque gcmOpen : BitVec 256 → Nat → Bytes → Bytes → Option Bytes

/-- The digest of the mask ROM (block 1 of Table 14-2), which the manual does not print. Log entry 8. -/
opaque romDigest : BitVec 384

/-- SHA-384 of the patch set of a level, and of none for level 0 (block 2 of Table 14-2). Log entry 8. -/
opaque patchDigest : Nat → BitVec 384

/-- The enabled-core map of block 3 (Table 14-2), by physical core. Log entry 13. -/
opaque coreMap : Bytes

/-- Device serial number, from OTP (R300, R368). Log entry 13. -/
opaque serial : BitVec 64

/-- The part's step: B0 reads [23:16] = 0x10 (R1, Table 12-4). -/
def step : Nat := 0x10

/-- The signal a TAP scan captures from the balls (R450). Log entry 13. -/
opaque tapCapture : Nat → BitVec 64

/-- IDCODE below its step number (R450). Log entry 13. -/
opaque idcodeRest : BitVec 28

/-- Spare rows of a part (R190). Log entry 13. -/
opaque spareRows : Nat → Nat

/-- The row scale code of a negative amax in format M, for which R49 states no logarithm (R139). A free value. Log entry 5. -/
opaque rowScaleOfNegative : BitVec 32 → Nat → BitVec 8

end Sys2Proof.Config
end

