-- ==== Sys2Proof/Machine/State.lean ====
section
/-! DEFINITION. The state of the device, as plain data. Numbers that the manual treats as bits are bit vectors where software reads them as registers; parsed descriptors, counts and addresses are naturals. INVENTORY.md lists each field with its rule and its reset value. -/

namespace Sys2Proof.Machine

/-! ## Cores (03, 04, 05) -/

/-- A weight block in a bank (R79, R82): element codes in the order [k][j], and its scales. -/
structure Block where
  fmt : Nat
  mx : Bool
  k32 : Bool
  trans : Bool
  tscale : Nat
  scales : Bytes
  elems : List Nat
deriving DecidableEq, Repr

/-- The side-array's configuration, Table 3-7. -/
structure SideCfg where
  phase : Bool
  rank : Nat
  sfmt : Bool
  ledger : Bool
  table : Nat
  uAddr : Nat
  rslice : Nat
  eT : Int
deriving DecidableEq, Repr

/-- A PASS on the array: its descriptor, what it was issued with, and how far it has come (R79, R80, R126). -/
structure PassJob where
  d : Desc
  seq : Nat
  started : Bool
  blk : Option Block
  epi : Option Nat
  side : Option SideCfg
  kIndex : Nat
  entered : Nat
  written : Nat
  rows : List Bytes
  residues : List Residue
deriving DecidableEq, Repr

/-- Work that takes effect in issue order on the array (R84, R112, R126). -/
inductive ArrayJob where
  | pass (p : PassJob)
  | side (cfg : SideCfg) (seq : Nat)
  | prologue (att : Option Nat) (seq : Nat)
deriving DecidableEq, Repr

/-- An attached or running tile program: its TILEPROG, whether it has been read and checked (R130), its instructions and argument block, and the rows and tiles it has been handed (R124). -/
structure Att where
  id : Nat
  d : Desc
  seq : Nat
  loaded : Bool := false
  instrs : List (BitVec 32) := []
  tail : Nat := 0
  args : Bytes := []
  rowsDone : Nat := 0
  tilesDone : Nat := 0
deriving DecidableEq, Repr

/-- A tile of accumulators handed to the epilogue (R128): accumulator addresses of its rows, and the PASS's number. -/
structure EpiTile where
  att : Nat
  acc : List Nat
  seq : Nat
deriving DecidableEq, Repr

/-- LOAD_BLOCK, MOVE or SPILL handed to its unit (R84). -/
structure UnitJob where
  d : Desc
  seq : Nat
  /-- A predicted fetch that neither issued nor completes: dropped without trace (R87). -/
  predicted : Bool
deriving DecidableEq, Repr

/-- A send handed to the sender (Table 3-10, R141), its data read when it was handed over. -/
structure SendJob where
  seq : Nat
  remote : Bool
  sig : Bool
  ledger : Bool
  data : Bytes
  dcore : Nat
  /-- Destination byte address. -/
  dest : Nat
  flow : Nat
  sync : Nat
deriving DecidableEq, Repr

/-- A queued signal (R84). -/
structure SigJob where
  kind : Nat
  obj : Nat
  value : Nat
  seq : Nat
deriving DecidableEq, Repr

/-- A predicted fetch (R87): what it names, whether it completed, whether the region was written since. -/
structure Pred where
  sram : Nat
  len : Nat
  mem : Nat
  done : Bool
  dirty : Bool
deriving DecidableEq, Repr

/-- First cause of a stop, in the order of Table 8-4; `host` and `reset`: a transfer that the step's host withdrew, or whose engine was reset (R319, R320). -/
inductive StopWhy where
  | memory | fabric | device | host | reset
deriving DecidableEq, Repr

/-- What the sequencer is doing (R84, R86, R452). -/
inductive SeqMode where
  | idle
  | running
  | waiting (obj thresh : Nat) (deadline : Option Nat)
  | fencing (mask : Nat)
  | ending
  | stopped (why : StopWhy)
deriving DecidableEq, Repr

/-- Whose task runs on a core. -/
structure TaskRef where
  fn : Nat
  bubble : Bool
  tag : Nat
deriving DecidableEq, Repr

/-- The last scale codes a row section latched (R139). -/
inductive Latch where
  | none
  | row (code : Nat)
  | blocks (c0 c1 : Nat)
deriving DecidableEq, Repr

/-- The vector engine and the point of its program where it stands (R122 to R124). -/
structure Engine where
  /-- Registers V0 to V31; a register that is not listed holds +0 in every lane. -/
  regs : Tbl (List (BitVec 32)) := []
  /-- Column trees: leaves by row, for trees 0 to 3. -/
  trees : Tbl (Tbl (List (BitVec 32))) := []
  /-- Trees that hold maxima (CMAX) and not sums. -/
  maxTrees : List Nat := []
  latch : Latch := .none
  wide : Bool := false
  epilogue : Bool := false
  args : Bytes := []
  /-- The prepared accumulator lanes of the current row (R142). -/
  acc : List (BitVec 32) := []
  tile : Nat := 0
  row : Nat := 0
  tileRows : Nat := 0
  runRow : Nat := 0
  inTail : Bool := false
deriving DecidableEq, Repr

/-- The part of a core that belongs to the task it runs, and that a suspension spills (R218). -/
structure Work where
  task : Option TaskRef := none
  mode : SeqMode := .idle
  pos : Nat := 0
  seq : Nat := 0
  shadow : Option Block := none
  active : Option Block := none
  loadIssued : Bool := false
  everActive : Bool := false
  sideIssued : Bool := false
  side : Option SideCfg := none
  kIndex : Nat := 0
  tickPasses : Nat := 0
  /-- The side-array's first block has been loaded (R112). -/
  sideReady : Bool := false
  loadQ : List UnitJob := []
  moveQ : List UnitJob := []
  sendQ : List SendJob := []
  /-- Remote sends handed to their flows and not yet acknowledged: number of the descriptor, flow, and the flow's SEQ after their last frame (R86). -/
  remoteQ : List (Nat × Nat × Nat) := []
  sigQ : List SigJob := []
  arrayQ : List ArrayJob := []
  preds : List Pred := []
  atts : List Att := []
  prologue : Option Nat := none
  epilogue : Option Nat := none
  epiQ : List EpiTile := []
  runs : List Nat := []
  nextAtt : Nat := 1
  eng : Engine := {}
  lastBarrier : Option (Nat × Nat) := none
deriving DecidableEq, Repr

/-- The spilled copy of a core while its bubble work is suspended (R218, R219). -/
structure Spilled where
  mem : Mem
  poison : List Nat
  work : Work
deriving DecidableEq, Repr

/-- A core (Table 3-1, Table 3-2). -/
structure Core where
  sram : Mem := []
  /-- Poisoned 64-bit words of SRAM, by word number (R71). -/
  poison : List Nat := []
  steps : BitVec 64 := 0
  rows : BitVec 64 := 0
  waitSteps : BitVec 64 := 0
  gapSteps : BitVec 64 := 0
  work : Work := {}
  spilled : Option Spilled := none
  /-- Column and row of a cell recorded for field repair (R78). -/
  badCell : Option (Nat × Nat) := none
deriving DecidableEq, Repr

/-- A core group: the transit monitor (Table 8-7), heat (R215), service (R95, R214). -/
structure Group where
  rate : BitVec 16 := 0
  low : BitVec 16 := 0
  mstate : BitVec 2 := 0
  vreq : Option (BitVec 10) := none
  raises : BitVec 16 := 0
  faults : BitVec 16 := 0
  high : Nat := 0
  temp : Nat := 0
  level : Nat := 0
  outOfService : Bool := false
  degraded : Bool := false
  speedFault : Bool := false
deriving DecidableEq, Repr

/-- A sync object record (Table 8-9) with its declared initial state (R225). -/
structure SyncObj where
  kind : BitVec 2 := 3
  cls : Bool := false
  inst : BitVec 6 := 0
  gen : BitVec 16 := 0
  phase : BitVec 16 := 0
  count : BitVec 32 := 0
  members : BitVec 32 := 0
  initial : BitVec 32 := 0
deriving DecidableEq, Repr

/-! ## Device memory (06, 07) -/

/-- STATE of a line (Table 7-1). -/
inductive LState where
  | zero | clear | enc
deriving DecidableEq, Repr

/-- A line: its bytes, its metadata, and for an ENC line the key triple and logical line it is sealed under (R179, R180; log entry 6). -/
structure Line where
  data : Bytes := []
  st : LState := .zero
  counter : Nat := 0
  map : Nat := 0
  poison : BitVec 4 := 0
  sealInst : Nat := 0
  sealGen : Nat := 0
  sealEpoch : Nat := 0
  sealLine : Nat := 0
deriving DecidableEq, Repr

/-- A set of parts (R156, R157): parts 0 to 11 are stacks, 12 to 27 packages. -/
structure PartSet where
  parts : List Nat
  base : Nat
  size : Nat
deriving DecidableEq, Repr

/-- HOME of a page (Table 6-3). -/
inductive Home where
  | fast | slow | store
deriving DecidableEq, Repr

/-- A translation entry (Table 6-3). An entry that is not listed has VALID = 0. -/
structure Pte where
  valid : Bool := false
  big : Bool := false
  home : Home := .fast
  moving : Bool := false
  base : Bool := false
  write : Bool := false
  packed : Bool := false
  rt : Bool := false
  inst : Nat := 0
  gen : Nat := 0
  epoch : Nat := 0
  set : Nat := 0
  frame : Nat := 0
  moveId : Nat := 0
  /-- The MAP given to the mapping (R181). -/
  map : Nat := 0
  /-- The page holds the training state of a job (R232). -/
  training : Bool := false
  /-- Frames that a PACKED page's stored space takes (R173); 0: as many as it may take. -/
  stored : Nat := 0
deriving DecidableEq, Repr

/-- A move record (R162). -/
structure MoveRec where
  id : Nat
  inst : Nat
  page : Nat
  home : Home
  set : Nat
  frame : Nat
  /-- Object signalled when the move ends (R169), if any. -/
  done : Option Nat
deriving DecidableEq, Repr

/-- A re-key record (R185). -/
structure RekeyRec where
  inst : Nat
  page : Nat
  epoch : Nat
  map : Nat
  done : List Nat
deriving DecidableEq, Repr

/-- A resource an activity declares (Table 7-6); pages by their key. -/
inductive Res where
  | part (p : Nat)
  | page (key : Nat)
  | frame (part frame : Nat)
  | channel (part ch : Nat)
  | group (g : Nat)
  | pagesOf (inst : Nat)
  | epochsOf (inst : Nat)
  | otherClerk
  | token
deriving DecidableEq, Repr

/-- The kinds of activity of the maintenance arbiter (Table 7-6). -/
inductive ActKind where
  | sc | rk | mv | fr | pc | cg | ts | fw | mh
deriving DecidableEq, Repr

/-- An activity, declared or running, with the MAINT command that asked for it, if any. -/
structure Act where
  id : Nat
  kind : ActKind
  res : List Res
  running : Bool
  tag : Option Nat
  /-- The group, part, seconds or patch level the activity names. -/
  arg : Nat
  /-- Device time at which a measurement hold must end (R194). -/
  endBy : Option Nat
deriving DecidableEq, Repr

/-- Frames that wait for tenant scrub, with the generation they held (R366, R391). -/
structure ScrubRun where
  set : Nat
  frame : Nat
  count : Nat
  inst : Nat
  gen : Nat
deriving DecidableEq, Repr

/-- The base model (R171, R361). -/
structure BaseModel where
  digest : BitVec 384 := 0
  loaded : Bool := false
  /-- The window is readable to stalls (R171, R419). -/
  window : Bool := false
  pages : Nat := 0
  /-- Poisoned 4 KiB blocks, by block number in the window. -/
  poisoned : List Nat := []
  manifest : Bytes := []
  /-- The load or repair in progress: its TAG, the region handles, the extents still to come, their bytes so far. -/
  load : Option (Nat × Bytes) := none
  repair : Bool := false
  /-- Bytes of each extent as they have been read from its region, by its number in the manifest. -/
  arrived : Tbl Bytes := []
  /-- Region handles of the load or repair. -/
  handles : Bytes := []
  /-- The base sets (R158), while they hold anything. -/
  fastSet : Option Nat := none
  slowSet : Option Nat := none
deriving DecidableEq, Repr

/-! ## The Viltal image (13) -/

structure Program where
  index : Nat
  cls : Bool
  kind : Nat
  firstTask : Nat
  tasks : Nat
  firstLayer : Nat
  layers : Nat
  inRow : Nat
  outRow : Nat
  thresh : Nat
  budget : Nat
  base : Nat
  perRow : Nat
  perTicket : Nat
  perSlice : Nat
  f : Nat
  wBase : Nat
  wRow : Nat
  fuTicket : Nat
  fuRow : Nat
  tktAddr : Nat
  batchAddr : Nat
  maxRows : Nat
  inRegion : Nat
  outRegion : Nat
deriving DecidableEq, Repr

structure TaskEnt where
  program : Nat
  substep : Nat
  cores : Nat
  entry : Nat
deriving DecidableEq, Repr

structure Region where
  base : Nat
  len : Nat
  big : Bool
  slow : Bool
  rt : Bool
  offload : Bool
  recompute : Bool
  packed : Bool
  spill : Bool
  outTrig : Nat
  backTrig : Nat
  backDone : Nat
deriving DecidableEq, Repr

structure Preload where
  firstCore : Nat
  cores : Nat
  bubble : Bool
  program : Nat
  sram : Nat
  len : Nat
  data : Nat
deriving DecidableEq, Repr

structure Reloc where
  unit : Nat
  lsb : Nat
  width : Nat
  kind : Nat
  arg : Nat
deriving DecidableEq, Repr

structure SyncDecl where
  number : Nat
  kind : Nat
  bubble : Bool
  members : Nat
  initial : Nat
deriving DecidableEq, Repr

structure FlowDecl where
  flow : Nat
  recv : Bool
  bubble : Bool
  peer : Nat
  rate : Nat
  cut : Nat
deriving DecidableEq, Repr

structure Cut where
  cls : Nat
  pipe : Bool
  gap : Nat
  members : List Nat
deriving DecidableEq, Repr

/-- A collective descriptor (Table 10-7) with its member list: device, flow, permute target. -/
structure Coll where
  kind : Nat
  bubble : Bool
  compress : Bool
  fmt : Nat
  eT : Int
  members : Nat
  index : Nat
  coll : Nat
  core : Nat
  src : Nat
  dst : Nat
  len : Nat
  trigger : Nat
  thresh : Nat
  done : Nat
  timeout : Nat
  cut : Nat
  list : List (Nat × Nat × Nat)
  listAddr : Nat
deriving DecidableEq, Repr

structure TileEnt where
  prog : Nat
  args : Nat
  core : Nat
  bubble : Bool
  program : Nat
deriving DecidableEq, Repr

structure Layer where
  tC : Nat
  tS : Nat
  weights : Nat
  bytes : Nat
  scaled : Bool
  cnt : Nat
deriving DecidableEq, Repr

structure Counter where
  cnt : Nat
  kind : Bool
  layer : Nat
  tensor : Nat
deriving DecidableEq, Repr

/-- A member map entry (Table 11-1). -/
structure MapEnt where
  device : Nat
  flowBase : Nat
  group : Nat
deriving DecidableEq, Repr

structure Image where
  rtKeep : Nat := 0
  stallMap : Nat := 0
  expertAddr : Nat := 0
  expertLen : Nat := 0
  programs : List Program := []
  tasks : List TaskEnt := []
  regions : List Region := []
  preloads : List Preload := []
  relocs : List Reloc := []
  syncs : List SyncDecl := []
  flows : List FlowDecl := []
  cuts : List Cut := []
  colls : List Coll := []
  tileprogs : List TileEnt := []
  layers : List Layer := []
  counters : List Counter := []
  data : Bytes := []
  map : List MapEnt := []
  /-- The image as it was read, before relocation (R356; kept for SAVE and for a RESIZE that replaces groups). -/
  raw : Bytes := []
  /-- The member number of this device in the map. -/
  self : Nat := 0
  digest : BitVec 384 := 0
deriving DecidableEq, Repr

/-! ## Stalls, almanacs and steps (08) -/

/-- A slot entry (Table 8-3). -/
structure Slot where
  offset : Nat
  length : Nat
  bubble : Bool
  program : Nat
  bound : Nat
deriving DecidableEq, Repr

/-- An almanac in force or waiting, with the TAG of its command while it waits (R202). -/
structure Almanac where
  cycle : Nat
  start : Nat
  slots : List Slot
  tag : Option Nat
deriving DecidableEq, Repr

/-- Resources of a stall (Table 8-1). -/
structure Stall where
  groups : BitVec 64
  syncBase : Nat
  syncCount : Nat
  flowBase : Nat
  flows : Nat
  fast : Nat
  slow : Nat
  cat : Nat
  hot : Nat
  fastMask : Nat
  slowMask : Nat
  fastSet : Nat
  slowSet : Nat
  /-- Set weights: parts 0 to 27, then H_in and H_out (28, 29); a weight that is not listed is defaulted (R159, R211). -/
  weights : Tbl (Option Nat) := []
  inReset : Bool := false
  /-- The bubble work is suspended (R218). -/
  suspended : Bool := false
  /-- The real-time occurrence that is lent to bubble work (R208): slot and number. -/
  lent : Option (Nat × Nat) := none
  /-- End of the last occurrence that had an accepted step (R202). -/
  busyUntil : Nat := 0
deriving DecidableEq, Repr

/-- Where a STEP RUN stands (R203, R116, R217, R241 to R245). -/
inductive StepAt where
  | queued
  | parked
  | accepted (slot occ start : Nat)
  | running (slot occ start : Nat)
  | bubble (substep : Nat)
  | sweeping
  | verdict
  | committing (at5 : Bool)
deriving DecidableEq, Repr

/-- A STEP RUN in progress. -/
structure Step where
  tag : Nat
  kind : Nat
  program : Nat
  job : Nat
  inFabric : Bool
  inAddr : Nat
  outAddr : Nat
  normAddr : Nat
  inSync : Nat
  inThresh : Nat
  rows : Nat
  /-- Adapter of each row in host order, by runs: id and rows; 0xFFFF_FFFF is none (R333). -/
  runs : List (Nat × Nat)
  sort : Bool
  lr : BitVec 32
  gmul : BitVec 32
  eTs : List Int
  /-- Placed order: host row number of each placed row (R99). -/
  order : List Nat := []
  at_ : StepAt := .queued
  firstUse : Bool := false
  clipOver : Bool := false
  nonfinite : Bool := false
  ledgerFlag : Bool := false
  failed : Bool := false
  reruns : Nat := 0
  cause : Option StopWhy := none
  /-- Cores that run its tasks, and how many of them have not ended. -/
  cores : List Nat := []
  /-- Ingest of host rows: bytes asked for, and the pieces that have arrived, by offset (R319). -/
  asked : Nat := 0
  stage : List (Nat × Bytes) := []
  verdictByte : BitVec 8 := 0
  /-- Start and bound of the occurrence it was accepted into (R204). -/
  begins : Nat := 0
  bound : Option Nat := none
  /-- The PCIe link was lost while it was outstanding: nothing of it is written (R205). -/
  muted : Bool := false
deriving DecidableEq, Repr

/-! ## Adapters and jobs (04, 09) -/

/-- A catalogue registration (R113) with its residency. -/
structure Adapter where
  id : Nat
  rank : Nat
  sfmt : Bool
  efmt : Bool
  layers : Nat
  size : Nat
  store : Bool
  handle : Bytes
  gen : Nat
  /-- Master data as registered or written (R113). -/
  master : Bytes
  /-- Slot data with both working banks, kept at the home while the adapter is not resident; empty where nothing but the master exists. -/
  saved : Bytes := []
  poisoned : Bool := false
  writeBack : Nat := 0
  /-- Bytes that the store holds since the last write-back; 0: the master alone, as registered. -/
  backed : Nat := 0
  /-- Whether every tensor has a history (R55). -/
  history : Bool := false
  /-- Hot-set slot while resident. -/
  slot : Option Nat := none
  /-- Logical address and bytes of its window pages while resident (R453). -/
  waddr : Nat := 0
  wpages : Nat := 0
  lastUse : Nat := 0
  /-- A fetch is under way. -/
  fetching : Bool := false
  /-- An early read fills its slot (R120): not resident to any command. -/
  early : Bool := false
  /-- TAG of an ADAPTER FETCH that waits (R117), and the TAGs of the steps that rank before it. -/
  fetchTag : Option Nat := none
  fetchBehind : List Nat := []
  /-- UNREGISTER waits for pins to end. -/
  unregTag : Option Nat := none
  /-- A host WRITE that waits for its next step boundary (R119). -/
  pendingWrite : Option (Nat × Bytes) := none
deriving DecidableEq, Repr

/-- A trained tensor entry (Table 9-1). -/
structure Tensor where
  adapter : Nat
  layer : Nat
  kindB : Bool
  rank : Nat
  sgd : Bool
  bf16M : Bool
  stepSet : Bool
  eT : Int
  glen : Nat
  off : Nat
  len : Nat
  b1 : BitVec 32
  b2 : BitVec 32
  eps : BitVec 32
  wd : BitVec 32
  lrMult : BitVec 32
  state : Nat
deriving DecidableEq, Repr

inductive JobState where
  | jOpen | jLost | jReshard
deriving DecidableEq, Repr

/-- What an EXPORT SET asks for (Table 13-12). -/
structure ExportSpec where
  tag : Nat
  mode : Nat
  storage : Bool
  addr : Nat
  handle : Bytes
  slots : Nat
  slotBytes : Nat
  notify : Nat
deriving DecidableEq, Repr

/-- An export under a SET (R345). -/
structure Export where
  spec : ExportSpec
  acked : Nat
  /-- Record sets not yet delivered: COMMITTED value and bytes. -/
  queue : List (Nat × Bytes)
  delivered : Nat
  stopped : Bool
  /-- A SET that replaces this one once the set being written is delivered. -/
  next : Option ExportSpec
deriving DecidableEq, Repr

/-- A contribution to a verdict as this device holds it: from which member, the byte, and a digest for each replica group combined into it (R242, R279). -/
structure Vote where
  member : Nat
  byte : BitVec 8
  groups : List (Nat × BitVec 64)
deriving DecidableEq, Repr

/-- Results of a sweep that wait for the verdict: for each tensor the pending header, and the norm ledgers (R236, R237, R248). -/
structure SweepRes where
  p1 : BitVec 32
  p2 : BitVec 32
  amax : BitVec 32
  gn : BitVec 128
  wn : BitVec 128
  un : BitVec 128
  sat : Bool
deriving DecidableEq, Repr

/-- A shard snapshot that is still reading (R254): its TAG, the banks it reads, where it goes. -/
structure Snapshot where
  tag : Nat
  bank : Nat
  shard : Bytes
  addr : Nat
  storage : Bool
  handle : Bytes
  step : Nat
deriving DecidableEq, Repr

/-- A re-shard (R293 to R297). -/
structure Reshard where
  tag : Nat
  /-- The new member map. -/
  map : List MapEnt
  /-- N, or D with FROM_SETS. -/
  n : Nat
  fromSets : Bool
  /-- QUEUED behind a step of the job. -/
  waiting : Bool
  /-- This device takes new states: a new holder, a holder whose copy is poisoned, or every member with FROM_SETS. -/
  takes : Bool
  /-- Members that the verdict runs over, in order. -/
  union : List MapEnt := []
  /-- FROM_SETS: the region handle of this shard's set, or the set as the host buffer holds it. -/
  handle : Bytes := []
  hostSet : Option Bytes := none
  /-- Bytes that have come from each source, by device. -/
  got : Tbl Bytes := []
  /-- New states by the index of their tensor: master, moments, header and history. -/
  states : Tbl Bytes := []
deriving DecidableEq, Repr

structure Job where
  id : Nat
  timeoutUs : Nat
  map : List MapEnt
  tensors : List Tensor
  committed : Nat := 0
  working : Bool := false
  st : JobState := .jOpen
  exp : Option Export := none
  votes : List Vote := []
  contributed : Bool := false
  contribAt : Nat := 0
  lost : List Nat := []
  sweep : List SweepRes := []
  digest : BitVec 64 := 0
  snapshot : Option Snapshot := none
  /-- A re-shard that waits or runs. -/
  reshard : Option Reshard := none
  pendClips : Tbl (Nat × Nat) := []
deriving DecidableEq, Repr

/-! ## Functions (12) -/

/-- A completion entry before it has its place in the ring (Table 12-7). -/
structure Cpl where
  tag : Nat
  status : Nat
  final : Bool
  flags : Nat
  time : Nat
  result : Nat
  /-- Bound of the accepted step it covers, for HOST_DELAY (R314). -/
  bound : Option Nat := none
deriving DecidableEq, Repr

/-- The registers and configuration bits of one function (Table 12-4, R300, R304, R324). -/
structure Fn where
  sumCpl : Bool := false
  sumExport : Bool := false
  sumMaint : Bool := false
  sumEnable : BitVec 9 := 0
  holdoff : BitVec 10 := 0
  attnEnable : BitVec 8 := 0xFE
  cmdBase : BitVec 64 := 0
  cmdSize : BitVec 5 := 0
  cmdEnable : Bool := false
  cmdHead : BitVec 16 := 0
  cplBase : BitVec 64 := 0
  cplSize : BitVec 5 := 0
  cplEnable : Bool := false
  cplHead : BitVec 16 := 0
  cplTail : BitVec 16 := 0
  cplPhase : Bool := true
  /-- The producer index last written (R310). -/
  doorbell : BitVec 16 := 0
  /-- Entries that outstanding fetches will return (R310, R311). -/
  fetching : Nat := 0
  taken : List Entry := []
  held : List Cpl := []
  rdShadow : Option (Nat × BitVec 32) := none
  wrShadow : Option (Nat × BitVec 32) := none
  msixEnable : Bool := false
  msixFnMask : Bool := false
  msixTable : BitVec 128 := 0x00000001000000000000000000000000
  pba : Bool := false
  intxDisable : Bool := false
  lastMsg : Option Nat := none
  msgDue : Bool := false
  bme : Bool := false
  mse : Bool := false
  d3hot : Bool := false
  /-- Enable Relaxed Ordering (R315): no row writes it, and it marks data writes on the link only. -/
  ro : Bool := true
  flr : Bool := false
deriving DecidableEq, Repr

/-- A cause bit with its record (Table 15-4). -/
structure Cause where
  bit : Bool := false
  valid : Bool := false
  detail : BitVec 32 := 0
  count : BitVec 16 := 0
  inst : BitVec 6 := 0
  time : BitVec 64 := 0
deriving DecidableEq, Repr

/-- What a host read feeds (R319). -/
inductive ReadFor where
  | ingest (tag : Nat)
deriving DecidableEq, Repr

/-- An outstanding host read. -/
structure DmaRead where
  tag : Nat
  fn : Nat
  gen : Nat
  engine : Nat
  engGen : Nat
  use : ReadFor
  offset : Nat
  len : Nat
deriving DecidableEq, Repr

/-! ## Instances (14) -/

inductive TdiState where
  | unlocked | locked | run | error
deriving DecidableEq, Repr

/-- An SPDM session (R367, R371). -/
structure Session where
  id : Nat
  slot : Nat
  heartbeat : Nat
  keyGen : Nat
  /-- An update awaits the requester's confirmation. -/
  updating : Bool
deriving DecidableEq, Repr

/-- The progress of Table 14-7 for an instance. -/
structure Removal where
  /-- TAG of the PF's DESTROY, or none for a removal without a command. -/
  tag : Option Nat
  fenceAt : Nat
  /-- Engines and ports that have not reported a drain. -/
  waiting : List Nat
  dropped : Nat
  keepStall : Bool
deriving DecidableEq, Repr

structure Inst where
  gen : BitVec 16 := 0
  rootKey : Nat := 0
  epoch : Nat := 1
  nextMap : Nat := 0
  debug : Bool := false
  profile : Bool := false
  sealSecret : Option (BitVec 256) := none
  migKey : Option (BitVec 256) := none
  tdi : TdiState := .unlocked
  stream : Nat := 0
  lockSession : Option Nat := none
  sessions : List Session := []
  frozen : Bool := false
  /-- A FREEZE in progress: its TAG (R386). -/
  freezing : Option Nat := none
  report : Bytes := []
  /-- The content of the blocks when the last report was made (R370). -/
  reported : Bytes := []
  stall : Option Stall := none
  image : Option Image := none
  /-- An image load that waits: TAG, image, flows still to match (R286), waiting for the base digest (R419). -/
  loading : Option (Nat × Image × List Nat × Bool) := none
  almanac : Option Almanac := none
  nextAlmanac : Option Almanac := none
  steps : List Step := []
  jobs : List Job := []
  adapters : List Adapter := []
  removal : Option Removal := none
  /-- A generation raise that waits (R366). -/
  raiseWaits : Bool := false
  /-- Clip counters by pair: committed, and of the step in progress (converted, clipped). -/
  clips : Tbl (Nat × Nat) := []
  stepClips : Tbl (Nat × Nat) := []
deriving DecidableEq, Repr

/-! ## The fabric (10) -/

inductive PortMode where
  | off | sfl | storage
deriving DecidableEq, Repr

inductive PortSt where
  | off | down | training | hailing | attesting | up | refused | stopping
deriving DecidableEq, Repr

/-- A frame kept for replay or retention. -/
structure Kept where
  seq : Nat
  hdr : BitVec 256
  payload : Bytes
  tries : Nat
deriving DecidableEq, Repr

/-- A frame that waits for its turn or a credit at an output port, and the buffer of a receiving port it still holds (R264, R265). -/
structure TxFrame where
  hdr : BitVec 256
  payload : Bytes
  holds : Option (Nat × Nat)
deriving DecidableEq, Repr

/-- One link port (R255 to R269, Table 10-9). -/
structure Port where
  mode : PortMode := .sfl
  st : PortSt := .down
  lkey : Bool := false
  /-- Key update: frames under both generations are accepted until the peer confirms (R268). -/
  keySwitch : Bool := false
  peerPort : BitVec 7 := 0x7F
  peerDev : BitVec 14 := 0x3FFF
  peerCert : BitVec 256 := 0
  rtt : BitVec 16 := 0
  tags : BitVec 10 := 0
  replays : BitVec 16 := 0
  downs : BitVec 16 := 0
  fecCorr : BitVec 32 := 0
  dropGen : BitVec 16 := 0
  dropTarget : BitVec 16 := 0
  dropKey : BitVec 16 := 0
  dropOther : BitVec 16 := 0
  nextLseq : Nat := 0
  expLseq : Nat := 0
  /-- A NAK has been sent and the named frame has not arrived (R262). -/
  nakSent : Bool := false
  replay : List Kept := []
  firstTx : Nat := 0
  /-- The second in which replays are counted, and their count (Table 15-6, REPLAY_HIGH). -/
  replayFrom : Nat := 0
  replayCount : Nat := 0
  /-- Frames that wait to be sent. -/
  queue : List TxFrame := []
  /-- Credits used per pool of the peer: pools 0 to 7 reserved ((VC − 1) × 2 + class), 8 and 9 shared by class, 10 control. -/
  used : Tbl Nat := []
  /-- Buffers of this receiver held, by pool. -/
  buffered : Tbl Nat := []
  /-- Freed buffers whose credit has not been returned yet, by pool. -/
  owed : Tbl Nat := []
  hailCount : BitVec 8 := 0
  echo : BitVec 8 := 0
  /-- Real-time reservations: destination device × 2^20 + flow, and rate in MB/s (R265). -/
  reserved : Tbl Nat := []
  /-- Storage port: rate reductions by CNP, and PFC pause (R280). -/
  cnps : Nat := 0
  paused : Bool := false
  loop : Bool := false
deriving DecidableEq, Repr

/-- Source entry of a flow (R271, R272). -/
structure FlowSrc where
  dest : Nat
  flow : Nat
  fn : Nat
  gen : Nat
  dstInst : Nat
  dstGen : Nat
  bubble : Bool
  rate : Nat
  path : Nat
  alt : Nat
  epoch : Nat := 0
  nextSeq : Nat := 0
  retained : List Kept := []
  /-- Frames that wait for a retention tag or for the end of a fence. -/
  queue : List TxFrame := []
  timeouts : Nat := 0
  broken : Bool := false
  fenced : Bool := false
  opened : Bool := false
deriving DecidableEq, Repr

/-- Destination entry of a flow. -/
structure FlowDst where
  src : Nat
  fn : Nat
  gen : Nat
  bubble : Bool
  expSeq : Nat := 0
  epoch : Nat := 0
  unacked : Nat := 0
  opened : Bool := false
  /-- Port over which the last frame came, for answers. -/
  port : Nat := 0
deriving DecidableEq, Repr

/-- A collective in progress on this device (R276 to R278). -/
structure CollRun where
  fn : Nat
  coll : Nat
  startedAt : Nat
  /-- This device's own part has been sent. -/
  started : Bool
  /-- Destination bytes that each member has brought. -/
  got : Tbl Nat
  /-- Coded bytes of a member that do not yet make a block (COMPRESS). -/
  streams : Tbl Bytes
deriving DecidableEq, Repr

/-- A storage queue pair (R280, MAINT QP_OPEN). -/
structure Qp where
  port : Nat
  qpn : Nat
  fn : Nat
  gen : Nat
  lgid : BitVec 128
  ipv6 : Bool
  psn : Nat := 0
deriving DecidableEq, Repr

/-- What an RDMA request serves (R282). -/
inductive RdmaFor where
  | weights (extent : Nat)
  | adapter (id : Nat)
  | recordSet (job : Nat)
  | shard (tag length step : Nat)
  | package (inst tag : Nat)
  | recordSets (job shard : Nat)
deriving DecidableEq, Repr

structure Rdma where
  id : Nat
  port : Nat
  qpn : Nat
  fn : Nat
  gen : Nat
  write : Bool
  use : RdmaFor
  /-- Bytes to write, or bytes read so far. -/
  data : Bytes
  want : Nat
  /-- Remote address of its first byte. -/
  addr : Nat
  /-- It has gone out; it waits while the port is paused or its limits are reached (Table 10-8). -/
  sent : Bool
  fetches : Nat
  retries : Nat
  psn : Nat
deriving DecidableEq, Repr

/-- A neighbour or a farther device in the topology table (R270). -/
structure TopoEnt where
  dev : Nat
  cert : BitVec 256
  /-- UP ports and their peers: port, peer device, peer port. -/
  links : List (Nat × Nat × Nat)
deriving DecidableEq, Repr

/-! ## Power and pins (15, 16, 17) -/

inductive Phase where
  | cold | starting | operational | reset | off | tripped
deriving DecidableEq, Repr

inductive TokenMsg where
  | none | offer | ready | grant
deriving DecidableEq, Repr

/-- The Porter window (Table 15-8). -/
structure Porter where
  busy : Bool := false
  done : Bool := false
  rejected : Bool := false
  op : Nat := 0
  inst : BitVec 6 := 0
  lastOp : BitVec 4 := 0
  elapsed : BitVec 16 := 0
  result : Bytes := []
deriving DecidableEq, Repr

structure LoopTest where
  target : LoopTarget
  depth : Nat
deriving DecidableEq, Repr

/-- What the device drives or answers. -/
inductive Out where
  | hostData (fn addr : Nat) (bytes : Bytes)
  | completion (fn addr : Nat) (entry : BitVec 256)
  | notify (fn addr : Nat) (value : BitVec 64)
  | msix (fn : Nat) (addr : BitVec 64) (data : BitVec 32)
  | inta (on : Bool)
  | readDone (fn offset : Nat) (value : Option (BitVec 64))
  | hostRead (fn tag addr len : Nat)
  | cmdFetch (fn first count : Nat)
  | frame (port : Nat) (hdr : BitVec 256) (payload : Bytes)
  | rdma (port qpn : Nat) (write : Bool) (req : Nat) (addr : Nat) (bytes : Bytes)
  | cnpSent (port : Nat)
  | mgmt (status : Nat) (bytes : Bytes)
  | doe (fn : Nat) (bytes : Bytes)
  | attnN (level : Bool)
  | thermtripN (level : Bool)
  | pldm (bytes : Bytes)
  | tdo (bits : BitVec 64)
  | dropped
deriving DecidableEq, Repr

/-- Device-wide state of the power, pins, clocks and Clerks. -/
structure Sys where
  phase : Phase := .cold
  pwrok : Bool := false
  perstN : Bool := false
  forceSafeN : Bool := true
  thermtripN : Bool := true
  attnN : Bool := true
  straps : BitVec 3 := 0
  timerefOk : Bool := true
  timerefLost : Bool := false
  linkRefclkOk : Bool := true
  pcieRefclkOk : Bool := true
  alignOffset : Int := 0
  aligned : Bool := false
  heldBack : Nat := 0
  flashTrip : Bool := false
  token : Option Half := some .west
  /-- GRANT is on its way to this Clerk, and neither holds the token (R428). -/
  grantTo : Option Half := none
  lastMsg : TokenMsg := .none
  westClerk : Bool := true
  eastClerk : Bool := true
  bridgeOk : Bool := true
  stoppedHalf : Option Half := none
  /-- Live firmware update (Table 16-4): 0 steps 1 and 2, 1 the other Clerk runs the new patch set, 2 the token has passed, 3 both run it. -/
  fwStage : Nat := 0
  /-- Values of the PLDM state sensors as last reported: thermal, device state, TIMEREF, presiding Clerk (R444). -/
  sensed : List Nat := [0, 0, 0, 0]
  patch : BitVec 16 := 0
  porter : Porter := {}
  testState : Bool := false
  loop : Option LoopTest := none
  /-- TAP instruction: 0 BYPASS, 1 IDCODE, 2 SAMPLE/PRELOAD, 3 EXTEST, 4 EXTEST_PULSE, 5 EXTEST_TRAIN. -/
  tapIr : Nat := 1
  preload : Bytes := []
  mctpEid : BitVec 8 := 0
  i3cAddr : BitVec 7 := 0
  eventRx : BitVec 8 := 0
  devId : BitVec 14 := 0x3FFF
  square : BitVec 8 := 0
  pos : BitVec 6 := 0
  topoChanges : BitVec 32 := 0
  linkUp : Bool := false
  pcieLoop : Bool := false
  linkRate : BitVec 3 := 6
  linkWidth : BitVec 5 := 16
  vfEnable : Bool := false
  numVFs : BitVec 6 := 0
  fatal : Bool := false
  /-- The device waits for the recomputed digest of the kept base model (R419). -/
  baseRecheck : Bool := false
  linkPolicy : List (BitVec 384) := []
  failedParts : BitVec 28 := 0
deriving DecidableEq, Repr

/-- The state of the block. -/
structure State where
  pending : List Instr := []
  now : BitVec 64 := 0
  free : Nat := 0
  out : List Out := []
  sys : Sys := {}
  fns : Tbl Fn := []
  insts : Tbl Inst := []
  /-- Causes, keyed (tree × 16 + group) × 32 + bit, where tree is the function, or 64 for the device-wide tree. -/
  causes : Tbl Cause := []
  padded : List (Nat × Nat × Cpl) := []
  dmaReads : List DmaRead := []
  tagsBusy : List Nat := []
  dmaGen : Tbl Nat := []
  linkGen : Tbl Nat := []
  cores : Tbl Core := []
  groups : Tbl Group := []
  stackTemp : Tbl Nat := []
  stackLevel : Tbl Nat := []
  sync : Tbl SyncObj := []
  /-- Lines by part × 2^32 + line within the part. -/
  lines : Tbl Line := []
  sets : List PartSet := []
  /-- Entries by instance × 2^33 + logical address ÷ 64 KiB; the base window under key 64 × 2^33. -/
  pages : Tbl Pte := []
  moves : List MoveRec := []
  rekeys : List RekeyRec := []
  retired : List (Nat × Nat) := []
  /-- Device times of corrected reads in the last 24 hours, by (part × 2^32 + line) × 4 + word (R190). -/
  corrections : Tbl (List Nat) := []
  scrub : List ScrubRun := []
  /-- Spare rows used per part. -/
  sparesUsed : Tbl Nat := []
  acts : List Act := []
  nextAct : Nat := 1
  base : BaseModel := {}
  ports : Tbl Port := []
  flowSrc : Tbl FlowSrc := []
  flowDst : Tbl FlowDst := []
  topo : List TopoEnt := []
  /-- Route table: destination device to path words (R270). -/
  routes : Tbl (List Nat) := []
  colls : List CollRun := []
  qps : List Qp := []
  rdmas : List Rdma := []
  nextReq : Nat := 1
deriving DecidableEq, Repr

/-- Reasons to stop with a fault. -/
inductive Fault where
  /-- Raised by a visit of patrol scrub, tenant scrub or frame retirement that names a line or frame beyond its part's capacity (R149: no such address). Safe: nothing is claimed of it. -/
  | beyondPart
deriving DecidableEq, Repr

/-- Reasons to refuse a command. -/
inductive Refusal where
  /-- Not modelled yet, by the mnemonic of its row. No meaning answers with it. Safe. -/
  | notModelled (mnemonic : String)
deriving DecidableEq, Repr

/-- The device as the cold reset holds it, before PWROK rises (R415, R418): every table empty, every register at the value of its table; log entries 2 and 3. -/
def State.reset : State := {}

end Sys2Proof.Machine
end

