-- ==== Sys2Proof/Machine/Access.lean ====
section
/-! DEFINITION. Reads and updates of the numbered records of the state: one accessor for each table. -/

namespace Sys2Proof.Machine

def State.fn (s : State) (i : Nat) : Fn := Tbl.get {} s.fns i
def State.updFn (s : State) (i : Nat) (f : Fn → Fn) : State := { s with fns := Tbl.upd {} s.fns i f }

def State.inst (s : State) (i : Nat) : Inst := Tbl.get {} s.insts i
def State.updInst (s : State) (i : Nat) (f : Inst → Inst) : State := { s with insts := Tbl.upd {} s.insts i f }

def State.core (s : State) (i : Nat) : Core := Tbl.get {} s.cores i
def State.updCore (s : State) (i : Nat) (f : Core → Core) : State := { s with cores := Tbl.upd {} s.cores i f }

/-- The task-side part of a core. -/
def State.work (s : State) (i : Nat) : Work := (s.core i).work
def State.updWork (s : State) (i : Nat) (f : Work → Work) : State := s.updCore i (fun c => { c with work := f c.work })

def State.updEng (s : State) (i : Nat) (f : Engine → Engine) : State := s.updWork i (fun w => { w with eng := f w.eng })

def State.group (s : State) (i : Nat) : Group := Tbl.get {} s.groups i
def State.updGroup (s : State) (i : Nat) (f : Group → Group) : State := { s with groups := Tbl.upd {} s.groups i f }

def State.obj (s : State) (i : Nat) : SyncObj := Tbl.get {} s.sync i
def State.updObj (s : State) (i : Nat) (f : SyncObj → SyncObj) : State := { s with sync := Tbl.upd {} s.sync i f }

def State.port (s : State) (i : Nat) : Port := Tbl.get {} s.ports i
def State.updPort (s : State) (i : Nat) (f : Port → Port) : State := { s with ports := Tbl.upd {} s.ports i f }

def State.line (s : State) (key : Nat) : Line := Tbl.get {} s.lines key
/-- Store a line and keep the memory's canonical form: a fresh ZERO line is not listed. -/
def State.setLine (s : State) (key : Nat) (l : Line) : State := { s with lines := Tbl.put {} s.lines key l }

def State.updSys (s : State) (f : Sys → Sys) : State := { s with sys := f s.sys }

/-- Record an output, newest first (log entry 4). -/
def State.emit (s : State) (o : Out) : State := { s with out := o :: s.out }

/-- Draw free bits (log entry 5). -/
def State.draw (s : State) : BitVec 1024 × State := (Config.freeBits s.free, { s with free := s.free + 1 })

/-- The instance whose stall holds a core group (R196). -/
def State.ownerOf (s : State) (g : Nat) : Option Nat :=
  (s.insts.find? (fun p => match p.2.stall with | some st => st.groups.getLsbD g | none => false)).map (·.1)

/-- The group of a core (R20). -/
def groupOf (core : Nat) : Nat := core / 64

/-- The instance a core works for: its task's, or else its stall's owner. -/
def State.coreInst (s : State) (core : Nat) : Nat :=
  match (s.work core).task with
  | some t => t.fn
  | none => (s.ownerOf (groupOf core)).getD 0

/-- The groups of a stall, in ascending order. -/
def Stall.groupList (st : Stall) : List Nat := bitsOf 64 st.groups.toNat

/-- The cores of a stall in ascending device index: relative numbers (R197). -/
def Stall.cores (st : Stall) : List Nat :=
  st.groupList.flatMap (fun g => (List.range 64).map (fun k => g * 64 + k))

/-- The device index of a relative core number (R197). -/
def Stall.coreAt (st : Stall) (rel : Nat) : Option Nat :=
  match st.groupList[rel / 64]? with
  | some g => some (g * 64 + rel % 64)
  | none => none

/-- The relative number of a device index (R197). -/
def Stall.relOf (st : Stall) (core : Nat) : Option Nat :=
  match st.groupList.findIdx? (· == core / 64) with
  | some i => some (i * 64 + core % 64)
  | none => none

def Stall.holds (st : Stall) (core : Nat) : Bool := st.groups.getLsbD (core / 64)

/-- The stall of an instance. -/
def State.stall (s : State) (i : Nat) : Option Stall := (s.inst i).stall

def State.updStall (s : State) (i : Nat) (f : Stall → Stall) : State :=
  s.updInst i (fun n => { n with stall := n.stall.map f })

/-- FW_VERSION (Table 12-4). -/
def State.fwVersion (s : State) : Nat := 0x00010000 + s.sys.patch.toNat

/-- Apply an update for each element of a list. -/
def forEach {α : Type} (f : α → State → State) : List α → State → State
  | [], s => s
  | a :: as, s => forEach f as (f a s)

/-- The numbers of the functions that exist (R301). -/
def State.fnExists (s : State) (f : Nat) : Bool := f == 0 || (s.sys.vfEnable && decide (f ≤ s.sys.numVFs.toNat))

/-- Device time counts from the rise of PWROK until power goes (R415, R420). -/
def Phase.timed : Phase → Bool
  | .cold | .off => false
  | _ => true

end Sys2Proof.Machine
end

