-- ==== Sys2Proof/Machine/Flags.lean ====
section
/-! DEFINITION. Causes and their records, SUMMARY_STATUS, interrupts and ATTN_N (12_host_interface R308, R324 to R326; 15_errors R395 to R401). -/

namespace Sys2Proof.Machine

/-- The tree number of the device-wide tree. -/
def devTree : Nat := 64

/-- The key of a cause: its tree, group and bit. -/
def causeKey (tree g b : Nat) : Nat := (tree * 16 + g) * 32 + b

/-- The function whose SUMMARY_STATUS follows a tree: the PF for the device-wide tree (R397). -/
def treeFn (tree : Nat) : Nat := if tree = devTree then 0 else tree

/-- The class codes of the causes of one group, bit 0 first (Tables 15-5 and 15-6); 0: no such bit. -/
def groupClasses : Nat → List Nat
  | 0 => [1, 2, 2, 1, 1, 2, 2]
  | 1 => [2, 2, 1, 2, 1, 2, 2, 2, 2]
  | 2 => [1, 2, 1, 2, 3]
  | 3 => [2, 1, 2, 2, 2, 2, 3, 3, 3]
  | 4 => [3, 3, 3, 4]
  | 5 => [5]
  | 8 => [1, 2, 1, 1, 1, 1]
  | 9 => [3, 1, 1]
  | 10 => [6, 6, 6, 6, 6, 1]
  | 11 => [1, 3, 1, 3, 1, 4, 1, 1, 4]
  | 12 => [5, 5, 1, 4, 4]
  | 13 => [1, 2, 3, 1]
  | 14 => [1, 1, 1]
  | 15 => [1, 4, 1]
  | _ => []

/-- The class of a cause (R395, R396). -/
def causeClass (g b : Nat) : Nat := (groupClasses g).getD b 0

/-- The causes whose bit follows a state and is not cleared by a write (R398). -/
def isLive (g b : Nat) : Bool := (g == 5 && b == 0) || (g == 12 && (b == 0 || b == 1))

/-- The classes present in a tree: bit c is set while a cause of class c is set. -/
def treeClasses (s : State) (tree : Nat) : Nat :=
  s.causes.foldl (fun acc p =>
    if p.1 / 512 = tree && p.2.bit then acc ||| (1 <<< causeClass ((p.1 / 32) % 16) (p.1 % 32)) else acc) 0

/-- SUMMARY_STATUS of a function (Table 12-4, R308; the PF follows both trees, R397). Bit 6 is RSVD in a VF (R307). -/
def State.summary (s : State) (fn : Nat) : Nat :=
  let f := s.fn fn
  let tree := treeClasses s fn ||| (if fn = 0 then treeClasses s devTree else 0)
  let follow := if fn = 0 then nfld tree 6 1 else nfld tree 5 1
  b2n f.sumCpl + 2 * follow + 128 * b2n f.sumExport + 256 * b2n f.sumMaint

def State.enabledSummary (s : State) (fn : Nat) : Nat := s.summary fn &&& (s.fn fn).sumEnable.toNat

/-- Whether the PF asserts INTA (R325). -/
def State.intaOn (s : State) : Bool :=
  !(s.fn 0).msixEnable && !(s.fn 0).intxDisable && s.enabledSummary 0 != 0

/-- ATTN_N is driven low while the PF's SUMMARY_STATUS & ATTN_ENABLE is non-zero (R326); ATTN_ENABLE holds bits [8:1]. -/
def State.attnLow (s : State) : Bool := s.summary 0 &&& (2 * (s.fn 0).attnEnable.toNat) != 0

/-- The pins and INTA follow the PF's summary. -/
def pinsFollow (old new : State) : State :=
  let s1 := if old.intaOn = new.intaOn then new else new.emit (.inta new.intaOn)
  if s1.attnLow = !s1.sys.attnN then s1
  else ({ s1 with sys := { s1.sys with attnN := !s1.attnLow } }).emit (.attnN (!s1.attnLow))

/-- Least gap between messages, in ns. -/
def Fn.holdoffNs (f : Fn) : Nat := f.holdoff.toNat * 1000

/-- The vector is masked by its own mask or the function's (log entry 14). -/
def Fn.masked (f : Fn) : Bool := f.msixFnMask || f.msixTable.getLsbD 96

/-- A function may issue requests: Bus Master Enable is set, it is in D0, and no FLR runs (R321, R322, R300). -/
def Fn.mayWrite (f : Fn) : Bool := f.bme && !f.d3hot && !f.flr

/-- The message goes out: address and data of the vector (R324). -/
def messageOut (fn : Nat) (s : State) : State :=
  let t := (s.fn fn).msixTable
  (s.updFn fn (fun f => { f with lastMsg := some s.now.toNat, pba := false, msgDue := false })).emit (.msix fn (t.setWidth 64) ((t >>> 64).setWidth 32))

/-- Send the message of a function, or remember it (R321 step 5, R324): no vector while MSI-X is disabled; the PBA bit while masked or while Bus Master Enable is clear; later while within the holdoff. -/
def sendMessage (fn : Nat) (s : State) : State :=
  let f := s.fn fn
  if !f.msixEnable then s
  else if f.masked || !f.mayWrite then s.updFn fn (fun f => { f with pba := true })
  else
    match f.lastMsg with
    | some t =>
      if s.now.toNat < t + f.holdoffNs then s.updFn fn (fun f => { f with msgDue := true })
      else messageOut fn s
    | none => messageOut fn s

/-- Run a change and let the interrupt logic of a function follow it: a message where the enabled summary becomes non-zero (R324). -/
def following (fn : Nat) (change : State → State) (s : State) : State :=
  let s1 := change s
  let s2 := if s.enabledSummary fn = 0 && s1.enabledSummary fn != 0 then sendMessage fn s1 else s1
  pinsFollow s s2

/-- The first or a later occurrence of a cause (R398). -/
def occurrence (detail inst : Nat) (time : BitVec 64) (c : Cause) : Cause :=
  if c.valid then { c with bit := true, count := if c.count = 0xFFFF then c.count else c.count + 1 }
  else { bit := true, valid := true, detail := BitVec.ofNat 32 detail, count := 1, inst := BitVec.ofNat 6 inst, time := time }

/-- An occurrence of a cause in a tree (R398). -/
def raiseIn (tree g b detail inst : Nat) (s : State) : State :=
  following (treeFn tree)
    (fun s => { s with causes := Tbl.upd {} s.causes (causeKey tree g b) (occurrence detail inst s.now) }) s

/-- A cause of an instance's own tree (R399). -/
def raise (fn g b detail : Nat) (s : State) : State := raiseIn fn g b detail fn s

/-- A device-wide cause. -/
def raiseDev (g b detail : Nat) (s : State) : State := raiseIn devTree g b detail 0 s

def raiseDevFor (g b detail inst : Nat) (s : State) : State := raiseIn devTree g b detail inst s

/-- A live cause: the bit follows the state; entry and each change of DETAIL latch the record, and only entries count (R398). -/
def liveUpdate (on : Bool) (detail inst : Nat) (time : BitVec 64) (c : Cause) : Cause :=
  if !on then { c with bit := false }
  else if !c.bit then
    { bit := true, valid := true, detail := BitVec.ofNat 32 detail, inst := BitVec.ofNat 6 inst, time := time,
      count := if c.count = 0xFFFF then c.count else c.count + 1 }
  else if c.detail = BitVec.ofNat 32 detail then c
  else { c with detail := BitVec.ofNat 32 detail, inst := BitVec.ofNat 6 inst, time := time }

def setLive (tree g b : Nat) (on : Bool) (detail inst : Nat) (s : State) : State :=
  if on || (Tbl.get {} s.causes (causeKey tree g b)).bit then
    following (treeFn tree)
      (fun s => { s with causes := Tbl.upd {} s.causes (causeKey tree g b) (liveUpdate on detail inst s.now) }) s
  else s

/-- Clear cause bits with their records; a live cause is not cleared (R398). -/
def clearCauses (tree g mask : Nat) (s : State) : State :=
  following (treeFn tree)
    (fun s => { s with causes := s.causes.map (fun p =>
      if p.1 / 32 = tree * 16 + g && mask.testBit (p.1 % 32) && !isLive g (p.1 % 32) then (p.1, {}) else p) }) s

/-- The records a reset of a function clears (R409): every group of its tree but, where `keepFatal`, group 4's DEVICE_FATAL; a live bit stays while its state holds, latched again as a first entry. -/
def resetCauses (fn : Nat) (keepFatal : Bool) (s : State) : State :=
  { s with causes := s.causes.map (fun p =>
      if p.1 / 512 = fn && !(keepFatal && p.1 = causeKey fn 4 3) then
        (if isLive ((p.1 / 32) % 16) (p.1 % 32) && p.2.bit then (p.1, { p.2 with count := 1, time := s.now }) else (p.1, {}))
      else p) }

/-- A cold reset clears every record. -/
def resetAllCauses (s : State) : State := { s with causes := [] }

/-! ## Summary bits that events set -/

def setCompletionBit (fn : Nat) (s : State) : State := following fn (fun s => s.updFn fn (fun f => { f with sumCpl := true })) s
def setExportBit (fn : Nat) (s : State) : State := following fn (fun s => s.updFn fn (fun f => { f with sumExport := true })) s
def setMaintBit (s : State) : State := following 0 (fun s => s.updFn 0 (fun f => { f with sumMaint := true })) s

/-! ## The verdict byte, the completion flags and the thermal levels -/

/-- Completion flags of Table 13-4, but for HOST_DELAY, which the write of the entry adds (R314). -/
def flagWord (firstUse clipOver nonfinite thermal : Bool) : Nat :=
  b2n firstUse + 2 * b2n clipOver + 4 * b2n nonfinite + 16 * b2n thermal

/-- The level that a temperature gives from thresholds, with 3 °C of hysteresis: a level is entered at its threshold and left 3 °C below it (R191, R215). -/
def thermalLevel (thresholds : List Nat) (old tenths : Nat) : Nat :=
  (List.range thresholds.length).foldl (fun lvl i =>
    let t := thresholds.getD i 0
    if tenths ≥ t then i + 1 else if old ≥ i + 1 && tenths + 30 > t then i + 1 else lvl) 0

/-- Table 8-8. -/
def groupThresholds : List Nat := [950, 1000, 1100]
/-- Table 7-5. -/
def stackThresholds : List Nat := [850, 950, 1000, 1050]

end Sys2Proof.Machine
end

