-- ==== Sys2Proof/Machine/Rings.lean ====
section
/-! DEFINITION. Completion entries and the order of writes to host memory (12_host_interface R313 to R317), NOT_AVAILABLE timing (13_command_set R329), the status codes (Table 13-14). -/

namespace Sys2Proof.Machine

namespace St
def done : Nat := 0x00
def queued : Nat := 0x01
def parked : Nat := 0x02
def skipped : Nat := 0x03
def refusedFit : Nat := 0x10
def refusedQuota : Nat := 0x11
def refusedState : Nat := 0x12
def notAvailable : Nat := 0x13
def badCommand : Nat := 0x14
def badImage : Nat := 0x15
def failedDevice : Nat := 0x20
def failedMemory : Nat := 0x21
def abortedHost : Nat := 0x22
def abortedReset : Nat := 0x23
def timeoutFabric : Nat := 0x24
end St

/-- The 32-byte entry of Table 12-7. -/
def Cpl.word (c : Cpl) (phase : Bool) (flags time : Nat) : BitVec 256 :=
  BitVec.ofNat 256 (c.tag % 2 ^ 32 + (c.status % 256) <<< 32 + b2n phase <<< 40 + b2n c.final <<< 41
    + (flags % 65536) <<< 48 + (time % 2 ^ 64) <<< 64 + (c.result % 2 ^ 128) <<< 128)

/-- Room in the completion ring (R314). -/
def Fn.cplRoom (f : Fn) : Bool :=
  f.cplEnable && f.cplSize != 0 &&
  decide ((f.cplTail.toNat + 1) % 2 ^ f.cplSize.toNat ≠ f.cplHead.toNat)

/-- Write one entry at CPL_TAIL. The COMPLETION bit is set after it (R316), and a step's entry past its bound carries HOST_DELAY (R314). -/
def writeCpl (fn : Nat) (c : Cpl) (s : State) : State :=
  let f := s.fn fn
  let late := match c.bound with | some b => decide (s.now.toNat > b) | none => false
  let flags := if late then c.flags ||| 8 else c.flags
  let addr := f.cplBase.toNat + 32 * f.cplTail.toNat
  let last := f.cplTail.toNat + 1 = 2 ^ f.cplSize.toNat
  let s1 := s.emit (.completion fn addr (c.word f.cplPhase flags s.now.toNat))
  let s2 := s1.updFn fn (fun f => { f with
    cplTail := if last then 0 else f.cplTail + 1,
    cplPhase := if last then !f.cplPhase else f.cplPhase })
  let s3 := setCompletionBit fn s2
  if flags.testBit 3 then raise fn 2 2 (c.tag % 2 ^ 32) s3 else s3

/-- Write held completions in order while there is room (R314). -/
def releaseGo (fn : Nat) : List Cpl → State → State
  | [], s => s.updFn fn (fun f => { f with held := [] })
  | c :: cs, s =>
    if (s.fn fn).cplRoom && (s.fn fn).mayWrite then releaseGo fn cs (writeCpl fn c s)
    else s.updFn fn (fun f => { f with held := c :: cs })

def releaseHeld (fn : Nat) (s : State) : State := releaseGo fn (s.fn fn).held s

/-- Post a completion of a function, behind those it holds (R313, R314); nothing is written while the PCIe link is down (R205). -/
def post (fn : Nat) (c : Cpl) (s : State) : State :=
  let f := s.fn fn
  if !s.sys.linkUp then s
  else if f.held.isEmpty && f.cplRoom && f.mayWrite then writeCpl fn c s
  else s.updFn fn (fun f => { f with held := f.held ++ [c] })

/-- The final completion of a command. Every final MAINT completion sets MAINT (R346); `maint` says the command is one. -/
def finish (fn tag status : Nat) (result : Nat) (s : State) : State :=
  post fn { tag := tag, status := status, final := true, flags := 0, time := 0, result := result } s

def finishMaint (tag status result : Nat) (s : State) : State := setMaintBit (finish 0 tag status result s)

/-- A final completion with flags, of a step with its bound. -/
def finishStep (fn tag status flags result : Nat) (bound : Option Nat) (s : State) : State :=
  post fn { tag := tag, status := status, final := true, flags := flags, time := 0, result := result, bound := bound } s

/-- An interim completion (R313). -/
def interim (fn tag status : Nat) (s : State) : State :=
  post fn { tag := tag, status := status, final := false, flags := 0, time := 0, result := 0 } s

/-- The fixed bound of a family in ns (Table 13-1). -/
def familyBound : Nat → Nat
  | 0x01 => 10000000
  | 0x02 => 1000000
  | 0x08 => 20000
  | 0x0B => 1000000
  | _ => 100000

/-- NOT_AVAILABLE waits for the fixed bound (R329); RESULT and FLAGS are zero. -/
def notAvailable (fn tag family : Nat) (s : State) : State :=
  { s with padded := s.padded ++ [(s.now.toNat + familyBound family, fn,
      { tag := tag, status := St.notAvailable, final := true, flags := 0, time := 0, result := 0 })] }

/-- Issue the NOT_AVAILABLE completions that are due. -/
def releaseGoPadded : List (Nat × Nat × Cpl) → State → State
  | [], s => s
  | (t, fn, c) :: r, s =>
    if t ≤ s.now.toNat then releaseGoPadded r (post fn c s)
    else let s1 := releaseGoPadded r s; { s1 with padded := (t, fn, c) :: s1.padded }

def releasePadded (s : State) : State := releaseGoPadded s.padded { s with padded := [] }

/-- Data bytes to host memory, split at every 128-byte line of the host address (R317). Nothing is issued while the function may not write (R321). -/
def hostWriteGo (fn : Nat) : Nat → Nat → Bytes → State → State
  | 0, _, _, s => s
  | k + 1, addr, bs, s =>
    if bs.isEmpty then s
    else
      let n := 128 - addr % 128
      hostWriteGo fn k (addr + n) (bs.drop n) (s.emit (.hostData fn addr (bs.take n)))

def hostWrite (fn addr : Nat) (bs : Bytes) (s : State) : State :=
  if (s.fn fn).mayWrite then hostWriteGo fn (bs.length / 128 + 2) addr bs s else s

end Sys2Proof.Machine
end

