-- ==== Sys2Proof/Machine/Maint.lean ====
section
/-! DEFINITION. The maintenance arbiter (07_memory_protection R192 to R194). -/

namespace Sys2Proof.Machine

/-- Whether two declared resources overlap: a part holds its channels and frames, an instance's pages hold each of its pages. -/
def Res.overlap : Res → Res → Bool
  | .part p, .part q => p == q
  | .part p, .channel q _ => p == q
  | .channel p _, .part q => p == q
  | .part p, .frame q _ => p == q
  | .frame p _, .part q => p == q
  | .page k, .page l => k == l
  | .page k, .pagesOf i => k / 2 ^ 33 == i
  | .pagesOf i, .page k => k / 2 ^ 33 == i
  | .pagesOf i, .pagesOf j => i == j
  | .epochsOf i, .epochsOf j => i == j
  | .channel p c, .channel q d => p == q && c == d
  | .frame p f, .frame q g => p == q && f == g
  | .group g, .group k => g == k
  | .otherClerk, .otherClerk => true
  | .token, .token => true
  | _, _ => false

def Act.overlaps (a b : Act) : Bool := a.res.any (fun r => b.res.any (fun q => r.overlap q))

def ActKind.index : ActKind → Nat
  | .sc => 0 | .rk => 1 | .mv => 2 | .fr => 3 | .pc => 4 | .cg => 5 | .ts => 6 | .fw => 7 | .mh => 8

/-- Table 7-7 by row, in the order of its columns: 2 stands for Q, the pairs that do not run together. -/
def queueMatrix : List (List Nat) :=
  [[2, 1, 1, 1, 2, 0, 1, 0, 2],
   [1, 2, 1, 1, 2, 0, 2, 0, 2],
   [1, 1, 2, 1, 2, 0, 2, 0, 2],
   [1, 1, 1, 2, 2, 0, 1, 0, 2],
   [2, 2, 2, 2, 2, 0, 2, 2, 2],
   [0, 0, 0, 0, 0, 2, 0, 2, 0],
   [1, 2, 2, 1, 2, 0, 2, 0, 2],
   [0, 0, 0, 0, 2, 2, 0, 2, 2],
   [2, 2, 2, 2, 2, 0, 2, 2, 2]]

/-- A pair that Table 7-7 marks Q: where their resources overlap, the one declared second waits. -/
def queues (a b : ActKind) : Bool := (queueMatrix.getD a.index []).getD b.index 0 == 2

/-- An activity may start: no running activity conflicts with it, and none declared earlier on an overlapping resource still waits (R194). -/
def mayStart (acts : List Act) (a : Act) : Bool :=
  acts.all (fun b => b.id == a.id || !a.overlaps b || (if b.running then !queues a.kind b.kind else decide (a.id < b.id)))

/-- Declare an activity; it waits for its start event. -/
def declareAct (kind : ActKind) (res : List Res) (tag : Option Nat) (arg : Nat) (s : State) : State :=
  { s with acts := s.acts ++ [{ id := s.nextAct, kind := kind, res := res, running := false, tag := tag, arg := arg, endBy := none }],
           nextAct := s.nextAct + 1 }

def findAct (s : State) (id : Nat) : Option Act := s.acts.find? (fun a => a.id == id)

def startAct (id : Nat) (endBy : Option Nat) (s : State) : State :=
  { s with acts := s.acts.map (fun a => if a.id == id then { a with running := true, endBy := endBy } else a) }

def endAct (id : Nat) (s : State) : State := { s with acts := s.acts.filter (fun a => a.id != id) }

/-- The declared activity of a kind that names a resource. -/
def actFor (s : State) (kind : ActKind) (r : Res) : Option Act :=
  s.acts.find? (fun a => a.kind == kind && a.res.contains r)

end Sys2Proof.Machine
end

