-- ==== Sys2Proof/Machine/Lines.lean ====
section
/-! DEFINITION. Device memory: spreading, translation, reading and writing a line (06_memory_tiers R149 to R158, 07_memory_protection R176 to R188). -/

namespace Sys2Proof.Machine

/-- 128-byte lines of a part (Table 6-1): stacks of 48 GB, packages of 96 GB. -/
def partLines (p : Nat) : Nat := if p < 12 then 375000000 else 750000000

def partBytes (p : Nat) : Nat := partLines p * 128

def lineKey (part line : Nat) : Nat := part * 2 ^ 32 + line

/-- Guaranteed streaming rate of a part in GB/s (Table 6-1). -/
def partRate (p : Nat) : Nat := if p < 12 then 2200 else 88

/-- The bytes of the grain quotient folded into one (R157). -/
def foldByte (q : Nat) : Nat := (List.range 6).foldl (fun f i => f ^^^ ((q >>> (8 * i)) % 256)) 0

/-- Member index and offset within the member's range (R157). -/
def spread (a n : Nat) : Nat × Nat :=
  let g := a / 512
  let q := g / n
  ((g % n + foldByte q) % n, q * 512 + a % 512)

/-- Pseudo-channel and grain within it (R157). -/
def hbmChannel (loc : Nat) : Nat × Nat :=
  let q := loc / 512
  ((q % 64) ^^^ ((q / 64) % 64) ^^^ ((q / 4096) % 64), q / 64)

/-- Part and part address of a set-space address: stack-range for one part (R156), hashed interleave for more (R157). -/
def PartSet.locate (ps : PartSet) (a : Nat) : Option (Nat × Nat) :=
  match ps.parts with
  | [] => none
  | [p] => some (p, ps.base + a)
  | l => (l[(spread a l.length).1]?).map (fun p => (p, ps.base + (spread a l.length).2))

/-- First address of the base window (R151). -/
def baseWindow : Nat := 2 ^ 47

/-- The page key of a logical address: the base window is one for every instance (R151). -/
def pageKey (inst la : Nat) : Nat :=
  if la < baseWindow then inst * 2 ^ 33 + la / 65536 else 64 * 2 ^ 33 + (la - baseWindow) / 65536

def State.pte (s : State) (key : Nat) : Pte := Tbl.get {} s.pages key

/-- The entry that maps a logical address and its key; a 2 MiB page has its entry at its first 64 KiB (R152). -/
def State.pageOf (s : State) (inst la : Nat) : Nat × Pte :=
  let k := pageKey inst la
  if (s.pte k).valid then (k, s.pte k)
  else
    let k2 := k - k % 32
    if (s.pte k2).valid && (s.pte k2).big then (k2, s.pte k2) else (k, {})

def State.setPte (s : State) (key : Nat) (e : Pte) : State := { s with pages := Tbl.set s.pages key e }

def Pte.bytes (e : Pte) : Nat := if e.big then 2 ^ 21 else 65536

/-- Why an access is refused (R155). -/
inductive AccessErr where
  | unmapped | moving
deriving DecidableEq, Repr

/-- Translate an access by the entry of its page (R155, R162: an access to a private page that moves waits). -/
def State.translate (s : State) (inst la : Nat) (write : Bool) : Except AccessErr (Nat × Pte) :=
  let (k, e) := s.pageOf inst la
  if !e.valid then .error .unmapped
  else if write && !e.write then .error .unmapped
  else if !e.base && (e.inst ≠ inst || e.gen ≠ (s.inst inst).gen.toNat) then .error .unmapped
  else if e.home = .store then .error .unmapped
  else if e.moving && !e.base then .error .moving
  else .ok (k, e)

/-- Set-space address of the page's first byte. -/
def Pte.start (e : Pte) : Nat := e.frame * 65536

/-- Part and line of byte `off` of a page's stored space. -/
def State.lineAt (s : State) (e : Pte) (off : Nat) : Option (Nat × Nat) :=
  match s.sets[e.set]? with
  | some ps => (ps.locate (e.start + off)).map (fun (p, a) => (p, a / 128))
  | none => none

/-! ## Findings -/

def goodFind : LineFind := { line := 0, words := [], mdata := .good, tagOk := true }

/-- The findings on line `i` of an access: good where none is given. -/
def findAt (finds : List LineFind) (i : Nat) : LineFind := (finds.find? (fun f => f.line == i)).getD goodFind

def findWord (f : LineFind) (i : Nat) : Check := f.words.getD i .good

def findCorrected (f : LineFind) : Bool :=
  f.mdata == .corrected || (List.range 4).any (fun i => findWord f i == .corrected)

/-- Mask of the uncorrectable words. -/
def findBadWords (f : LineFind) : Nat := (List.range 4).foldl (fun m i => if findWord f i == .bad then m ||| (1 <<< i) else m) 0

/-- COUNTER's last value. -/
def counterEnd : Nat := 2 ^ 24 - 1

/-! ## One line -/

def Line.bytes (l : Line) : Bytes := if l.data.isEmpty then List.replicate 128 0 else l.data

/-- A fresh ZERO line carries its page's MAP (R181). -/
def lineMap (e : Pte) (l : Line) : Nat := if l.st = .zero && l.counter = 0 && l.poison = 0 then e.map else l.map

/-- The re-key record of a page, if any (R185). -/
def State.rekeyOf (s : State) (e : Pte) (key : Nat) : Option RekeyRec :=
  s.rekeys.find? (fun r => r.inst == e.inst && pageKey r.inst (r.page * 65536) == key)

/-- The epoch a line of a page is under (R186). -/
def State.lineEpoch (s : State) (e : Pte) (key : Nat) (l : Line) : Nat :=
  match s.rekeyOf e key with
  | some r => if lineMap e l = r.map then r.epoch else e.epoch
  | none => e.epoch

/-- The tag of an ENC line verifies under the accessor's key and logical line (R179, R180; log entry 6). -/
def sealFits (inst gen epoch ll : Nat) (l : Line) : Bool :=
  l.sealInst == inst && l.sealGen == gen && l.sealEpoch == epoch && l.sealLine == ll

/-- What a read delivers and leaves (R182, R183). -/
structure LineRead where
  data : Bytes
  poison : Nat
  line : Line
  corrected : Bool
  /-- The metadata was lost and COUNTER recorded as its end, which marks the page (R185). -/
  lost : Bool
deriving DecidableEq, Repr

/-- Table 7-2 for a line of the base window (CLEAR). -/
def readClear (f : LineFind) (l : Line) : LineRead :=
  let mask := if f.mdata == .bad || l.st ≠ .clear then 15 else l.poison.toNat ||| findBadWords f
  { data := l.bytes, poison := mask, line := { l with poison := BitVec.ofNat 4 mask }, corrected := findCorrected f, lost := false }

/-- Table 7-2 for a private line (ENC or ZERO). -/
def readPrivate (tagOk : Bool) (f : LineFind) (l : Line) : LineRead :=
  let lost := f.mdata == .bad
  let whole := lost || l.st = .clear || l.poison != 0 || findBadWords f != 0 || (l.st = .enc && !tagOk)
  let l1 := if whole then { l with poison := 15 } else l
  { data := l.bytes, poison := if whole then 15 else 0, line := if lost then { l1 with counter := counterEnd } else l1,
    corrected := findCorrected f && !lost, lost := lost }

/-- Frame number of a line within its part, in 64 KiB units. -/
def frameOfLine (line : Nat) : Nat := line / 512

/-- A frame goes to retirement (R190): the activity is declared once. -/
def sendToRetirement (part frame : Nat) (s : State) : State :=
  if s.retired.contains (part, frame) then s
  else match actFor s .fr (.frame part frame) with
    | some _ => s
    | none => declareAct .fr [.part part, .frame part frame] none (part * 2 ^ 24 + frame) s

def dayNs : Nat := 86400000000000

/-- Record the corrected words of a read; the third within 24 hours sends the frame to retirement (R190). -/
def noteCorrections (part line : Nat) (f : LineFind) (s : State) : State :=
  forEach (fun w s =>
    if findWord f w == .corrected then
      let k := lineKey part line * 4 + w
      let times := s.now.toNat :: (Tbl.get [] s.corrections k).filter (fun t => t + dayNs > s.now.toNat)
      let s1 := { s with corrections := Tbl.set s.corrections k times }
      if times.length ≥ 3 then sendToRetirement part (frameOfLine line) s1 else s1
    else s) [0, 1, 2, 3] s

/-- Mark a page for re-keying and declare it to the arbiter, once (R185). -/
def markRekey (inst key : Nat) (s : State) : State :=
  match actFor s .rk (.page key) with
  | some _ => s
  | none => declareAct .rk [.page key, .epochsOf inst] none key s

/-- SHARED_CORR detail: part and frame (Table 15-6). -/
def frameDetail (part frame : Nat) : Nat := part + frame <<< 5

/-- Record what a read found: metadata and POISON rewritten, corrections and poisonings logged (R182, R183, R190). -/
def recordRead (base : Bool) (inst key part line page : Nat) (f : LineFind) (r : LineRead) (s : State) : State :=
  let s1 := if r.poison != 0 || r.line != s.line (lineKey part line) then s.setLine (lineKey part line) r.line else s
  let s2 := if r.corrected then
      (if base then raiseDev 8 0 (frameDetail part (frameOfLine line)) s1 else raise inst 0 0 page s1) else s1
  let s3 := noteCorrections part line f s2
  let s4 := if r.poison != 0 then
      (if base then raiseDev 8 1 (frameDetail part (frameOfLine line)) s3 else raise inst 0 1 page s3) else s3
  let s5 := if findBadWords f != 0 || f.mdata == .bad then sendToRetirement part (frameOfLine line) s4 else s4
  if r.lost && !base then markRekey inst key s5 else s5

/-- The die of a part: stacks 0 to 5 and packages 0 to 7 are West (R20, Table 16-1). -/
def partHalf (p : Nat) : Half := if p < 6 || (decide (12 ≤ p) && decide (p < 20)) then .west else .east

/-- A part of a stopped half: what reaches it meets poisoned data (R431). -/
def State.partStopped (s : State) (p : Nat) : Bool := s.sys.stoppedHalf == some (partHalf p)

/-- Read the stored line at byte `off` of a page's stored space, for logical line `ll`. -/
def readStored (inst key : Nat) (e : Pte) (off ll : Nat) (f : LineFind) (s : State) : LineRead × State :=
  match s.lineAt e off with
  | none => ({ data := List.replicate 128 0, poison := 15, line := {}, corrected := false, lost := false }, s)
  | some (part, line) =>
    let l := s.line (lineKey part line)
    if s.partStopped part then
      ({ data := List.replicate 128 0, poison := 15, line := l, corrected := false, lost := false },
        if e.base then raiseDev 8 1 (frameDetail part (frameOfLine line)) s else raise inst 0 1 (ll / 512) s)
    else
    let r := if e.base then readClear f l
      else readPrivate (f.tagOk && sealFits e.inst e.gen (s.lineEpoch e key l) ll l) f { l with map := lineMap e l }
    (r, recordRead e.base inst key part line (ll / 512) f r s)

/-! ## Packed pages (R172 to R175) -/

/-- Read `n` stored lines of a page from byte `off`: their bytes and whether any is poisoned. -/
def readStoredRun (inst key : Nat) (e : Pte) (ll0 : Nat) (finds : List LineFind) : Nat → Nat → State → Bytes × Bool × State
  | 0, _, s => ([], false, s)
  | n + 1, off, s =>
    let (r, s1) := readStored inst key e off (ll0 + off / 128) (findAt finds (off / 128)) s
    let (bs, p, s2) := readStoredRun inst key e ll0 finds n (off + 128) s1
    (r.data ++ bs, p || r.poison != 0, s2)

/-- Decode block `b` of a PACKED page: its 4096 bytes, or nothing where a line is poisoned or the check fails for the third time (R175; the stored copy does not change between fetches). -/
def readPacked (inst key : Nat) (e : Pte) (ll0 b : Nat) (finds : List LineFind) (s : State) : Option Bytes × State :=
  let (mbs, mp, s1) := readStoredRun inst key e ll0 finds 1 (b / 16 * 128) s
  let entry := num mbs (8 * (b % 16)) 8
  let off := nfld entry 62 45 * 16
  let len := nfld entry 44 36 * 16
  let first := off / 128 * 128
  let (pbs, pp, s2) := readStoredRun inst key e ll0 finds (cdiv (off + len - first) 128) first s1
  if mp || pp then (none, s2)
  else match unpackBlock entry (sub pbs (off - first) len) with
    | some src => (some src, s2)
    | none =>
      let page := ll0 / 512
      (none, if e.base then
          (match s2.lineAt e off with
           | some (p, l) => raiseDev 8 1 (frameDetail p (frameOfLine l)) s2
           | none => s2)
        else raise inst 0 5 page s2)

/-- Logical line number of a page's first line (nonce bits [40:0], R179). -/
def pageFirstLine (la : Nat) (e : Pte) : Nat := la / e.bytes * e.bytes / 128

/-- Whether a 4 KiB block of the base window is held poisoned (R175). -/
def State.blockPoisoned (s : State) (la : Nat) : Bool := s.base.poisoned.contains ((la - baseWindow) / 4096)

/-- Read the line of a logical address whose page is translated by `e`. -/
def readLine (inst key : Nat) (e : Pte) (la : Nat) (f : LineFind) (s : State) : LineRead × State :=
  if e.base && s.blockPoisoned la then
    ({ data := List.replicate 128 0, poison := 15, line := {}, corrected := false, lost := false }, s)
  else if e.packed then
    let off := la % e.bytes
    match readPacked inst key e (pageFirstLine la e) (off / 4096) [f] s with
    | (some bs, s1) => ({ data := sub bs (off % 4096) 128, poison := 0, line := {}, corrected := false, lost := false }, s1)
    | (none, s1) => ({ data := List.replicate 128 0, poison := 15, line := {}, corrected := false, lost := false }, s1)
  else readStored inst key e (la % e.bytes) (la / 128) f s

/-! ## Writing (R184, Table 7-3) -/

inductive WriteEnd where
  | written | waits | refused
deriving DecidableEq, Repr

/-- Epochs of an instance that some page is under. -/
def liveEpochs (s : State) (inst : Nat) : List Nat :=
  s.pages.foldl (fun l p => if p.2.valid && !p.2.base && p.2.inst == inst && !(l.contains p.2.epoch) then l ++ [p.2.epoch] else l) []

/-- A new mapping of an instance waits: it needs an epoch advance while 192 epochs are live (R188). -/
def State.mapWaits (s : State) (inst : Nat) : Bool := decide ((s.inst inst).nextMap ≥ 65536) && decide ((liveEpochs s inst).length ≥ 192)

/-- Take a fresh MAP; the epoch advances when an epoch's numbers are used up, 255 is followed by 1 (R181). -/
def takeMap (inst : Nat) (s : State) : Nat × Nat × State :=
  let n := s.inst inst
  if n.nextMap < 65536 then (n.epoch, n.nextMap, s.updInst inst (fun n => { n with nextMap := n.nextMap + 1 }))
  else
    let ep := if n.epoch = 255 then 1 else n.epoch + 1
    (ep, 0, s.updInst inst (fun n => { n with epoch := ep, nextMap := 1 }))

/-- The page's re-key record, made if none exists (R187). -/
def ensureRekey (inst key : Nat) (s : State) : State :=
  match s.rekeys.find? (fun r => pageKey r.inst (r.page * 65536) == key) with
  | some _ => s
  | none =>
    let (ep, m, s1) := takeMap inst s
    { s1 with rekeys := s1.rekeys ++ [{ inst := inst, page := key % 2 ^ 33, epoch := ep, map := m, done := [] }] }

/-- A line as a write leaves it: ENC, COUNTER + 1, POISON clear, sealed under its key triple (R179, R184). -/
def encLine (inst gen epoch ll map counter : Nat) (data : Bytes) : Line :=
  { data := data, st := .enc, counter := counter, map := map, poison := 0, sealInst := inst, sealGen := gen, sealEpoch := epoch, sealLine := ll }

/-- Store the new content of a private line; 2^23 marks its page (R185). -/
def putLine (inst key : Nat) (e : Pte) (part line ll : Nat) (l : Line) (data : Bytes) (s : State) : State :=
  let s1 := s.setLine (lineKey part line)
    (encLine e.inst e.gen (s.lineEpoch e key l) ll (lineMap e l) (l.counter + 1) data)
  if l.counter + 1 = 2 ^ 23 then markRekey inst key s1 else s1

/-- A write that waits for the line's re-key: COUNTER_WAIT is logged, the record exists from now, and the page is marked: its line's COUNTER has passed 2^23 (R185, R187). -/
def waitRekey (inst key page : Nat) (s : State) : State := ensureRekey inst key (markRekey inst key (raise inst 0 3 page s))

/-- A write of bytes `bs` at offset `o` of the line at `la`; a full line where it covers all 128 bytes (Table 7-3). -/
def writeLine (inst key : Nat) (e : Pte) (la o : Nat) (bs : Bytes) (f : LineFind) (s : State) : WriteEnd × State :=
  match s.lineAt e (la % e.bytes) with
  | none => (.refused, s)
  | some (part, line) =>
    let k := lineKey part line
    let l0 := s.line k
    let l := { l0 with map := lineMap e l0 }
    let page := la / 65536
    let ll := la / 128
    let full := o = 0 && bs.length = 128
    let lost := f.mdata == .bad
    if s.partStopped part then (.refused, raise inst 0 2 page s)
    else
    let s1 := if findCorrected f && !lost then noteCorrections part line f (raise inst 0 0 page s) else s
    if full then
      if lost then
        (.waits, waitRekey inst key page (markRekey inst key (s1.setLine k { l with poison := 15, counter := counterEnd })))
      else if l.counter = counterEnd then (.waits, waitRekey inst key page s1)
      else (.written, putLine inst key e part line ll l (bs.take 128) s1)
    else
      let r := readPrivate (f.tagOk && sealFits e.inst e.gen (s.lineEpoch e key l) ll l) f l
      if lost || (r.poison != 0 && l.counter != counterEnd) then
        let s2 := s1.setLine k r.line
        let s3 := if r.lost then markRekey inst key s2 else s2
        (.refused, raise inst 0 2 page s3)
      else if l.counter = counterEnd then (.waits, waitRekey inst key page s1)
      else (.written, putLine inst key e part line ll l (l.bytes.take o ++ bs ++ l.bytes.drop (o + bs.length)) s1)

/-- Re-key one line: ENC under the record's epoch and MAP with COUNTER 0; a ZERO line takes the MAP; a poisoned line stays poisoned (Table 7-4 step 3). -/
def rekeyLine (inst key : Nat) (e : Pte) (r : RekeyRec) (off ll : Nat) (f : LineFind) (s : State) : State :=
  match s.lineAt e off with
  | none => s
  | some (part, line) =>
    let l0 := s.line (lineKey part line)
    if lineMap e l0 = r.map || s.partStopped part then s
    else if l0 = {} && f = goodFind then s
    else
      let (rd, s1) := readStored inst key e off ll f s
      let l1 : Line :=
        if rd.poison != 0 then { rd.line with map := r.map, counter := 0, sealEpoch := r.epoch }
        else if rd.line.st = .zero then { rd.line with map := r.map, counter := 0 }
        else encLine e.inst e.gen r.epoch ll r.map 0 rd.data
      s1.setLine (lineKey part line) l1

/-! ## Ranges -/

/-- What a transfer of whole lines came to. -/
structure XferRes where
  data : Bytes := []
  /-- A translation or protection fault, and its page. -/
  fault : Option Nat := none
  poisoned : Bool := false
  waits : Bool := false
deriving DecidableEq, Repr

/-- Read `n` lines from logical address `la`; `i` counts lines from the start of the transfer. -/
def readRange (inst : Nat) (finds : List LineFind) : Nat → Nat → Nat → State → XferRes × State
  | 0, _, _, s => ({}, s)
  | n + 1, i, la, s =>
    match s.translate inst la false with
    | .error .moving => ({ waits := true }, s)
    | .error .unmapped => ({ fault := some (la / 65536) }, s)
    | .ok (k, e) =>
      let (r, s1) := readLine inst k e la (findAt finds i) s
      if r.poison != 0 then ({ poisoned := true }, s1)
      else
        let (x, s2) := readRange inst finds n (i + 1) (la + 128) s1
        ({ x with data := r.data ++ x.data }, s2)

/-- Whether every line of a range translates, and whether any page of it moves. -/
def checkRange (inst : Nat) (write : Bool) (s : State) : Nat → Nat → XferRes
  | 0, _ => {}
  | n + 1, la =>
    match s.translate inst la write with
    | .error .moving => { waits := true }
    | .error .unmapped => { fault := some (la / 65536) }
    | .ok _ => checkRange inst write s n (la + 128)

/-- Write whole lines; a line that waits for its re-key leaves the transfer waiting. -/
def writeRange (inst : Nat) (finds : List LineFind) : Nat → Nat → Nat → Bytes → State → XferRes × State
  | 0, _, _, _, s => ({}, s)
  | n + 1, i, la, bs, s =>
    match s.translate inst la true with
    | .error .moving => ({ waits := true }, s)
    | .error .unmapped => ({ fault := some (la / 65536) }, s)
    | .ok (k, e) =>
      match writeLine inst k e la 0 (bs.take 128) (findAt finds i) s with
      | (.waits, s1) => ({ waits := true }, s1)
      | (.refused, s1) => ({ poisoned := true }, s1)
      | (.written, s1) => writeRange inst finds n (i + 1) (la + 128) (bs.drop 128) s1

/-- Of two ends of writes the one that counts: a refusal, then a wait. -/
def WriteEnd.worse : WriteEnd → WriteEnd → WriteEnd
  | .refused, _ => .refused
  | _, .refused => .refused
  | .waits, _ => .waits
  | .written, x => x

/-- Bytes written to any address, with partial lines at the ends (R184); `i` counts lines from the start of the transfer. -/
def writeBytes (inst : Nat) (finds : List LineFind) : Nat → Nat → Nat → Bytes → State → WriteEnd × State
  | 0, _, _, _, s => (.written, s)
  | n + 1, i, la, bs, s =>
    if bs.isEmpty then (.written, s)
    else
      let o := la % 128
      let part := bs.take (128 - o)
      match s.translate inst la true with
      | .error .moving => (.waits, s)
      | .error .unmapped => (.refused, s)
      | .ok (k, e) =>
        let (r, s1) := writeLine inst k e (la - o) o part (findAt finds i) s
        let (q, s2) := writeBytes inst finds n (i + 1) (la - o + 128) (bs.drop (128 - o)) s1
        (r.worse q, s2)

/-- Bytes read from any address by an engine, all findings good; nothing where a line is poisoned or unmapped. -/
def readBytes (inst la n : Nat) (finds : List LineFind) (s : State) : Option Bytes × State :=
  let first := la / 128 * 128
  let (x, s1) := readRange inst finds (cdiv (la + n - first) 128) 0 first s
  if x.fault.isSome || x.poisoned || x.waits then (none, s1) else (some (sub x.data (la - first) n), s1)

/-! ## Frames and mappings -/

/-- Frames of `n` × 64 KiB that a set's live pages use, as (first, count) pairs. -/
def usedFrames (s : State) (set : Nat) : List (Nat × Nat) :=
  (s.pages.filter (fun p => p.2.valid && p.2.home != .store && p.2.set == set)).map
    (fun p => (p.2.frame, if p.2.packed then (if p.2.big then 33 else 2) else if p.2.big then 32 else 1))
  ++ (s.moves.filter (fun m => m.set == set)).map (fun m => (m.frame, 33))
  ++ ((s.scrub.filter (fun f => f.set == set)).map (fun f => (f.frame, f.count)))

/-- Whether a run of set-space frames touches a retired frame of its parts (R190). -/
def touchesRetired (s : State) (ps : PartSet) (f n : Nat) : Bool :=
  s.retired.any (fun r =>
    ps.parts.any (fun p => p == r.1) &&
    (List.range (n * 128)).any (fun i =>
      match ps.locate (f * 65536 + i * 512) with
      | some (p, a) => p == r.1 && a / 65536 == r.2
      | none => false))

/-- The lowest free run of `n` frames of a set, aligned to `al` frames. Placement lowest first is the model's choice, log entry 16. -/
def freeFrameGo (s : State) (ps : PartSet) (used : List (Nat × Nat)) (n al : Nat) : Nat → Nat → Option Nat
  | 0, _ => none
  | k + 1, f =>
    let f := cdiv f al * al
    if (f + n) * 65536 > ps.size then none
    else match used.find? (fun u => decide (f < u.1 + u.2) && decide (u.1 < f + n)) with
      | some u => freeFrameGo s ps used n al k (u.1 + u.2)
      | none => if touchesRetired s ps f n then freeFrameGo s ps used n al k (f + 1) else some f

def freeFrame (s : State) (set n al : Nat) : Option Nat :=
  match s.sets[set]? with
  | some ps =>
    let used := usedFrames s set
    freeFrameGo s ps used n al (used.length + 64 * (s.retired.length + 1)) 0
  | none => none

/-- Write every line of a page's frames as fresh ZERO lines, which are not listed (R181). -/
def zeroPage (e : Pte) (frames : Nat) (s : State) : State :=
  match s.sets[e.set]? with
  | none => s
  | some ps =>
    { s with lines := s.lines.filter (fun p =>
        !((List.range (frames * 128)).any (fun g =>
            match ps.locate (e.start + g * 512) with
            | some (part, a) => decide (lineKey part (a / 128) ≤ p.1) && decide (p.1 < lineKey part (a / 128) + 4)
            | none => false))) }

/-- Stored frames of a page. -/
def Pte.frames (e : Pte) : Nat := if e.packed then (if e.stored != 0 then e.stored else if e.big then 33 else 2) else if e.big then 32 else 1

/-- Drop a mapping: its frames are zeroed and freed. -/
def unmapPage (key : Nat) (s : State) : State :=
  let e := s.pte key
  if !e.valid then s else zeroPage e e.frames { s with pages := Tbl.del s.pages key }

end Sys2Proof.Machine
end

