-- ==== Sys2Proof/Machine/Link.lean ====
section
/-! DEFINITION. SFL frames, ports, credits, routes and the source side of flows (10_fabric R255 to R273). The layouts of control payloads that the manual does not print are the model's, log entry 17. -/

namespace Sys2Proof.Machine

/-- The fields of a frame header (Table 10-1). `path` packs four 7-bit ports. In COLL frames `offset` takes the place of `core` and `dest`. -/
structure Hdr where
  typ : Nat
  vc : Nat := 1
  cls : Nat := 0
  lseq : Nat := 0
  lack : Nat := 0
  dest : Nat := 0x3FFF
  src : Nat := 0x3FFF
  cells : Nat := 1
  flow : Nat := 0
  seq : Nat := 0
  epoch : Nat := 0
  inst : Nat := 0
  oper : Nat := 0
  sig : Bool := false
  poison : Bool := false
  lovf : Bool := false
  lnf : Bool := false
  lkey : Bool := false
  gen : Nat := 0
  len : Nat := 0
  core : Nat := 0
  dst : Nat := 0
  sync : Nat := 0
  coll : Nat := 0
  path : Nat := 0
deriving DecidableEq, Repr

def Hdr.pack (h : Hdr) : BitVec 256 :=
  BitVec.ofNat 256 (h.typ + h.vc <<< 4 + h.cls <<< 7 + h.lseq <<< 8 + h.lack <<< 20 + h.dest <<< 32 + h.src <<< 46
    + h.cells <<< 60 + h.flow <<< 64 + h.seq <<< 84 + h.epoch <<< 108 + h.inst <<< 112 + h.oper <<< 118 + b2n h.sig <<< 120
    + b2n h.poison <<< 121 + b2n h.lovf <<< 122 + b2n h.lnf <<< 123 + b2n h.lkey <<< 124 + h.gen <<< 128 + h.len <<< 144
    + h.core <<< 155 + h.dst <<< 167 + h.sync <<< 192 + h.coll <<< 206 + h.path <<< 222)

def Hdr.parse (w : BitVec 256) : Hdr :=
  { typ := fld w 3 0, vc := fld w 6 4, cls := fld w 7 7, lseq := fld w 19 8, lack := fld w 31 20, dest := fld w 45 32,
    src := fld w 59 46, cells := fld w 63 60, flow := fld w 83 64, seq := fld w 107 84, epoch := fld w 111 108,
    inst := fld w 117 112, oper := fld w 119 118, sig := bit w 120, poison := bit w 121, lovf := bit w 122, lnf := bit w 123,
    lkey := bit w 124, gen := fld w 143 128, len := fld w 154 144, core := fld w 166 155, dst := fld w 179 167,
    sync := fld w 205 192, coll := fld w 221 206, path := fld w 249 222 }

/-- Bits of the header that must be 0 (R258). -/
def hdrReserved : Nat := maskOf 127 125 + maskOf 191 180 + maskOf 255 250

/-- OFFSET of a COLL frame, in 64-byte units (R258). -/
def Hdr.offset (h : Hdr) : Nat := h.core + h.dst * 4096

def Hdr.withOffset (h : Hdr) (o : Nat) : Hdr := { h with core := o % 4096, dst := o / 4096 }

/-- Cells of a payload: 134 × cells − 48 bytes of capacity (R257). -/
def cellsFor (n : Nat) : Nat := max 1 (cdiv (n + 48) 134)

/-- Port of hop `h` in a path (R263). -/
def pathPort (path h : Nat) : Nat := nfld path (7 * h + 6) (7 * h)

/-! ## Credits (R264) -/

def poolCap (p : Nat) : Nat := if p < 8 then 8 else if p < 10 then 128 else 32

/-- Pools a frame may draw on, first choice first. -/
def poolsOf (h : Hdr) : List Nat := if h.vc = 0 then [10] else [(h.vc - 1) * 2 + h.cls, 8 + h.cls]

def pickPool (t : Tbl Nat) (h : Hdr) : Option Nat := (poolsOf h).find? (fun p => decide (Tbl.get 0 t p < poolCap p))

/-- Sending rank (R265): VC 0, VERDICT, real-time, bubble. -/
def rankOf (h : Hdr) : Nat := if h.vc = 0 then 0 else if h.typ = 3 then 1 else if h.cls = 0 then 2 else 3

/-- A port may send a frame now: UP, or one of the types that pass before (R260), with a credit and room for replay (R262). -/
def maySend (p : Port) (h : Hdr) : Bool :=
  (p.st == .up || ((h.typ == 8 || h.typ == 9 || h.typ == 11) && (p.st == .hailing || p.st == .attesting)))
  && (h.vc == 0 || decide (p.replay.length < 128)) && (pickPool p.used h).isSome

/-- A buffer of a receiving port is free again; its credit is owed (R264). -/
def freeBuffer (port pool : Nat) (s : State) : State :=
  s.updPort port (fun p => { p with buffered := Tbl.upd 0 p.buffered pool (· - 1), owed := Tbl.upd 0 p.owed pool (· + 1) })

/-- First transmission of a frame: LSEQ, LACK and LKEY are filled in, and a copy is kept for replay (R260, R262). -/
def transmit (port : Nat) (t : TxFrame) (s : State) : State :=
  let p := s.port port
  let h := { Hdr.parse t.hdr with lseq := p.nextLseq % 4096, lack := p.expLseq % 4096, lkey := p.lkey }
  let pool := (pickPool p.used h).getD 10
  let s1 := s.updPort port (fun p => { p with
    nextLseq := p.nextLseq + 1, firstTx := p.firstTx + 1, used := Tbl.upd 0 p.used pool (· + 1),
    replay := p.replay ++ [{ seq := p.nextLseq, hdr := h.pack, payload := t.payload, tries := 0 }] })
  let s2 := s1.emit (.frame port h.pack t.payload)
  match t.holds with
  | some (q, k) => freeBuffer q k s2
  | none => s2

/-- The best-ranked frame that may be sent, with the others. -/
def pickFrame (p : Port) (q : List TxFrame) : Option (TxFrame × List TxFrame) :=
  match [0, 1, 2, 3].findSome? (fun r => q.findIdx? (fun t => rankOf (Hdr.parse t.hdr) == r && maySend p (Hdr.parse t.hdr))) with
  | some i => (q[i]?).map (fun t => (t, q.eraseIdx i))
  | none => none

def drainPortGo (port : Nat) : Nat → State → State
  | 0, s => s
  | k + 1, s =>
    match pickFrame (s.port port) (s.port port).queue with
    | some (t, rest) => drainPortGo port k (transmit port t (s.updPort port (fun p => { p with queue := rest })))
    | none => s

/-- Send what the port may send. -/
def drainPort (port : Nat) (s : State) : State := drainPortGo port (s.port port).queue.length s

/-- Hand a frame to an output port. -/
def sendFrame (port : Nat) (h : Hdr) (payload : Bytes) (holds : Option (Nat × Nat)) (s : State) : State :=
  let h' := { h with cells := cellsFor payload.length, len := payload.length }
  drainPort port (s.updPort port (fun p => { p with queue := p.queue ++ [{ hdr := h'.pack, payload := payload, holds := holds }] }))

/-- A VC 0 frame to the neighbour. -/
def sendControl (port typ : Nat) (payload : Bytes) (s : State) : State :=
  sendFrame port { typ := typ, vc := 0, dest := 0x3FFF, src := s.sys.devId.toNat } payload none s

/-! ## Routes (R270) -/

/-- A path word is VALID and its first port is UP. -/
def pathUp (s : State) (w : Nat) : Bool := nbit w 30 && (s.port (pathPort w 0)).st == .up

/-- The first valid path to a device. -/
def routeTo (s : State) (dev : Nat) : Option Nat := (Tbl.get [] s.routes dev).find? (pathUp s)

/-- Send a frame that belongs to no flow's order (an answer or a report) to a device by its first valid path. -/
def sendTo (dev : Nat) (h : Hdr) (payload : Bytes) (s : State) : State :=
  match routeTo s dev with
  | some w => sendFrame (pathPort w 0) { h with vc := 1, dest := dev, src := s.sys.devId.toNat, path := w % 2 ^ 28 } payload none s
  | none => s

/-- Status of an E2E_ACK: 0 OK, 1 NAK, 2 ERR_TARGET, 3 ERR_GONE, in the first payload byte; the cumulative SEQ is in the header (log entry 17). -/
def sendE2eAck (dev flow cls seq epoch status : Nat) (s : State) : State :=
  sendTo dev { typ := 4, cls := cls, flow := flow, seq := seq, epoch := epoch } [BitVec.ofNat 8 status] s

/-! ## The source side of a flow (R271, R272) -/

def flowKey (dest flow : Nat) : Nat := dest * 2 ^ 20 + flow

def noFlow : FlowSrc :=
  { dest := 0, flow := 0, fn := 0, gen := 0, dstInst := 0, dstGen := 0, bubble := false, rate := 0, path := 0, alt := 0, broken := true }

def State.src (s : State) (key : Nat) : FlowSrc := Tbl.get noFlow s.flowSrc key
def State.updSrc (s : State) (key : Nat) (f : FlowSrc → FlowSrc) : State := { s with flowSrc := Tbl.upd noFlow s.flowSrc key f }

/-- Retained copies that hold tags of a first-hop port, of every class and of bubble flows (R272). -/
def tagsHeld (s : State) (port : Nat) (bubbleOnly : Bool) : Nat :=
  s.flowSrc.foldl (fun n p => if pathPort p.2.path 0 = port && (p.2.bubble || !bubbleOnly) then n + p.2.retained.length else n) 0

/-- TAGS of a port follows the copies held (Table 10-9). -/
def countTags (port : Nat) (s : State) : State := s.updPort port (fun p => { p with tags := BitVec.ofNat 10 (tagsHeld s port false) })

/-- The rates that an instance's flows reserved on this device's ports are free again (R265). -/
def releaseRates (inst : Nat) (s : State) : State :=
  { s with ports := s.ports.map (fun p => (p.1, { p.2 with reserved := p.2.reserved.filter (fun r => !(s.flowSrc.any (fun f => f.2.fn == inst && f.1 == r.1))) })) }

def tagFree (s : State) (f : FlowSrc) : Bool :=
  let port := pathPort f.path 0
  decide (tagsHeld s port false < 512) && (!f.bubble || decide (tagsHeld s port true < 384))

/-- Send the waiting frames of a flow in order while tags are free and no fence holds it. -/
def drainFlowGo (key : Nat) : Nat → State → State
  | 0, s => s
  | k + 1, s =>
    let f := s.src key
    match f.queue with
    | [] => s
    | t :: rest =>
      if f.fenced || f.broken || !f.opened || !tagFree s f then s
      else
        let h := { Hdr.parse t.hdr with
          vc := 1, cls := b2n f.bubble, dest := f.dest, src := s.sys.devId.toNat, flow := f.flow,
          seq := f.nextSeq % 2 ^ 24, epoch := f.epoch, inst := f.dstInst, gen := f.dstGen, path := f.path % 2 ^ 28 }
        let s1 := s.updSrc key (fun f => { f with
          queue := rest, nextSeq := f.nextSeq + 1,
          retained := f.retained ++ [{ seq := f.nextSeq, hdr := h.pack, payload := t.payload, tries := 0 }] })
        let s2 := sendFrame (pathPort f.path 0) h t.payload none (countTags (pathPort f.path 0) s1)
        drainFlowGo key k s2

def drainFlow (key : Nat) (s : State) : State := drainFlowGo key (s.src key).queue.length s

/-- Hand frames to a flow. -/
def pushFlow (key : Nat) (frames : List (Hdr × Bytes)) (s : State) : State :=
  drainFlow key (s.updSrc key (fun f => { f with
    queue := f.queue ++ frames.map (fun (h, b) => { hdr := Hdr.pack { h with cells := cellsFor b.length, len := b.length }, payload := b, holds := none }) }))

/-- The frames of a SEND: 1024 bytes each, SIG on the last (R257, R274). -/
def dataFrames (core dest64 : Nat) (ledger sig poisoned ovf nf : Bool) (sync : Nat) (data : Bytes) : List (Hdr × Bytes) :=
  let n := cdiv data.length 1024
  (List.range n).map (fun i =>
    ({ typ := 0, oper := b2n ledger, core := core, dst := dest64 + 16 * i, sig := sig && i + 1 == n, poison := poisoned,
       lovf := ovf, lnf := nf, sync := if sig && i + 1 == n then sync else 0 }, sub data (1024 * i) (min 1024 (data.length - 1024 * i))))

/-- Resend every retained frame of a flow as stored, under its path and EPOCH now (R272, R273). -/
def resendAll (key : Nat) (s : State) : State :=
  let f := s.src key
  let kept := f.retained.map (fun k => { k with hdr := Hdr.pack { Hdr.parse k.hdr with epoch := f.epoch, path := f.path % 2 ^ 28, vc := 1 } })
  forEach (fun k s => sendFrame (pathPort f.path 0) (Hdr.parse k.hdr) k.payload none s) kept
    (s.updSrc key (fun f => { f with retained := kept }))

/-- Reroute a flow: fence, EPOCH + 1, the next valid path, resend, continue (R273). Without a path it stays fenced until a path or its timeout comes. -/
def reroute (key : Nat) (s : State) : State :=
  let f := s.src key
  if f.broken || !f.opened then s
  else
    let s0 := if f.fenced then s else s.updSrc key (fun f => { f with epoch := (f.epoch + 1) % 16, fenced := true, timeouts := 0 })
    let next := if f.bubble then (Tbl.get [] s.routes f.dest).find? (fun w => w != f.path && pathUp s w)
      else if f.alt != f.path && pathUp s f.alt then some f.alt else none
    match next with
    | some w =>
      let s1 := s0.updSrc key (fun f => { f with path := w, fenced := false })
      drainFlow key (resendAll key (raise f.fn 3 1 f.flow (countTags (pathPort w 0) (countTags (pathPort f.path 0) s1))))
    | none => s0

/-- Reroute every flow a test picks. -/
def rerouteWhere (test : FlowSrc → Bool) (s : State) : State :=
  forEach (fun p s => if test p.2 then reroute p.1 s else s) s.flowSrc s

/-! ## Topology (R270) -/

/-- The UP ports of this device and their peers. -/
def ownLinks (s : State) : List (Nat × Nat × Nat) :=
  (s.ports.filter (fun p => p.2.st == .up && p.2.mode == .sfl)).map (fun p => (p.1, p.2.peerDev.toNat, p.2.peerPort.toNat))

/-- Links of a device as the table holds them. -/
def linksOf (s : State) (dev : Nat) : List (Nat × Nat × Nat) :=
  if dev = s.sys.devId.toNat then ownLinks s else ((s.topo.find? (fun t => t.dev == dev)).map (·.links)).getD []

/-- Paths from a device of at most `n` hops: ports in order and the devices passed. -/
def pathsFrom (s : State) : Nat → Nat → List Nat → List (List Nat × List (Nat × Nat) × Nat)
  | 0, _, _ => []
  | n + 1, dev, seen =>
    (linksOf s dev).flatMap (fun (p, peer, _) =>
      if seen.contains peer then []
      else ([p], [(dev, p)], peer) :: (pathsFrom s n peer (peer :: seen)).map (fun (ps, ls, d) => (p :: ps, (dev, p) :: ls, d)))

/-- Keep up to four paths that share no link, shortest first. -/
def disjointPaths : List (List Nat × List (Nat × Nat)) → List (List Nat × List (Nat × Nat)) → List (List Nat × List (Nat × Nat))
  | [], acc => acc
  | p :: ps, acc =>
    if acc.length < 4 && !(acc.any (fun q => q.2.any (fun l => p.2.contains l))) then disjointPaths ps (acc ++ [p]) else disjointPaths ps acc

/-- A path word: the ports, the hops minus 1, VALID. -/
def pathWord (ports : List Nat) : Nat :=
  (List.range 4).foldl (fun w h => w + (ports.getD h 127) <<< (7 * h)) 0 + (ports.length - 1) <<< 28 + 1 <<< 30

/-- Destinations that some path reaches, without repeats. -/
def destsOf (l : List (List Nat × List (Nat × Nat) × Nat)) : List Nat := l.foldl (fun a p => if a.contains p.2.2 then a else a ++ [p.2.2]) []

/-- The route table computed from the topology table, shortest paths first. -/
def computeRoutes (s : State) : Tbl (List Nat) :=
  let self := s.sys.devId.toNat
  let all := pathsFrom s 4 self [self]
  (destsOf all).foldl (fun t d =>
    let mine := (all.filter (fun p => p.2.2 == d)).map (fun p => (p.1, p.2.1))
    let sorted := [1, 2, 3, 4].flatMap (fun n => mine.filter (fun p => p.1.length == n))
    Tbl.set t d ((disjointPaths sorted []).map (fun p => pathWord p.1))) []

/-- First 32 bytes of the digest of the device's identity certificate (Table 10-5, R368). -/
def ownCert (s : State) : BitVec 256 := (Config.sha384 (Config.certChain 0 s.sys.patch.toNat)).extractLsb' 0 256

/-- Payload of a TOPO frame: device id, count, then port, peer device and peer port of each UP port, then CERT (log entry 17). -/
def topoPayload (s : State) : Bytes :=
  leBytes 2 s.sys.devId.toNat ++ leBytes 2 (ownLinks s).length ++
  (ownLinks s).flatMap (fun (p, d, q) => leBytes 1 p ++ leBytes 2 d ++ leBytes 1 q) ++
  leBytes 32 (ownCert s).toNat

/-- The topology changed at a device: the table's count, the cause, new routes, and flows whose path is gone reroute (R270, R273). -/
def topoChanged (dev : Nat) (s : State) : State :=
  let s1 := s.updSys (fun y => { y with topoChanges := if y.topoChanges = 0xFFFFFFFF then y.topoChanges else y.topoChanges + 1 })
  let s2 := raiseDev 10 3 (dev % 2 ^ 14) { s1 with routes := computeRoutes s1 }
  rerouteWhere (fun f => f.fenced || !((Tbl.get [] s2.routes f.dest).contains f.path)) s2

/-- Flood this device's own adjacency (R270). -/
def floodTopo (s : State) : State :=
  forEach (fun p s => if p.2.st == .up && p.2.mode == .sfl then sendControl p.1 0xA (topoPayload s) s else s) s.ports s

/-- A device with no id carries no flows and floods nothing (R270). -/
def ownTopoChange (s : State) : State :=
  if s.sys.devId = 0x3FFF then s else floodTopo (topoChanged s.sys.devId.toNat s)

/-! ## Ports that go down (R269) -/

/-- PATH_DOWN to the source of a dropped frame (Table 10-2); its payload names the frame's destination (log entry 17). -/
def sendPathDown (h : Hdr) (s : State) : State :=
  if h.src = s.sys.devId.toNat then s else sendTo h.src { typ := 5, cls := h.cls, flow := h.flow, seq := h.seq, epoch := h.epoch } (leBytes 2 h.dest) s

def sat16 (v : BitVec 16) : BitVec 16 := if v = 0xFFFF then v else v + 1

/-- An UP port goes DOWN: replay buffer discarded, PORT_DOWN with its reason, flows through it reroute, transit frames that waited for it draw PATH_DOWN (R269, R273). -/
def portDown (port reason : Nat) (s : State) : State :=
  let p := s.port port
  if p.st = .up then
    let s1 := s.updPort port (fun p => { p with
      st := .down, downs := sat16 p.downs, replay := [], queue := [], used := [], buffered := [],
      owed := [], nakSent := false, keySwitch := false, lkey := false, nextLseq := 0, expLseq := 0, firstTx := 0 })
    let s2 := raiseDev 10 0 (port + reason <<< 8) s1
    let s3 := ownTopoChange s2
    let s4 := rerouteWhere (fun f => pathPort f.path 0 == port) s3
    forEach (fun t s =>
      let s' := match t.holds with | some (q, k) => freeBuffer q k s | none => s
      let h := Hdr.parse t.hdr
      if h.vc = 0 then s' else sendPathDown h s') p.queue s4
  else s.updPort port (fun p => { p with st := if p.st = .off then .off else .down, replay := [], queue := [] })

/-- The code of a port state (Table 10-6). -/
def PortSt.code : PortSt → Nat
  | .off => 0 | .down => 1 | .training => 2 | .hailing => 3 | .attesting => 4 | .up => 5 | .refused => 6 | .stopping => 7

def PortMode.code : PortMode → Nat
  | .off => 0 | .sfl => 1 | .storage => 2

/-- The hail payload (Table 10-5). -/
def hailPayload (s : State) (port state : Nat) : Bytes :=
  let p := s.port port
  leBytes 64 (0x4841494C + s.sys.devId.toNat <<< 32 + s.sys.square.toNat <<< 48 + s.sys.pos.toNat <<< 56 + port <<< 64
    + state <<< 72 + Config.step <<< 80 + p.echo.toNat <<< 96 + p.hailCount.toNat <<< 104 + (ownCert s).toNat <<< 256)

/-- Send a hail (R267). -/
def sendHail (port state : Nat) (s : State) : State :=
  sendControl port 8 (hailPayload s port state) (s.updPort port (fun p => { p with hailCount := p.hailCount + 1 }))

/-- Every UP SFL port hails STOPPING (R267, R408). -/
def hailStopping (ports : Nat → Bool) (s : State) : State :=
  forEach (fun p s => if ports p.1 && p.2.mode == .sfl && p.2.st == .up then sendHail p.1 7 s else s) s.ports s

end Sys2Proof.Machine
end

