-- ==== Sys2Proof/Machine/Ops.lean ====
section
/-! DEFINITION. Operations that many commands share: core SRAM, steps and their flags, ledger words, sync objects and what their signals start (03_core_array R70, R71; 08_almanac R221 to R227; 06_memory_tiers R169, R170; 10_fabric R276, R277). -/

namespace Sys2Proof.Machine

/-! ## Core SRAM -/

def sramBytes : Nat := 524288

def overlaps (a n b m : Nat) : Bool := decide (a < b + m) && decide (b < a + n)

def Core.bytes (c : Core) (a n : Nat) : Bytes := Mem.read c.sram a n

/-- Whether a poisoned word lies in a range (R71). -/
def Core.poisonIn (c : Core) (a n : Nat) : Bool := c.poison.any (fun w => overlaps a n (8 * w) 8)

/-- Numbers of the 64-bit words a range touches. -/
def wordsOf (a n : Nat) : List Nat := if n = 0 then [] else (List.range ((a + n - 1) / 8 + 1 - a / 8)).map (fun i => a / 8 + i)

/-- Write bytes of SRAM: whole words lose or gain the poison mark, and a predicted fetch of the region is no longer good (R71, R87). -/
def Core.store (c : Core) (a : Nat) (bs : Bytes) (poisoned : Bool) : Core :=
  let ws := wordsOf a bs.length
  let kept := c.poison.filter (fun w => !(decide (a ≤ 8 * w) && decide (8 * w + 8 ≤ a + bs.length)))
  { c with sram := Mem.write c.sram a bs,
           poison := if poisoned then kept ++ ws.filter (fun w => !kept.contains w) else kept,
           work := { c.work with preds := c.work.preds.map (fun p => if overlaps a bs.length p.sram p.len then { p with dirty := true } else p) } }

def State.sramRead (s : State) (core a n : Nat) : Bytes := (s.core core).bytes a n

def State.sramPoison (s : State) (core a n : Nat) : Bool := (s.core core).poisonIn a n

def sramWrite (core a : Nat) (bs : Bytes) (s : State) : State := s.updCore core (fun c => c.store a bs false)

/-- A write of bubble work to a core: into the spilled copy while the stall's bubble work is suspended (R219, R100). -/
def writeFor (bubble : Bool) (core a : Nat) (bs : Bytes) (poisoned : Bool) (s : State) : State :=
  s.updCore core (fun c =>
    match c.spilled with
    | some sp =>
      if bubble then
        let ws := wordsOf a bs.length
        let kept := sp.poison.filter (fun w => !(ws.contains w))
        { c with spilled := some { sp with mem := Mem.write sp.mem a bs, poison := if poisoned then kept ++ ws else kept } }
      else c.store a bs poisoned
    | none => c.store a bs poisoned)

def readFor (bubble : Bool) (core a n : Nat) (s : State) : Bytes :=
  match (s.core core).spilled with
  | some sp => if bubble then Mem.read sp.mem a n else (s.core core).bytes a n
  | none => (s.core core).bytes a n

/-- First byte of the real-time reserved area of an instance's cores (R220). -/
def State.areaStart (s : State) (inst : Nat) : Nat :=
  match (s.inst inst).image with
  | some im => sramBytes - im.rtKeep
  | none => sramBytes

/-! ## Steps -/

def State.stepOf (s : State) (fn tag : Nat) : Option Step := (s.inst fn).steps.find? (fun p => p.tag == tag)

def State.updStep (s : State) (fn tag : Nat) (f : Step → Step) : State :=
  s.updInst fn (fun n => { n with steps := n.steps.map (fun p => if p.tag == tag then f p else p) })

/-- The step a core's task belongs to gets its flags changed. -/
def updTaskStep (core : Nat) (f : Step → Step) (s : State) : State :=
  match (s.work core).task with
  | some t => s.updStep t.fn t.tag f
  | none => s

/-- The non-finite indicator of the step a core works for (R48). -/
def markNonfinite (core : Nat) (on : Bool) (s : State) : State :=
  if on then updTaskStep core (fun p => { p with nonfinite := true }) s else s

/-- A ledger flag raised by a core's work (R65). -/
def markLedger (core : Nat) (on : Bool) (s : State) : State :=
  if on then updTaskStep core (fun p => { p with ledgerFlag := true }) s else s

/-- The step of an instance that runs in a class. -/
def Step.runsBubble (p : Step) : Bool :=
  match p.at_ with
  | .bubble _ | .sweeping | .verdict | .committing _ => true
  | _ => false

def Step.runsRt (p : Step) : Bool :=
  match p.at_ with
  | .running .. => true
  | _ => false

/-- LFLAGS of arriving ledger data set the running step's flag (R65, R274). -/
def markArrival (inst : Nat) (bubble on : Bool) (s : State) : State :=
  if on then
    s.updInst inst (fun n => { n with steps := n.steps.map (fun p =>
      if (bubble && p.runsBubble) || (!bubble && p.runsRt) then { p with ledgerFlag := true } else p) })
  else s

/-- A real-time occurrence of an instance is running. -/
def State.rtRunning (s : State) (inst : Nat) : Bool := (s.inst inst).steps.any (fun p => p.runsRt)

/-! ## Ledger words in bytes -/

def ledgerMax : Int := 2 ^ 127 - 1

/-- Add ledger words: whole integers, saturating. A word that stands at its bound after an overflow of the step stays there (R64, R65). -/
def addWords (stuck : Bool) : Nat → Bytes → Bytes → Bytes × Bool
  | 0, _, _ => ([], false)
  | n + 1, a, b =>
    let w := word128 a 0
    let x := (word128 b 0).toInt
    let r := if stuck && (w.toInt = ledgerMax || w.toInt = -(2 ^ 127)) then (⟨w, false, false⟩ : LedgerRes) else ledgerAddInt w x
    let (rest, o) := addWords stuck n (a.drop 16) (b.drop 16)
    (leBytes 16 r.word.toNat ++ rest, r.ovf || o)

/-- Whether a ledger flag of the instance's running work is already raised. -/
def State.ledgerStuck (s : State) (inst : Nat) : Bool := (s.inst inst).steps.any (fun p => p.ledgerFlag && (p.runsBubble || p.runsRt))

/-- The adder of a link engine or a destination core: add into memory and raise the flags (R64, R65, R274). -/
def ledgerInto (inst : Nat) (bubble : Bool) (core a : Nat) (bs : Bytes) (flags : Bool) (s : State) : State :=
  let (sum, ovf) := addWords (s.ledgerStuck inst) (bs.length / 16) (readFor bubble core a bs.length s) bs
  markArrival inst bubble (ovf || flags) (writeFor bubble core a sum false s)

/-! ## Sync objects (R221 to R226) -/

/-- An object lies in an instance's range and is declared by its loaded image, under its current generation (R85, R364). -/
def State.ownsObj (s : State) (inst obj : Nat) : Bool :=
  match s.stall inst with
  | some st => decide (st.syncBase ≤ obj) && decide (obj < st.syncBase + st.syncCount) && obj != 0
  | none => false

def State.liveObj (s : State) (inst obj : Nat) : Bool :=
  s.ownsObj inst obj && (s.obj obj).kind != 3 && (s.obj obj).gen == (s.inst inst).gen

/-- Class and kind a use needs; a descriptor fault otherwise (R85, R227). -/
def State.usableObj (s : State) (inst obj : Nat) (bubble : Bool) (kind : BitVec 2) : Bool :=
  s.liveObj inst obj && (s.obj obj).kind == kind && (s.obj obj).cls == bubble

/-- An addition that would pass 2^32 − 1 leaves COUNT there (R222). -/
def SyncObj.add (o : SyncObj) (n : Nat) : SyncObj × Bool :=
  if o.count.toNat + n < 2 ^ 32 then ({ o with count := o.count + BitVec.ofNat 32 n }, false) else ({ o with count := 0xFFFFFFFF }, true)

/-- An arrival: the last one opens the barrier (R223). -/
def SyncObj.arrive (o : SyncObj) : SyncObj :=
  if o.count + 1 = o.members then { o with count := 0, phase := o.phase + 1 } else { o with count := o.count + 1 }

/-- An event is set once (R224). -/
def SyncObj.setEvent (o : SyncObj) : SyncObj := { o with count := 1 }

/-- The declared initial state (R225). -/
def SyncObj.renew (o : SyncObj) : SyncObj := if o.kind = 3 then { o with count := 0, phase := 0 } else { o with count := o.initial, phase := 0 }

/-! ## Collectives (R276, R277) -/

/-- Address of a collective's destination for a member's data, and the bytes each member brings. -/
def Coll.share (c : Coll) : Nat :=
  match c.kind with
  | 1 => c.len / c.members
  | 3 => c.len / c.members
  | _ => c.len

def Coll.dstBytes (c : Coll) : Nat :=
  match c.kind with
  | 1 => c.len / c.members
  | 2 => c.len * c.members
  | _ => c.len

/-- Where member `m`'s data lies in a destination. -/
def Coll.place (c : Coll) (m : Nat) : Nat :=
  match c.kind with
  | 2 => m * c.len
  | 3 => m * (c.len / c.members)
  | _ => 0

/-- Bytes every destination waits for, over all members. -/
def Coll.expects (c : Coll) (m : Nat) : Nat :=
  if c.kind = 4 then (match c.list[m]? with | some (_, _, t) => (match c.list[c.index]? with | some (d, _, _) => if t = d then c.len else 0 | none => 0) | none => 0)
  else c.share

/-- What member `i` sends to member `j`. -/
def Coll.piece (c : Coll) (src : Bytes) (j : Nat) : Bytes :=
  match c.kind with
  | 0 | 2 => src
  | 1 | 3 => sub src (j * c.share) c.share
  | _ => match c.list[c.index]?, c.list[j]? with
    | some (_, _, t), some (d, _, _) => if t = d then src else []
    | _, _ => []

def collOf (s : State) (inst coll : Nat) : Option Coll :=
  match (s.inst inst).image with
  | some im => im.colls.find? (fun c => c.coll == coll)
  | none => none

def runOf (s : State) (inst coll : Nat) : Option CollRun := s.colls.find? (fun r => r.fn == inst && r.coll == coll)

def updRun (inst coll : Nat) (f : CollRun → CollRun) (s : State) : State :=
  { s with colls := s.colls.map (fun r => if r.fn == inst && r.coll == coll then f r else r) }

/-- The collective's record on this device, made by its start or by the first frame; the words of a reduction start at zero. -/
def ensureColl (inst : Nat) (c : Coll) (s : State) : State :=
  match runOf s inst c.coll with
  | some _ => s
  | none =>
    let s1 := { s with colls := s.colls ++ [{ fn := inst, coll := c.coll, startedAt := s.now.toNat, started := false, got := [], streams := [] }] }
    if c.kind < 2 then writeFor c.bubble c.core c.dst (List.replicate c.dstBytes 0) false s1 else s1

/-- A member's bytes reach the destination at an offset: added for a reduction, written otherwise. -/
def collPut (inst : Nat) (c : Coll) (member off : Nat) (bs : Bytes) (flags : Bool) (s : State) : State :=
  let s1 := if c.kind < 2 then ledgerInto inst c.bubble c.core (c.dst + off) bs flags s
    else writeFor c.bubble c.core (c.dst + off) bs false s
  updRun inst c.coll (fun r => { r with got := Tbl.upd 0 r.got member (· + bs.length) }) s1

/-- COMPRESS: each 4 KiB source block as its map entry and payload (R174). -/
def codeBlocks (fmt : Nat) (bs : Bytes) : Bytes :=
  (chunks 4096 (cdiv bs.length 4096) bs).flatMap (fun b =>
    let (e, pay) := mapEntry fmt (sub b 0 4096) 0
    leBytes 8 e ++ pay)

/-- Whole coded blocks at the front of a member's stream: their bytes, whether each is good, and the rest (R173 to R175). -/
def takeBlocks : Nat → Bytes → List (Bytes × Bool) × Bytes
  | 0, bs => ([], bs)
  | n + 1, bs =>
    let e := num bs 0 8
    let len := nfld e 44 36 * 16
    if bs.length < 8 || bs.length < 8 + len then ([], bs)
    else
      let (rest, left) := takeBlocks n (bs.drop (8 + len))
      match unpackBlock e (sub bs 8 len) with
      | some b => ((b, true) :: rest, left)
      | none => ((List.replicate 4096 0, false) :: rest, left)

/-- The COLL frames that carry bytes to one member. -/
def collFrames (c : Coll) (off : Nat) (bs : Bytes) (ovf : Bool) : List (Hdr × Bytes) :=
  let body := if c.compress then codeBlocks c.fmt bs else bs
  (List.range (cdiv body.length 1024)).map (fun i =>
    (({ typ := 2, coll := c.coll, oper := if c.kind < 2 then 1 else 0, lovf := ovf } : Hdr).withOffset
      (if c.compress then off / 64 else off / 64 + 16 * i), sub body (1024 * i) (min 1024 (body.length - 1024 * i))))

/-- Send this member's part to itself and to every other member, in member order (R277). -/
def sendParts (inst : Nat) (c : Coll) (src : Bytes) : List (Nat × Nat × Nat) → Nat → State → State
  | [], _, s => s
  | (dev, flow, _) :: rest, j, s =>
    let bs := c.piece src j
    let s1 :=
      if bs.isEmpty then s
      else if j = c.index then collPut inst c j (c.place c.index) bs false s
      else pushFlow (flowKey dev flow) (collFrames c (c.place c.index) bs (s.ledgerStuck inst && c.kind < 2)) s
    sendParts inst c src rest (j + 1) s1

/-- A collective starts on this device (R276): its source is read and sent. -/
def startColl (inst : Nat) (c : Coll) (s : State) : State :=
  match runOf s inst c.coll with
  | some r => if r.started then s else go s
  | none => go s
where
  go (s : State) : State :=
    let s1 := updRun inst c.coll (fun r => { r with started := true, startedAt := s.now.toNat }) (ensureColl inst c s)
    sendParts inst c (readFor c.bubble c.core c.src c.len s1) c.list 0 s1

/-! ## What a signal sets in motion -/

/-- Declare the moves of a region's pages (R163, R169): each waits for its PAGE_MOVE. -/
def declareMoves (inst : Nat) (r : Region) (s : State) : State :=
  forEach (fun i s =>
    let key := pageKey inst (r.base + i * (if r.big then 2 ^ 21 else 65536))
    if (s.pte key).valid then declareAct .mv [.page key] none key s else s)
    (List.range (if r.big then r.len / 32 else r.len)) s

/-- Release a RECOMPUTE region: its entries become invalid (R170). -/
def releaseRegion (inst : Nat) (r : Region) (s : State) : State :=
  forEach (fun i s => unmapPage (pageKey inst (r.base + i * (if r.big then 2 ^ 21 else 65536))) s)
    (List.range (if r.big then r.len / 32 else r.len)) s

/-- After an addition to an object: collectives that it triggers, and the regions it moves or releases (R276, R169, R170). -/
def afterAdd (inst obj : Nat) (s : State) : State :=
  match (s.inst inst).image with
  | none => s
  | some im =>
    let n := (s.obj obj).count.toNat
    let s1 := forEach (fun (c : Coll) s => if c.trigger = obj && n ≥ c.thresh then startColl inst c s else s) im.colls s
    forEach (fun (r : Region) s =>
      if r.outTrig = obj && r.offload then declareMoves inst r s
      else if r.backTrig = obj && r.offload then declareMoves inst r s
      else if r.outTrig = obj && r.recompute then releaseRegion inst r s
      else s) im.regions s1

/-- An addition (R222). The flag says that it saturated: an uncorrected-contained error for the step that made it. -/
def addObj (inst obj n : Nat) (s : State) : State × Bool :=
  let (o, sat) := (s.obj obj).add n
  let s1 := s.updObj obj (fun _ => o)
  let s2 := if sat then raise inst 1 7 obj s1 else s1
  (afterAdd inst obj s2, sat)

/-- A signal of a stated kind: 0 adds, 1 arrives, 2 sets. -/
def signalKind (inst obj kind n : Nat) (s : State) : State × Bool :=
  match kind with
  | 0 => addObj inst obj n s
  | 1 => (s.updObj obj SyncObj.arrive, false)
  | _ => (s.updObj obj SyncObj.setEvent, false)

/-- A carried signal acts by the object's kind: it adds 1, arrives or sets (R226). -/
def carried (inst obj : Nat) (s : State) : State × Bool :=
  if s.liveObj inst obj then signalKind inst obj (s.obj obj).kind.toNat 1 s else (s, false)

/-- Whether a held WAIT's condition holds (R222 to R224). -/
def State.satisfied (s : State) (core obj thresh : Nat) : Bool :=
  let o := s.obj obj
  if o.kind = 0 then decide (o.count.toNat ≥ thresh)
  else if o.kind = 1 then
    (match (s.work core).lastBarrier with
     | some (b, ph) => if b = obj then o.phase.toNat != ph else o.phase.toNat != thresh
     | none => o.phase.toNat != thresh)
  else o.count != 0

/-- Ring and stream pacing: subtract 1 from a COUNT of at least 1 (R222). -/
def pace (obj : Nat) (s : State) : State := s.updObj obj (fun o => { o with count := o.count - 1 })

/-- The objects of a stall's range. -/
def Stall.objects (st : Stall) : List Nat := (List.range st.syncCount).map (fun i => st.syncBase + i)

/-- Every real-time object of a stall returns to its declared initial state at an occurrence (R225). -/
def renewRealTime (inst : Nat) (s : State) : State :=
  match s.stall inst with
  | some st => forEach (fun o s => if (s.obj o).kind != 3 && !(s.obj o).cls then s.updObj o SyncObj.renew else s) st.objects s
  | none => s

/-- A stall reset returns every object (R225). -/
def renewAll (inst : Nat) (s : State) : State :=
  match s.stall inst with
  | some st => forEach (fun o s => if (s.obj o) = {} then s else s.updObj o SyncObj.renew) st.objects s
  | none => s

end Sys2Proof.Machine
end

