-- ==== Sys2Proof/Machine/Verdict.lean ====
section
/-! DEFINITION. Training states, the step verdict, commit and skip, the norm report and the difference stream: what the sweep, verdict and export commands share (09_fine_tuning R229 to R254). -/

namespace Sys2Proof.Machine

def State.jobOf (s : State) (inst id : Nat) : Option Job := (s.inst inst).jobs.find? (fun j => j.id == id)

def State.updJob (s : State) (inst id : Nat) (f : Job → Job) : State :=
  s.updInst inst (fun n => { n with jobs := n.jobs.map (fun j => if j.id == id then f j else j) })

/-! ## The layout of a training state (Table 9-2) -/

def align128 (n : Nat) : Nat := cdiv n 128 * 128

def Tensor.rp (t : Tensor) : Nat := max t.rank 16
def Tensor.elems (t : Tensor) : Nat := t.rp * t.len
def Tensor.msize (t : Tensor) : Nat := if t.bf16M then 2 else 4
def Tensor.offHistory (_t : Tensor) : Nat := 128
def Tensor.offLedger (_t : Tensor) : Nat := 256
def Tensor.offMaster (t : Tensor) : Nat := t.offLedger + align128 (16 * t.elems)
def Tensor.offM (t : Tensor) : Nat := t.offMaster + align128 (2 * t.msize * t.elems)
def Tensor.offV (t : Tensor) : Nat := t.offM + align128 (8 * t.elems)
def Tensor.total (t : Tensor) : Nat := if t.sgd then t.offV else t.offV + align128 (8 * t.elems)

/-- Address of a master bank, and of a moment bank; bank 1 follows bank 0 at once. -/
def Tensor.master (t : Tensor) (b : Nat) : Nat := t.state + t.offMaster + b * t.msize * t.elems
def Tensor.first (t : Tensor) (b : Nat) : Nat := t.state + t.offM + b * 4 * t.elems
def Tensor.second (t : Tensor) (b : Nat) : Nat := t.state + t.offV + b * 4 * t.elems

/-- A range touches a training state outside its ledger buffer: closed to every descriptor, DMA and command (R232). -/
def State.closedState (s : State) (inst la n : Nat) : Bool :=
  (s.inst inst).jobs.any (fun j => j.tensors.any (fun t =>
    overlaps la n t.state t.total &&
    !(decide (t.state + t.offLedger ≤ la) && decide (la + n ≤ t.state + t.offLedger + 16 * t.elems))))

/-- Bytes of a range that the units read directly; poisoned words are reported and read as zeros. -/
def stateRead (inst la n : Nat) (s : State) : Bytes × Bool :=
  match readBytes inst la n [] s with
  | (some bs, _) => (bs, false)
  | (none, _) => (List.replicate n 0, true)

def stateWrite (inst la : Nat) (bs : Bytes) (s : State) : State := (writeBytes inst [] (bs.length / 128 + 2) 0 la bs s).2

/-! ## Members and the tree of a verdict (R279) -/

/-- Fan-out of the tree: with 24, the root and three levels below hold 12 288 members (log entry 18). -/
def treeArity : Nat := 24

def parentOf (i : Nat) : Nat := (i - 1) / treeArity

def childrenOf (i m : Nat) : List Nat := ((List.range treeArity).map (fun k => treeArity * i + 1 + k)).filter (fun c => decide (c < m))

/-- The members a verdict runs over: the job's map, or the union of old and new members while a re-shard runs (R294). -/
def Job.members (j : Job) : List MapEnt := match j.reshard with | some r => if r.waiting then j.map else r.union | none => j.map

/-- COMMITTED as VERDICT frames carry it: N while a re-shard runs. -/
def Job.verdictNo (j : Job) : Nat := match j.reshard with | some r => if r.waiting then j.committed else r.n | none => j.committed

def Job.self (s : State) (j : Job) : Nat := (j.members.findIdx? (fun e => e.device == s.sys.devId.toNat)).getD 0

def Job.devOf (j : Job) (i : Nat) : Nat := (j.members.getD i { device := 0x3FFF, flowBase := 0, group := 0 }).device

/-- A member that the verdict waits for is lost. -/
def Job.lostMember (j : Job) : Bool := j.lost.any (fun d => j.members.any (fun e => e.device == d))

/-- Merge the digests of replica groups; a disagreement sets DIGEST (R242). -/
def mergeGroups (a b : List (Nat × BitVec 64)) : List (Nat × BitVec 64) × Bool :=
  b.foldl (fun (acc : List (Nat × BitVec 64) × Bool) g =>
    match acc.1.find? (fun h => h.1 == g.1) with
    | some h => (acc.1, acc.2 || h.2 != g.2)
    | none => (acc.1 ++ [g], acc.2)) (a, false)

/-- Combine the votes a device holds: the OR of the bytes, with DIGEST where two members of a group differ. -/
def combine (vs : List Vote) : BitVec 8 × List (Nat × BitVec 64) :=
  vs.foldl (fun (acc : BitVec 8 × List (Nat × BitVec 64)) v =>
    let (g, bad) := mergeGroups acc.2 v.groups
    (acc.1 ||| v.byte ||| (if bad then 4 else 0), g)) (0, [])

/-- Payload of a VERDICT frame (log entry 17): JOB_ID, COMMITTED, member, 0 for a contribution or 1 for a result, the byte, then groups with digests. -/
def verdictPayload (job committed member kind : Nat) (byte : BitVec 8) (groups : List (Nat × BitVec 64)) : Bytes :=
  leBytes 4 job ++ leBytes 8 committed ++ leBytes 2 member ++ leBytes 1 kind ++ [byte] ++ leBytes 1 groups.length ++
  groups.flatMap (fun g => leBytes 1 g.1 ++ leBytes 8 g.2.toNat)

/-- The first open bubble flow of an instance towards a device. -/
def bubbleFlowTo (s : State) (inst dev : Nat) : Option Nat :=
  (s.flowSrc.find? (fun p => p.2.fn == inst && p.2.dest == dev && p.2.bubble && p.2.opened && !p.2.broken)).map (·.1)

/-- A VERDICT frame on the job's bubble flow towards a member (R279). -/
def sendVerdict (inst dev : Nat) (payload : Bytes) (s : State) : State :=
  match bubbleFlowTo s inst dev with
  | some k => pushFlow k [({ typ := 3 }, payload)] s
  | none => sendTo dev { typ := 3, cls := 1 } payload s

/-! ## Completion of a fine-tuning step -/

/-- The step of a job that is past its sub-steps. -/
def State.jobStep (s : State) (inst job : Nat) : Option Step :=
  (s.inst inst).steps.find? (fun p => p.kind == 1 && p.job == job && p.runsBubble)

/-- A step ends: it leaves the instance, and its one final completion goes out with the flags that apply (R245, R313, Table 13-4). -/
def endStep (inst tag status : Nat) (result : Nat) (s : State) : State :=
  match s.stepOf inst tag with
  | none => s
  | some p =>
    let s1 := s.updInst inst (fun n => { n with steps := n.steps.filter (fun q => q.tag != tag) })
    if p.muted then s1
    else finishStep inst tag status (flagWord p.firstUse p.clipOver (p.nonfinite || p.ledgerFlag) false) result p.bound s1

/-- Failure status of a cause (Table 8-4). -/
def statusOf : StopWhy → Nat
  | .memory => St.failedMemory
  | .fabric => St.timeoutFabric
  | .device => St.failedDevice
  | .host => St.abortedHost
  | .reset => St.abortedReset

/-- The adapter-layer records of a job, in tensor-table order (R248). -/
def layerKeys (ts : List Tensor) : List (Nat × Nat) :=
  ts.foldl (fun acc t => if acc.contains (t.adapter, t.layer) then acc else acc ++ [(t.adapter, t.layer)]) []

/-- One record of the norm report (Table 9-6). -/
def normRecord (j : Job) (eTs : List Int) (keep : Bool) (k : Nat × Nat) : Bytes :=
  let mine := (List.range j.tensors.length).filter (fun i =>
    match j.tensors[i]? with | some t => t.adapter == k.1 && t.layer == k.2 | none => false)
  let rs := mine.filterMap (fun i => j.sweep[i]?)
  let addAll := fun (f : SweepRes → BitVec 128) => rs.foldl (fun (a : BitVec 128 × Bool) r => let x := ledgerAddInt a.1 (f r).toInt; (x.word, a.2 || x.ovf)) (0, false)
  let (gn, wn, un) := (addAll (·.gn), addAll (·.wn), addAll (·.un))
  let e := unsigned 8 (eTs.getD (mine.headD 0) 0)
  let clips := mine.foldl (fun (c : Nat × Nat) i => let v := Tbl.get (0, 0) j.pendClips i; (c.1 + v.1, c.2 + v.2)) (0, 0)
  leBytes 64 (k.1 + k.2 <<< 32 + b2n keep <<< 48 + b2n (rs.any (·.sat) || gn.2 || wn.2 || un.2) <<< 49 + e <<< 56
    + (if keep then clips.1 <<< 64 + clips.2 <<< 96 else 0)
    + gn.1.toNat <<< 128 + (if keep then wn.1.toNat <<< 256 + un.1.toNat <<< 384 else 0))

def normReport (j : Job) (p : Step) (keep : Bool) : Bytes :=
  (layerKeys j.tensors).flatMap (normRecord j p.eTs keep)

/-! ## Record sets (R251 to R253) -/

/-- An array of a tensor, in coded blocks. -/
def recordOf (inst : Nat) (t : Tensor) (array fmt : Nat) (bytes : Bytes) : Bytes :=
  let _ := inst
  let pay := if array = 3 then bytes else codeBlocks fmt bytes
  leBytes 64 (t.adapter + t.layer <<< 32 + b2n t.kindB <<< 48 +
    (match t.rank with | 4 => 0 | 8 => 1 | 16 => 2 | 32 => 3 | _ => 4) <<< 49 + array <<< 52 + fmt <<< 54
    + t.glen <<< 64 + t.off <<< 96 + t.len <<< 128 + (if array = 3 then 0 else cdiv bytes.length 4096) <<< 160 + pay.length <<< 192) ++ pay

/-- The record set of the job's COMMITTED, for a MODE (Table 9-7). -/
def recordSet (inst mode : Nat) (j : Job) (s : State) : Bytes :=
  let b := j.committed % 2
  let recs := j.tensors.map (fun t =>
    let mf := if t.bf16M then 2 else 3
    let m := [recordOf inst t 0 mf (stateRead inst (t.master b) (t.msize * t.elems) s).1]
    if mode = 2 then
      m ++ [recordOf inst t 1 3 (stateRead inst (t.first b) (4 * t.elems) s).1]
        ++ (if t.sgd then [] else [recordOf inst t 2 3 (stateRead inst (t.second b) (4 * t.elems) s).1])
        ++ [recordOf inst t 3 0 (stateRead inst t.state 192 s).1]
    else m)
  let all := recs.flatten
  let body := all.flatten
  leBytes 64 (j.id + j.committed <<< 32 + all.length <<< 96 + body.length <<< 128 + mode <<< 192 + crc32c body <<< 224) ++ body

/-- Bytes a record set may take at most: every block raw. -/
def recordSetMax (mode : Nat) (ts : List Tensor) : Nat :=
  let blocks := fun (n : Nat) => cdiv n 4096 * 4104 + 64
  64 + (ts.map (fun t => blocks (t.msize * t.elems) +
    (if mode = 2 then blocks (4 * t.elems) + (if t.sgd then 0 else blocks (4 * t.elems)) + 64 + 192 else 0))).foldl (· + ·) 0

/-- Write the front set of an export to its slot where an ACK has freed it (R345): data to a host buffer, or an RDMA WRITE to a storage target. -/
def exportAddr (e : ExportSpec) (c : Nat) : Nat := e.addr + (c % e.slots) * e.slotBytes

/-- A storage queue pair an instance holds at a port (R334, R364). -/
def qpOf (s : State) (inst port qpn : Nat) : Option Qp :=
  s.qps.find? (fun q => q.port == port && q.qpn == qpn && q.fn == inst && q.gen == (s.inst inst).gen.toNat)

/-- Fields of a region handle (Table 13-3). -/
def hPort (h : Bytes) : Nat := nfld (leNat h) 214 208
def hQpn (h : Bytes) : Nat := nfld (leNat h) 247 224
def hRva (h : Bytes) : Nat := nfld (leNat h) 415 352
def hLen (h : Bytes) : Nat := nfld (leNat h) 479 416
def hPsn (h : Bytes) : Nat := nfld (leNat h) 311 288

/-- Send a request, or send it again, as it stands. -/
def resend (r : Rdma) (s : State) : State := s.emit (.rdma r.port r.qpn r.write r.id r.addr r.data)

/-- A request may go out: no PFC pause, at most 512 on the port, at most 16 READs on the queue pair (Table 10-8). -/
def rdmaRoom (s : State) (r : Rdma) : Bool :=
  !(s.port r.port).paused && decide ((s.rdmas.filter (fun q => q.sent && q.port == r.port)).length < 512)
  && (r.write || decide ((s.rdmas.filter (fun q => q.sent && !q.write && q.port == r.port && q.qpn == r.qpn)).length < 16))

/-- Send a request that waits, if it may go. -/
def sendRdma (id : Nat) (s : State) : State :=
  match s.rdmas.find? (fun r => r.id == id) with
  | some r => if r.sent || !rdmaRoom s r then s else resend r { s with rdmas := s.rdmas.map (fun q => if q.id == id then { q with sent := true } else q) }
  | none => s

/-- Requests that wait on a port go out as they may, oldest first. -/
def pumpRdma (port : Nat) (s : State) : State := forEach (fun (r : Rdma) s => if r.port = port then sendRdma r.id s else s) s.rdmas s

/-- Issue an RDMA request within the handle's range (R281, R282). -/
def rdmaIssue (inst : Nat) (h : Bytes) (write : Bool) (use : RdmaFor) (off : Nat) (data : Bytes) (want : Nat) (s : State) : State :=
  let r : Rdma := { id := s.nextReq, port := hPort h, qpn := hQpn h, fn := inst, gen := (s.inst inst).gen.toNat, write := write, use := use,
                    data := data, want := want, addr := hRva h + off, sent := false, fetches := 1, retries := 0, psn := hPsn h }
  sendRdma r.id { s with rdmas := s.rdmas ++ [r], nextReq := s.nextReq + 1 }

/-- Read again what failed its check, under a new request (R175). -/
def refetch (r : Rdma) (s : State) : State :=
  let r' : Rdma := { r with id := s.nextReq, data := [], sent := false, fetches := r.fetches + 1, retries := 0 }
  sendRdma r'.id { s with rdmas := s.rdmas ++ [r'], nextReq := s.nextReq + 1 }

/-! ## Sealed data (R377, R378) -/

/-- The key of a unit, from the bytes 4 to 23 of its head (R378). -/
def unitKey (key : BitVec 256) (head : Bytes) : BitVec 256 :=
  Config.deriveKey (leBytes 32 key.toNat ++ [0x4D, 0x39, 0x36, 0x20, 0x73, 0x65, 0x61, 0x6C] ++ sub head 4 20)

/-- The nonce: INDEX, then the low 64 bits of VERSION (R378). -/
def unitNonce (version index : Nat) : Nat := index + (version % 2 ^ 64) <<< 32

/-- One sealed unit of Table 14-4; `more` goes before its head as additional authenticated data. -/
def sealUnit (key : BitVec 256) (more : Bytes) (kind object salt version index : Nat) (clear : Bytes) : Bytes :=
  let head := leBytes 48 (0x5345414C + kind <<< 32 + object <<< 64 + salt <<< 128 + version <<< 192 + index <<< 256 + clear.length <<< 288)
  head ++ Config.gcmSeal (unitKey key head) (unitNonce version index) (more ++ head) clear

/-- Open units one after another: each must bear the KIND, OBJECT, VERSION and INDEX asked for, and its tag verify (R379). -/
def openUnits (key : BitVec 256) (more : Bytes) (kind object version : Nat) : Nat → Nat → Bytes → Option (List Bytes)
  | 0, _, bs => if bs.isEmpty then some [] else none
  | n + 1, index, bs =>
    if bs.isEmpty then some []
    else
      let head := sub bs 0 48
      let h := leNat head
      let len := nfld h 319 288
      if decide (bs.length < 64 + len) || nfld h 31 0 != 0x5345414C || nfld h 39 32 != kind || nfld h 127 64 != object
        || nfld h 255 192 != version || nfld h 287 256 != index || len == 0 || decide (len > 4104) then none
      else match Config.gcmOpen (unitKey key head) (unitNonce version index) (more ++ head) (sub bs 48 (len + 16)) with
        | none => none
        | some clear => (openUnits key more kind object version n (index + 1) (bs.drop (64 + len))).map (clear :: ·)

/-- The source bytes of sealed stored blocks; nothing where a unit or the CRC of a block fails (R175, R379). -/
def openBlocks (key : BitVec 256) (kind object version : Nat) (bs : Bytes) : Option Bytes :=
  (openUnits key [] kind object version (bs.length / 64 + 1) 0 bs).bind (fun us =>
    (us.mapM (fun u => match takeBlocks 1 u with | ([(b, true)], []) => some b | _ => none)).map List.flatten)

/-- Bytes sealed in units of stored blocks: each 4 KiB block as its map entry and payload (R378). -/
def sealBytes (key : BitVec 256) (kind object version : Nat) (bs : Bytes) (s : State) : Bytes × State :=
  let (r, s1) := s.draw
  let salt := r.toNat % 2 ^ 64
  (((List.range (cdiv bs.length 4096)).map (fun i =>
      let (e, pay) := mapEntry 0 (sub bs (4096 * i) 4096) 0
      sealUnit key [] kind object salt version i (leBytes 8 e ++ pay))).flatten, s1)

/-- A request of the instance's current generation serves a use. -/
def State.rdmaOpen (s : State) (inst : Nat) (use : RdmaFor) : Bool :=
  s.rdmas.any (fun r => r.fn == inst && r.gen == (s.inst inst).gen.toNat && r.use == use)

/-- The next set of an export goes out when its slot is free (R345). -/
def exportPump (inst job : Nat) (s : State) : State :=
  match s.jobOf inst job with
  | none => s
  | some j =>
    match j.exp with
    | none => s
    | some e =>
      match e.queue with
      | [] => s
      | (c, bs) :: _ =>
        if e.stopped || e.delivered = c || decide (c > e.acked + e.spec.slots) || s.rdmaOpen inst (.recordSet job) then s
        else if e.spec.storage then
          match (s.inst inst).sealSecret with
          | some key =>
            let (sealed, s1) := sealBytes key 2 job c bs s
            rdmaIssue inst e.spec.handle true (.recordSet job) ((c % e.spec.slots) * e.spec.slotBytes) sealed sealed.length s1
          | none => s
        else if (s.fn inst).mayWrite then
          (hostWrite inst (exportAddr e.spec c) bs s).updJob inst job (fun j => { j with exp := j.exp.map (fun e => { e with delivered := c }) })
        else s

/-! ## Commit and skip -/

/-- Steps 1 and 2 of Table 9-5 for one tensor: the header takes P1, P2 and AMAX, the history its entry, SCALE its new value (R52, R54). -/
def commitTensor (inst : Nat) (efmt : Fmt) (t : Tensor) (r : SweepRes) (s : State) : State :=
  let hist := (stateRead inst (t.state + t.offHistory) 64 s).1
  let fin := (f32 r.amax).isFin
  let hist' := if fin then leBytes 4 r.amax.toNat ++ hist.take 60 else hist
  let codes := (List.range 16).map (fun i => num hist' (4 * i) 4)
  let scale := tensorScale codes efmt
  stateWrite inst (t.state + t.offHistory) hist'
    (stateWrite inst t.state (leBytes 4 r.p1.toNat ++ leBytes 4 r.p2.toNat ++ leBytes 4 r.amax.toNat ++ leBytes 4 scale) s)

def State.adapterOf (s : State) (inst id : Nat) : Option Adapter := (s.inst inst).adapters.find? (fun a => a.id == id)

def State.updAdapter (s : State) (inst id : Nat) (f : Adapter → Adapter) : State :=
  s.updInst inst (fun n => { n with adapters := n.adapters.map (fun a => if a.id == id then f a else a) })

/-- Element format of an adapter's working copies (R113, R243). -/
def Adapter.fmt (a : Adapter) : Fmt := if a.sfmt then bf16 else if a.efmt then e5m2 else e4m3

def pairTensors : List Tensor → List SweepRes → List (Tensor × SweepRes)
  | t :: ts, r :: rs => (t, r) :: pairTensors ts rs
  | _, _ => []

/-- Bytes of one working bank, and the stride of a layer in it (log entry 19). -/
def Adapter.bank (a : Adapter) : Nat := align128 a.size
def Adapter.layerBytes (a : Adapter) : Nat := a.size / max 1 a.layers
def Adapter.elemBytes (a : Adapter) : Nat := if a.sfmt then 2 else 1

/-- Offset of a tensor in a bank: per layer, A slices before B slices (R100; log entry 19). -/
def tensorOffset (a : Adapter) (ts : List Tensor) (t : Tensor) : Nat :=
  let aLen := match ts.find? (fun u => u.adapter == t.adapter && u.layer == t.layer && !u.kindB) with | some u => u.len | none => 0
  t.layer * a.layerBytes + (if t.kindB then t.rp * aLen * a.elemBytes else 0)

/-- One element of a working copy: the master rounded at SCALE, padding zero (R243). -/
def workElem (f : Fmt) (scale : Nat) (pad : Bool) (x : Num) : Conv :=
  if pad then ⟨0, false, false⟩ else convert f (if f = bf16 then x else x.pow2 (127 - (scale : Int)))

/-- Slot data of an adapter that is not resident: as kept at its home, or its master with both banks' remainder zero. -/
def homeData (a : Adapter) : Bytes := if a.saved.isEmpty then a.master ++ List.replicate (2 * a.bank - a.master.length) 0 else a.saved

def patch (bs : Bytes) (o : Nat) (new : Bytes) : Bytes := bs.take o ++ new ++ bs.drop (o + new.length)

/-- Convert one tensor's new master into the non-current working bank, slice by slice; the clips counted. -/
def convertTensor (inst : Nat) (a : Adapter) (ts : List Tensor) (bank : Nat) (b : Nat) (t : Tensor) (s : State) : (Nat × Nat) × State :=
  let f := a.fmt
  let scale := num (stateRead inst t.state 128 s).1 12 1
  let mf := if t.bf16M then bf16 else fp32
  let src := (stateRead inst (t.master b) (t.msize * t.elems) s).1
  let cs := (List.range (t.rp / 16)).flatMap (fun sl => (List.range t.len).flatMap (fun q => (List.range 16).map (fun c =>
    workElem f scale (16 * sl + c ≥ t.rank) (decode mf (num src ((q * t.rp + 16 * sl + c) * t.msize) t.msize)))))
  let bytes := cs.flatMap (fun c => leBytes a.elemBytes c.code)
  let at_ := bank * a.bank + tensorOffset a ts t
  ((t.rank * t.len, (cs.filter (·.clip)).length),
    if a.slot.isSome then stateWrite inst (a.waddr + at_) bytes s
    else s.updAdapter inst a.id (fun a => { a with saved := patch (homeData a) at_ bytes }))

/-- Clip counter pair of a per-tensor-scaled tensor (Table 13-28). -/
def tensorCounter (s : State) (inst i : Nat) : Option Nat :=
  match (s.inst inst).image with
  | some im => (im.counters.find? (fun c => c.kind && c.tensor == i)).map (·.cnt)
  | none => none

/-- Steps 3 and 4 of Table 9-5: every new master converted, then WORKING flips. -/
def convertWorking (inst job : Nat) (s : State) : State :=
  match s.jobOf inst job with
  | none => s
  | some j =>
    let bank := if j.working then 0 else 1
    let s1 := forEach (fun i s =>
      match j.tensors[i]? with
      | none => s
      | some t =>
        match s.adapterOf inst t.adapter with
        | none => s
        | some a =>
            let (cl, s') := convertTensor inst a j.tensors bank (j.committed % 2) t s
            let s'' := s'.updJob inst job (fun j => { j with pendClips := Tbl.set j.pendClips i cl })
            match tensorCounter s'' inst i with
            | some c => s''.updInst inst (fun n => { n with stepClips := Tbl.upd (0, 0) n.stepClips (256 + c) (fun v => (v.1 + cl.1, v.2 + cl.2)) })
            | none => s'') (List.range j.tensors.length) (s.updJob inst job (fun j => { j with pendClips := [] }))
    forEach (fun t s => s.updAdapter inst t.adapter (fun a => { a with history := true })) j.tensors
      (s1.updJob inst job (fun j => { j with working := !j.working }))

/-- A step that commits seeds the histories of the adapters it used first (R54, R55). -/
def seedHistories (inst : Nat) (p : Step) (s : State) : State :=
  if p.firstUse then forEach (fun (r : Nat × Nat) s => s.updAdapter inst r.1 (fun a => { a with history := true })) p.runs s else s

/-- KEEP: COMMITTED rises by 1 with every pending bank current, then the headers and histories; the conversion follows (Table 9-5). -/
def commitJob (inst job : Nat) (s : State) : State :=
  match s.jobOf inst job, s.jobStep inst job with
  | some j, some p =>
    let s1 := s.updJob inst job (fun j => { j with committed := j.committed + 1 })
    let s2 := forEach (fun (x : Tensor × SweepRes) s =>
      let f := ((s.adapterOf inst x.1.adapter).map Adapter.fmt).getD e4m3
      commitTensor inst f x.1 x.2 s) (pairTensors j.tensors j.sweep) (seedHistories inst p s1)
    s2.updStep inst p.tag (fun p => { p with at_ := .committing false })
  | _, _ => s

/-- The votes of a verdict are spent. -/
def clearVotes (inst job : Nat) (s : State) : State :=
  s.updJob inst job (fun j => { j with votes := [], contributed := false })

/-- SKIP: nothing of the committed state changes; pending clips are dropped; the gradient norms are still reported (R244, R248). -/
def skipJob (inst job : Nat) (byte : BitVec 8) (s : State) : State :=
  match s.jobOf inst job, s.jobStep inst job with
  | some j, some p =>
    let s0 := if byte.getLsbD 2 then raise inst 3 6 (job % 2 ^ 32) s else s
    let s1 := if j.sweep.isEmpty then s0 else hostWrite inst p.normAddr (normReport j p false) s0
    let s2 := (s1.updJob inst job (fun j => { j with sweep := [], pendClips := [] })).updInst inst (fun n => { n with stepClips := n.stepClips.filter (fun c => c.1 < 256) })
    let status := if p.failed then (match p.cause with | some w => statusOf w | none => St.failedDevice) else St.skipped
    endStep inst p.tag status (j.committed + byte.toNat <<< 64) s2
  | _, _ => s

/-- The sets that are queued or being written. -/
def Job.undelivered (j : Job) : Nat := match j.exp with | some e => e.queue.length | none => 0

/-- A SET that waited takes the place of the one before, which completes DONE unless its failure ended it already (R345). -/
def replaceExport (inst job : Nat) (s : State) : State :=
  match s.jobOf inst job with
  | none => s
  | some j =>
    match j.exp with
    | none => s
    | some e =>
      match e.next with
      | none => s
      | some n =>
        let e' : Option Export := if n.mode = 0 then none
          else some { spec := n, acked := j.committed, queue := e.queue, delivered := 0, stopped := false, next := none }
        let s1 := s.updJob inst job (fun j => { j with exp := e' })
        let s2 := if e.stopped then s1 else finish inst e.spec.tag St.done 0 s1
        if n.mode = 0 then finish inst n.tag St.done 0 s2 else s2

/-- An export fails: it stops, its SET ends with the status, and commits wait until software restarts it or turns it off (R252, R345). -/
def failExport (inst job status : Nat) (s : State) : State :=
  match (s.jobOf inst job).bind (·.exp) with
  | none => s
  | some e =>
    if e.stopped then s
    else
      let s1 : State := { s with rdmas := s.rdmas.filter (fun r => !(r.fn == inst && r.use == RdmaFor.recordSet job)) }
      let s2 := s1.updJob inst job (fun j => { j with exp := j.exp.map (fun e => { e with stopped := true }) })
      replaceExport inst job (finish inst e.spec.tag status 0 (raise inst 3 5 (job % 2 ^ 32) s2))

/-- A record set would read poison. -/
def recordPoison (inst mode : Nat) (j : Job) (s : State) : Bool :=
  let b := j.committed % 2
  j.tensors.any (fun t => (stateRead inst (t.master b) (t.msize * t.elems) s).2
    || (mode == 2 && ((stateRead inst (t.first b) (4 * t.elems) s).2 || (!t.sgd && (stateRead inst (t.second b) (4 * t.elems) s).2) || (stateRead inst t.state 192 s).2)))

/-- Step 5 of Table 9-5, unless the two-set window or a stopped export holds it (R252): clip counts, norm report, completion, record set. -/
def completeCommit (inst job : Nat) (s : State) : State :=
  match s.jobOf inst job, s.jobStep inst job with
  | some j, some p =>
    if (match j.exp with | some e => decide (e.queue.length ≥ 2) || e.stopped | none => false) then s
    else if (match j.exp with | some e => recordPoison inst e.spec.mode j s | none => false) then failExport inst job St.failedMemory s
    else
      let s1 := hostWrite inst p.normAddr (normReport j p true) s
      let s2 := match j.exp with
        | some e => s1.updJob inst job (fun j => { j with exp := some { e with queue := e.queue ++ [(j.committed, recordSet inst e.spec.mode j s1)] } })
        | none => s1
      let s3 := s2.updInst inst (fun n => { n with
        clips := (n.stepClips.filter (fun c => c.1 ≥ 256)).foldl (fun t c => Tbl.upd (0, 0) t (c.1 % 256) (fun v => (v.1 + c.2.1, v.2 + c.2.2))) n.clips,
        stepClips := n.stepClips.filter (fun c => c.1 < 256) })
      let s4 := s3.updJob inst job (fun j => { j with sweep := [], pendClips := [] })
      exportPump inst job (endStep inst p.tag St.done (j.committed + p.verdictByte.toNat <<< 64) s4)
  | _, _ => s

/-- The verdict of a step (R241, R243, R244). -/
def stepVerdict (inst job : Nat) (byte : BitVec 8) (s : State) : State :=
  match s.jobStep inst job with
  | none => clearVotes inst job s
  | some p =>
    let s1 := clearVotes inst job (s.updStep inst p.tag (fun p => { p with verdictByte := byte }))
    if byte = 0 then commitJob inst job s1 else skipJob inst job byte s1

/-! ## Re-shards (R293 to R297) -/

/-- A tensor's state as a re-shard carries it: master, moments, then header and history. -/
def stateBytes (inst : Nat) (t : Tensor) (b : Nat) (s : State) : Bytes × Bool :=
  let m := stateRead inst (t.master b) (t.msize * t.elems) s
  let m1 := stateRead inst (t.first b) (4 * t.elems) s
  let m2 := if t.sgd then ([], false) else stateRead inst (t.second b) (4 * t.elems) s
  let h := stateRead inst t.state 192 s
  (m.1 ++ m1.1 ++ m2.1 ++ h.1, m.2 || m1.2 || m2.2 || h.2)

/-- Bytes per element of a carried state. -/
def Tensor.width (t : Tensor) : Nat := t.msize + 4 + (if t.sgd then 0 else 4)

def Tensor.carried (t : Tensor) : Nat := t.width * t.elems + 192

/-- Write a carried state into a bank. -/
def putState (inst : Nat) (t : Tensor) (b : Nat) (bs : Bytes) (s : State) : State :=
  let n := t.elems
  let s1 := stateWrite inst (t.first b) (sub bs (t.msize * n) (4 * n)) (stateWrite inst (t.master b) (sub bs 0 (t.msize * n)) s)
  let s2 := if t.sgd then s1 else stateWrite inst (t.second b) (sub bs ((t.msize + 4) * n) (4 * n)) s1
  stateWrite inst t.state (sub bs (t.width * n) 192) s2

/-- Another open job keeps a state in a page. -/
def pageShared (s : State) (inst job la : Nat) : Bool :=
  (s.inst inst).jobs.any (fun j => j.id != job && j.tensors.any (fun t => decide (t.state < la + 65536) && decide (la < t.state + t.total)))

/-- A tensor's part of the page at `la` is zeroed; a page mapped for training alone is free (R294, R343). -/
def freeStatePage (inst job : Nat) (t : Tensor) (la : Nat) (s : State) : State :=
  let (key, e) := s.pageOf inst la
  if e.valid && e.training && !pageShared s inst job la then unmapPage key s
  else
    let lo := max la t.state
    let hi := min (la + 65536) (t.state + t.total)
    if e.valid && lo < hi then stateWrite inst lo (List.replicate (hi - lo) 0) s else s

/-- Addresses of the 64 KiB pages of a state. -/
def Tensor.pageAddrs (t : Tensor) : List Nat := (List.range (cdiv (t.state % 65536 + t.total) 65536)).map (fun k => (t.state / 65536 + k) * 65536)

def freeStates (inst job : Nat) (ts : List Tensor) (s : State) : State :=
  forEach (fun (t : Tensor) s => forEach (freeStatePage inst job t) t.pageAddrs s) ts s

/-- A job that goes ends its export: its SET, and one that waits, complete DONE (R343). -/
def endExport (inst : Nat) (j : Job) (s : State) : State :=
  match j.exp with
  | none => s
  | some x =>
    let s1 := if x.stopped then s else finish inst x.spec.tag St.done 0 s
    match x.next with | some n => finish inst n.tag St.done 0 s1 | none => s1

/-- KEEP: the new map takes effect, new states become bank N mod 2 and their working copies are converted; a device that the new map leaves out frees its states and leaves the job; the re-shard is done (Table 11-5). -/
def keepReshard (inst job : Nat) (r : Reshard) (s : State) : State :=
  match s.jobOf inst job with
  | none => s
  | some j =>
    if !(r.map.any (fun e => e.device == s.sys.devId.toNat)) then
      let s1 := endExport inst j s
      finish inst r.tag St.done 0 ((freeStates inst job j.tensors s1).updInst inst (fun n => { n with jobs := n.jobs.filter (fun x => x.id != job) }))
    else
      let s1 := forEach (fun i s => match j.tensors[i]? with
        | some t => (match r.states.find? (fun p => p.1 == i) with | some p => putState inst t (r.n % 2) p.2 s | none => s)
        | none => s) (List.range j.tensors.length) s
      let s2 := s1.updJob inst job (fun j => { j with map := r.map, committed := r.n, reshard := none, st := .jOpen, lost := [] })
      finish inst r.tag St.done 0 (if r.states.isEmpty then s2 else convertWorking inst job s2)

/-- The final verdict reaches this device (R241, R243, R244, R294, R295). -/
def applyVerdict (inst job : Nat) (byte : BitVec 8) (s : State) : State :=
  match s.jobOf inst job with
  | none => s
  | some j =>
    match j.reshard with
    | some r =>
      if r.waiting then stepVerdict inst job byte s
      else
        let s1 := clearVotes inst job s
        if byte = 0 then keepReshard inst job r s1
        else finish inst r.tag (if j.lostMember then St.timeoutFabric else St.failedMemory) 0
          (s1.updJob inst job (fun j => { j with reshard := none, st := if j.lost.isEmpty then .jOpen else .jLost }))
    | none => stepVerdict inst job byte s

/-- Return the result down the tree (R279). -/
def returnDown (inst : Nat) (j : Job) (byte : BitVec 8) (s : State) : State :=
  let i := j.self s
  forEach (fun c s => sendVerdict inst (j.devOf c) (verdictPayload j.id j.verdictNo i 1 byte []) s) (childrenOf i j.members.length) s

/-- Combine when every expected contribution is here: the root decides, another member passes it up (R279). -/
def tryVerdict (inst job : Nat) (s : State) : State :=
  match s.jobOf inst job with
  | none => s
  | some j =>
    let i := j.self s
    let need := i :: childrenOf i j.members.length
    if need.all (fun m => j.votes.any (fun v => v.member == m)) then
      let (byte, groups) := combine j.votes
      if i = 0 then applyVerdict inst job byte (returnDown inst j byte s)
      else sendVerdict inst (j.devOf (parentOf i)) (verdictPayload job j.verdictNo i 0 byte groups) s
    else s

/-- This device's contribution (R242). -/
def contribute (inst job : Nat) (byte : BitVec 8) (digest : BitVec 64) (s : State) : State :=
  match s.jobOf inst job with
  | none => s
  | some j =>
    let i := j.self s
    let g := (j.members.getD i { device := 0, flowBase := 0, group := 0 }).group
    if j.lostMember then applyVerdict inst job (byte ||| 8) s
    else tryVerdict inst job (s.updJob inst job (fun j => { j with
      votes := j.votes ++ [{ member := i, byte := byte, groups := [(g, digest)] }], contributed := true, contribAt := s.now.toNat }))

/-- The verdict byte of a step on this device (Table 9-4). -/
def Step.contribution (p : Step) : BitVec 8 :=
  BitVec.ofNat 8 (b2n p.nonfinite + 2 * b2n p.ledgerFlag + 8 * b2n p.failed)

/-! ### The permute of a re-shard (R294, R297) -/

/-- Digest of R240 over a job's states after a re-shard, the ledger buffer taken as zero; LR and GMUL, which a re-shard has not, as zero (log entry 32). -/
def reshardDigest (inst : Nat) (j : Job) (r : Reshard) (s : State) : BitVec 64 :=
  let body := (List.range j.tensors.length).flatMap (fun i => match j.tensors[i]? with
    | some t =>
      let st := match r.states.find? (fun p => p.1 == i) with | some p => p.2 | none => (stateBytes inst t (r.n % 2) s).1
      leBytes 1 (unsigned 8 t.eT) ++ List.replicate (16 * t.elems) 0 ++ st.take (t.width * t.elems)
    | none => [])
  BitVec.ofNat 64 (crc64 (leBytes 4 j.id ++ leBytes 8 r.n ++ List.replicate 8 0 ++ body))

/-- The command names the job's present map: the path that repairs poisoned copies (R238). -/
def Reshard.repairs (r : Reshard) (j : Job) : Bool := r.map == j.map && !r.fromSets

/-- Replica group of this device in the new map, else in the old one. -/
def Reshard.group (s : State) (r : Reshard) (j : Job) : Nat :=
  match (r.map ++ j.map).find? (fun e => e.device == s.sys.devId.toNat) with | some e => e.group | none => 0

/-- The old holders that send a group's states, in member order: survivors that stay, else the first that leaves (log entry 32). -/
def Reshard.sources (s : State) (r : Reshard) (j : Job) : List Nat :=
  let g := r.group s j
  let self := s.sys.devId.toNat
  let stay := ((r.map.filter (fun e => e.group == g)).map (·.device)).filter (fun d =>
    if r.takes || r.repairs j then d != self else j.map.any (fun e => e.device == d) && !j.lost.contains d)
  if !stay.isEmpty || r.takes then stay
  else (((j.map.filter (fun e => e.group == g)).map (·.device)).filter (fun d => !j.lost.contains d)).take 1

/-- The new holders of this device's group; under the present map every other holder. -/
def Reshard.receivers (s : State) (r : Reshard) (j : Job) : List Nat :=
  ((r.map.filter (fun e => e.group == r.group s j)).map (·.device)).filter (fun d =>
    d != s.sys.devId.toNat && (r.repairs j || !(j.map.any (fun e => e.device == d))))

/-- Elements [lo, hi) of source k of n. -/
def shareLo (e k n : Nat) : Nat := k * e / n

/-- Source k's part of one tensor: its range of each array, and with k = 0 the header and history. -/
def partOf (t : Tensor) (st : Bytes) (k n : Nat) : Bytes :=
  let e := t.elems
  let lo := shareLo e k n
  let c := shareLo e (k + 1) n - lo
  sub st (t.msize * lo) (t.msize * c) ++ sub st (t.msize * e + 4 * lo) (4 * c)
    ++ (if t.sgd then [] else sub st ((t.msize + 4) * e + 4 * lo) (4 * c)) ++ (if k = 0 then sub st (t.width * e) 192 else [])

def partLen (t : Tensor) (k n : Nat) : Nat := t.width * (shareLo t.elems (k + 1) n - shareLo t.elems k n) + (if k = 0 then 192 else 0)

def streamLen (ts : List Tensor) (k n : Nat) : Nat := (ts.map (fun t => partLen t k n)).foldl (· + ·) 0

/-- A tensor's state from the parts of its sources. -/
def joinParts (t : Tensor) (ps : List Bytes) : Bytes :=
  let n := ps.length
  let piece := fun (f : Nat → Nat → Bytes → Bytes) => (List.range n).flatMap (fun k => f (shareLo t.elems (k + 1) n - shareLo t.elems k n) k (ps.getD k []))
  piece (fun c _ p => sub p 0 (t.msize * c)) ++ piece (fun c _ p => sub p (t.msize * c) (4 * c))
    ++ (if t.sgd then [] else piece (fun c _ p => sub p ((t.msize + 4) * c) (4 * c))) ++ piece (fun c k p => if k = 0 then sub p (t.width * c) 192 else [])

/-- Cut the streams of all sources into states, tensor by tensor. -/
def joinStreams : List Tensor → Nat → List Bytes → Tbl Bytes
  | [], _, _ => []
  | t :: ts, i, ss =>
    let n := ss.length
    let cut := (List.range n).map (fun k => let p := ss.getD k []; (p.take (partLen t k n), p.drop (partLen t k n)))
    (i, joinParts t (cut.map (·.1))) :: joinStreams ts (i + 1) (cut.map (·.2))

def updReshard (inst job : Nat) (f : Reshard → Reshard) (s : State) : State := s.updJob inst job (fun j => { j with reshard := j.reshard.map f })

/-- This device's contribution to the verdict of a re-shard; a device that leaves has no digest to compare. -/
def contributeReshard (inst job : Nat) (failed : Bool) (s : State) : State :=
  match s.jobOf inst job with
  | none => s
  | some j =>
    match j.reshard with
    | none => s
    | some r =>
      if failed then contribute inst job 8 0 s
      else if r.map.any (fun e => e.device == s.sys.devId.toNat) then contribute inst job 0 (reshardDigest inst j r s) s
      else tryVerdict inst job (s.updJob inst job (fun j => { j with votes := j.votes ++ [{ member := j.self s, byte := 0, groups := [] }], contributed := true, contribAt := s.now.toNat }))

/-- The streams that a new holder needs are here: its states are made and its digest goes out. -/
def settleReshard (inst job : Nat) (s : State) : State :=
  match s.jobOf inst job with
  | none => s
  | some j =>
    match j.reshard with
    | none => s
    | some r =>
      let src := r.sources s j
      let whole := r.repairs j || src.isEmpty
      let streams : Option (List Bytes) :=
        if whole then (r.got.find? (fun p => decide (streamLen j.tensors 0 1 ≤ p.2.length))).map (fun p => [p.2])
        else if (List.range src.length).all (fun k => decide (streamLen j.tensors k src.length ≤ (Tbl.get [] r.got (src.getD k 0)).length))
          then some (src.map (fun d => Tbl.get [] r.got d)) else none
      match streams with
      | none => s
      | some ss => contributeReshard inst job false (updReshard inst job (fun r => { r with states := joinStreams j.tensors 0 ss }) s)

/-- The running re-shard that takes data from a device over a bubble flow: DATA frames of that flow carry it until what is due has come (log entry 32). -/
def reshardFrom (s : State) (inst dev : Nat) (bubble : Bool) : Option Nat :=
  ((s.inst inst).jobs.find? (fun j => match j.reshard with
    | some r => bubble && !r.waiting && r.takes && !r.fromSets && r.states.isEmpty && !j.contributed
        && ((r.sources s j).contains dev || (r.sources s j).isEmpty)
        && decide ((Tbl.get [] r.got dev).length < streamLen j.tensors (((r.sources s j).findIdx? (· == dev)).getD 0) (if r.repairs j then 1 else max 1 (r.sources s j).length))
    | none => false)).map (·.id)

def reshardData (inst job dev : Nat) (bs : Bytes) (s : State) : State :=
  settleReshard inst job (updReshard inst job (fun r => { r with got := Tbl.upd [] r.got dev (· ++ bs) }) s)

/-- Send this device's part to every new holder, over the job's bubble flow to it. Where the data waits in the receiver is not stated: the frames' CORE is free. -/
def sendStates (inst : Nat) (j : Job) (r : Reshard) (s : State) : State :=
  let src := r.sources s j
  let k := if r.repairs j then some 0 else src.findIdx? (· == s.sys.devId.toNat)
  let n := if r.repairs j then 1 else src.length
  match k with
  | none => s
  | some k =>
    let bs := j.tensors.flatMap (fun t => partOf t (stateBytes inst t (r.n % 2) s).1 k n)
    forEach (fun dev s => match bubbleFlowTo s inst dev with
      | some key => let (x, s1) := s.draw; pushFlow key (dataFrames (x.toNat % 4096) 0 false false false false false 0 bs) s1
      | none => s) (r.receivers s j) s

/-- A tensor's own copy is poisoned. -/
def statesBad (inst : Nat) (j : Job) (s : State) : Bool := j.tensors.any (fun t => (stateBytes inst t (j.committed % 2) s).2)

/-! ### FULL record sets (R253, R297) -/

/-- Record headers with their payloads. -/
def recordsIn : Nat → Bytes → List (Nat × Bytes)
  | 0, _ => []
  | n + 1, bs =>
    let h := num bs 0 64
    let len := nfld h 255 192
    (h, sub bs 64 len) :: recordsIn n (bs.drop (64 + len))

def recordArray (recs : List (Nat × Bytes)) (t : Tensor) (a : Nat) : Option Bytes :=
  (recs.find? (fun r => nfld r.1 31 0 == t.adapter && nfld r.1 47 32 == t.layer && nbit r.1 48 == t.kindB && nfld r.1 53 52 == a
    && nfld r.1 127 96 == t.off && nfld r.1 159 128 == t.len)).map (·.2)

/-- Coded blocks back into `n` bytes, or nothing where a check fails. -/
def blocksBytes (n : Nat) (pay : Bytes) : Option Bytes :=
  let (bl, left) := takeBlocks (pay.length / 8 + 1) pay
  let all := bl.flatMap (·.1)
  if left.isEmpty && bl.all (·.2) && decide (n ≤ all.length) then some (all.take n) else none

def tensorFromSet (recs : List (Nat × Bytes)) (t : Tensor) : Option Bytes :=
  let n := t.elems
  let get := fun (a k : Nat) => (recordArray recs t a).bind (blocksBytes (k * n))
  match get 0 t.msize, get 1 4, (if t.sgd then some [] else get 2 4), recordArray recs t 3 with
  | some m, some m1, some m2, some h => if h.length = 192 then some (m ++ m1 ++ m2 ++ h) else none
  | _, _, _, _ => none

/-- The states of a job in a FULL record set of step D, or nothing where its header, CRC or blocks fail. -/
def statesOfSet (j : Job) (d : Nat) (bs : Bytes) : Option (Tbl Bytes) :=
  let h := num bs 0 64
  let body := sub bs 64 (nfld h 191 128)
  if nfld h 31 0 = j.id && nfld h 95 32 = d && nfld h 193 192 = 2 && nfld h 255 224 = crc32c body then
    let recs := recordsIn (nfld h 127 96) body
    ((List.range j.tensors.length).mapM (fun i => (j.tensors[i]?).bind (fun t => (tensorFromSet recs t).map (fun x => (i, x)))))
  else none

/-- The record set is here; `again` where another fetch may help. -/
def takeSet (inst job : Nat) (bs : Bytes) (s : State) : State :=
  match s.jobOf inst job with
  | none => s
  | some j =>
    match j.reshard with
    | none => s
    | some r =>
      match statesOfSet j r.n bs with
      | some st => contributeReshard inst job false (updReshard inst job (fun r => { r with states := st }) s)
      | none => contributeReshard inst job true s

/-- A re-shard begins (Table 11-5): sources send, and every member that takes nothing contributes. -/
def startReshard (inst job : Nat) (s : State) : State :=
  match s.jobOf inst job with
  | none => s
  | some j =>
    match j.reshard with
    | none => s
    | some r =>
      if !r.waiting || (s.jobStep inst job).isSome then s
      else
        let here := r.map.any (fun e => e.device == s.sys.devId.toNat)
        let u := r.map ++ j.map.filter (fun e => !(r.map.any (fun x => x.device == e.device)) && !j.lost.contains e.device)
        let r1 := { r with waiting := false, union := u, takes := r.takes || (r.repairs j && statesBad inst j s) }
        let s1 := s.updJob inst job (fun j => { j with reshard := some r1, st := .jReshard, votes := [], contributed := false })
        if r.fromSets && here then
          match r.hostSet with
          | some bs => takeSet inst job bs s1
          | none => rdmaIssue inst r.handle false (.recordSets job 0) 0 [] 0 s1
        else if r1.takes then s1
        else contributeReshard inst job false (if r.fromSets then s1 else sendStates inst j r1 s1)

/-- Re-shards that waited for a step of their job begin as bubble work (R293, R294). -/
def startReshards (inst : Nat) (s : State) : State :=
  forEach (fun (j : Job) s => startReshard inst j.id s) (s.inst inst).jobs s

end Sys2Proof.Machine
end

