-- ==== Sys2Proof/Machine/Steps.lean ====
section
/-! DEFINITION. Exceptions of cores, the failing and stopping of steps, and the resets that several commands start (03_core_array R92, R93; 08_almanac R205, R206, R225; 14_isolation R363 to R366; 15_errors R408; 16_power_reset). -/

namespace Sys2Proof.Machine

/-! ## Cores stop -/

/-- A core stops issuing. Jobs handed over before `seq` go on; those of the faulting descriptor and later are discarded (R92). -/
def Work.stop (w : Work) (why : StopWhy) (seq : Nat) : Work :=
  { w with
    mode := .stopped why
    loadQ := w.loadQ.filter (fun j => decide (j.seq < seq))
    moveQ := w.moveQ.filter (fun j => decide (j.seq < seq) && !j.predicted)
    sendQ := w.sendQ.filter (fun j => decide (j.seq < seq))
    sigQ := w.sigQ.filter (fun j => decide (j.seq < seq))
    arrayQ := []
    preds := []
    epiQ := []
    runs := []
    prologue := none
    epilogue := none
    atts := [] }

def stopCore (core : Nat) (why : StopWhy) (seq : Nat) (s : State) : State := s.updWork core (fun w => w.stop why seq)

/-- Every core of a step stops where it stands (R206). -/
def stopCores (cores : List Nat) (why : StopWhy) (s : State) : State :=
  forEach (fun c s =>
    let w := s.work c
    match w.mode with
    | .stopped _ => s
    | _ => stopCore c why w.seq s) cores s

/-! ## Steps fail -/

/-- Claims and pins of a step end with it; nothing else holds them (R117). RESULT of a failed step as far as it is known (R338). -/
def Step.failResult (p : Step) (committed : Nat) : Nat :=
  if p.kind = 0 then p.begins else if p.kind = 1 then committed else 0

/-- The gap event of every real-time stage downstream is set, by a SIGNAL frame on the cut's flow (R291; log entry 17). -/
def setGap (inst : Nat) (s : State) : State :=
  forEach (fun p s => if p.2.fn == inst && !p.2.bubble && p.2.opened && !p.2.broken then pushFlow p.1 [({ typ := 1 }, [])] s else s) s.flowSrc s

/-- The step of a core ends with a failure (R30, R92, R206, R242): a serving or evaluation step completes at once; a fine-tuning step contributes FAILED to its verdict. -/
def failStep (inst tag : Nat) (why : StopWhy) (s : State) : State :=
  match s.stepOf inst tag with
  | none => s
  | some p =>
    if p.failed then s
    else
      let s1 := stopCores p.cores why (s.updStep inst tag (fun p => { p with failed := true, cause := some (p.cause.getD why) }))
      if p.kind = 1 then
        match p.at_ with
        | .committing _ => s1
        | .verdict => s1
        | _ => tryFail p s1
      else
        let s2 := endStep inst tag (statusOf (p.cause.getD why)) (p.failResult 0) s1
        if p.kind = 0 then setGap inst s2 else s2
where
  tryFail (p : Step) (s : State) : State :=
    match s.jobOf inst p.job with
    | none => endStep inst tag (statusOf (p.cause.getD why)) 0 s
    | some j =>
      let s1 := s.updStep inst tag (fun p => { p with at_ := .verdict })
      let i := j.self s1
      if j.lostMember then applyVerdict inst p.job 8 s1
      else tryVerdict inst p.job (s1.updJob inst p.job (fun j => { j with
        votes := j.votes ++ [{ member := i, byte := 8 ||| p.contribution, groups := [] }], contributed := true, contribAt := s.now.toNat }))

/-- Index of a descriptor in its task, for DESC_FAULT: its position is counted from the task's entry. -/
def descDetail (core idx : Nat) : Nat := core + (idx % 2 ^ 20) <<< 12

/-- Index within the task of the descriptor with a number: the next one to issue stands at position `pos`. -/
def Work.indexOf (w : Work) (seq : Nat) : Nat := w.pos / 16 - (w.seq - seq)

/-- An exception (R92): the cause is recorded, the core stops, the step fails. `seq` is the faulting descriptor's number. -/
def coreException (core : Nat) (g b detail : Nat) (why : StopWhy) (seq : Nat) (s : State) : State :=
  let inst := s.coreInst core
  let s1 := stopCore core why seq (raise inst g b detail s)
  match (s.work core).task with
  | some t => failStep t.fn t.tag why s1
  | none => s1

/-- A descriptor fault (R85). -/
def descFault (core : Nat) (s : State) : State :=
  let w := s.work core
  coreException core 1 0 (descDetail core (w.pos / 16)) .device w.seq s

/-- A ticket fault (R98). -/
def ticketFault (core ticket seq : Nat) (s : State) : State :=
  coreException core 1 1 (core + (ticket % 65536) <<< 12) .device seq s

/-- What the code of SRAM finds as a unit reads: a single-bit error is corrected and counted, a double-bit error poisons the word (R71). -/
def sramFound (core : Nat) (ws : List SramFind) (s : State) : State :=
  forEach (fun (w : SramFind) s =>
    if w.word ≥ 65536 then s
    else if w.double then s.updCore core (fun c => if c.poison.contains w.word then c else { c with poison := c.poison ++ [w.word] })
    else raise (s.coreInst core) 1 2 (core + w.word <<< 12) s) ws s

/-- Consumption of a poisoned SRAM word (R71): SRAM_POISON names the first one of the range that begins at `addr`. -/
def sramFault (core addr seq : Nat) (s : State) : State :=
  let first := ((s.core core).poison.filter (fun w => decide (addr / 8 ≤ w))).foldl (fun (m : Option Nat) w => some (min w (m.getD w))) none
  coreException core 1 3 (core + ((first.getD (addr / 8)) % 65536) <<< 12) .memory seq s

/-- A translation or protection fault (R155). -/
def translationFault (core page seq : Nat) (s : State) : State :=
  coreException core 0 6 (page % 2 ^ 32) .device seq s

/-! ## Stalls and generations -/

/-- A core's resources set to zero; the cell recorded for repair stays recorded (R70, R95). -/
def clearCore (core : Nat) (s : State) : State := s.updCore core (fun c => { badCell := c.badCell })

def clearCores (cores : List Nat) (s : State) : State := forEach clearCore cores s

/-- What the steps of a reset stall receive: a status each, or nothing (R205). -/
def endAllSteps (inst : Nat) (status : Option Nat) (s : State) : State :=
  match status with
  | some st => forEach (fun (p : Step) s => endStep inst p.tag st (p.failResult 0) s) (s.inst inst).steps s
  | none => s.updInst inst (fun n => { n with steps := [] })

/-- Commits cut by the reset between steps 1 and 4 are completed; a fine-tuning step before its verdict contributes FAILED (R246, R241). -/
def settleJobs (inst : Nat) (s : State) : State :=
  forEach (fun (p : Step) s =>
    if p.kind = 1 then
      match p.at_ with
      | .committing false => (convertWorking inst p.job s).updStep inst p.tag (fun p => { p with at_ := .committing true })
      | .committing true => s
      | .verdict => s
      | .bubble _ | .sweeping => failStep inst p.tag .device s
      | _ => s
    else s) (s.inst inst).steps s

/-- What a stall reset does to the stall itself (R70, R93, R225): buffered stores are discarded, cores cleared, objects renewed, collectives dropped. -/
def wipeStall (inst : Nat) (s : State) : State :=
  match s.stall inst with
  | none => s
  | some st =>
    let s1 := renewAll inst (clearCores st.cores s)
    ({ s1 with colls := s1.colls.filter (fun r => r.fn != inst) }).updStall inst (fun st => { st with inReset := true, suspended := false })

/-- A stall reset that the host starts, or one within a removal; `status` is what the outstanding steps receive (R205). -/
def resetStall (inst : Nat) (status : Option Nat) (s : State) : State :=
  match s.stall inst with
  | none => s
  | some _ => wipeStall inst (endAllSteps inst status (match status with | some _ => settleJobs inst s | none => s))

/-- What a step receives from a stall reset that recovery starts: a parked one ABORTED_RESET (R118), a waiting one nothing, since it stays in admission (R203), a committed one its own completion (R246), any other FAILED_DEVICE (R205, R206, R402). -/
def recoverStep (inst : Nat) (p : Step) (s : State) : State :=
  match p.at_ with
  | .queued => s
  | .parked => endStep inst p.tag St.abortedReset 0 s
  | .committing _ => s
  | _ => endStep inst p.tag St.failedDevice (p.failResult 0) s

/-- A stall reset that recovery starts, with its reason (Table 15-7, Table 15-5). -/
def recoverStall (inst why : Nat) (s : State) : State :=
  let s1 := settleJobs inst (raise inst 4 1 why s)
  wipeStall inst (forEach (recoverStep inst) (s1.inst inst).steps s1)

/-- State of an instance that still bears a generation (R366). -/
def State.stateOfGen (s : State) (inst gen : Nat) : Bool :=
  s.pages.any (fun p => p.1 / 2 ^ 33 == inst && p.2.valid && p.2.gen == gen)
  || s.sync.any (fun o => o.2.inst.toNat == inst && o.2.kind != 3 && o.2.gen.toNat == gen)
  || s.scrub.any (fun r => r.inst == inst && r.gen == gen)
  || s.flowSrc.any (fun f => f.2.fn == inst && f.2.gen == gen)
  || s.flowDst.any (fun f => f.2.fn == inst && f.2.gen == gen)
  || s.dmaReads.any (fun r => r.fn == inst && r.gen == gen)

/-- Pages of the old generation wait for tenant scrub (R391 step 5, R322 step 4); their re-keys end. -/
def queueScrub (inst : Nat) (s : State) : State :=
  let mine := s.pages.filter (fun p => p.1 / 2 ^ 33 == inst && p.2.valid)
  { s with pages := s.pages.filter (fun p => !(p.1 / 2 ^ 33 == inst)),
           scrub := s.scrub ++ (mine.filter (fun p => p.2.home != .store)).map (fun p => { set := p.2.set, frame := p.2.frame, count := p.2.frames, inst := inst, gen := p.2.gen }),
           rekeys := s.rekeys.filter (fun r => r.inst != inst),
           moves := s.moves.filter (fun m => m.inst != inst),
           acts := s.acts.filter (fun a => !(a.kind == .rk && a.res.contains (.epochsOf inst)) &&
             !(a.kind == .mv && a.res.any (fun r => match r with | .page k => k / 2 ^ 33 == inst | _ => false))) }

/-- A late event of an old generation is discarded and counted (R365), and counts for a removal in progress (Table 14-7). Kinds: 1 PCIe completion, 2 frame, 3 RDMA response, 4 signal, 5 NMU or migration result. -/
def lateDiscard (inst kind : Nat) (s : State) : State :=
  (raiseDevFor 14 0 (inst + kind <<< 8) inst s).updInst inst (fun n => { n with
    removal := n.removal.map (fun r => { r with dropped := r.dropped + 1 }) })

/-- Frames of an instance's flows that wait at output ports are discarded (R392). -/
def dropQueued (inst : Nat) (s : State) : State :=
  { s with ports := s.ports.map (fun p => (p.1, { p.2 with queue := p.2.queue.filter (fun t =>
      let h := Hdr.parse t.hdr
      !(h.vc != 0 && h.src == s.sys.devId.toNat && (s.src (flowKey h.dest h.flow)).fn == inst && (s.src (flowKey h.dest h.flow)).opened)) })) }

/-- Sync objects of a range are not declared. -/
def dropObjects (st : Stall) (s : State) : State :=
  { s with sync := s.sync.filter (fun o => !(decide (st.syncBase ≤ o.1) && decide (o.1 < st.syncBase + st.syncCount))) }

/-- Everything keyed to the old generation goes: flows, objects (no loaded image declares them, R225), collectives, queue pairs, image, almanac, adapters, jobs (R322, R364, R391). Destination entries stay until the removal ends, so that peers get ERR_GONE (R274, R322); requests to storage stay until they end (R392). -/
def dropKeyed (inst : Nat) (s0 : State) : State :=
  let s' := releaseRates inst (dropQueued inst s0)
  let s := match s'.stall inst with | some st => dropObjects st s' | none => s'
  let s1 := { s with
    flowSrc := s.flowSrc.filter (fun f => f.2.fn != inst)
    colls := s.colls.filter (fun r => r.fn != inst)
    qps := s.qps.filter (fun q => q.fn != inst)
    padded := s.padded.filter (fun p => p.2.1 != inst) }
  s1.updInst inst (fun n => { n with
    image := none, loading := none, almanac := none, nextAlmanac := none, steps := [], jobs := [], adapters := [],
    clips := [], stepClips := [], frozen := false, freezing := none })

/-- The generation rises by 1; keys, secrets, consents and sessions of the old one end, and a new root key is drawn (R363, R371, R372, R380). -/
def raiseGen (inst : Nat) (keepSecrets : Bool) (s : State) : State :=
  let (_, s1) := s.draw
  s1.updInst inst (fun n => { n with
    gen := n.gen + 1, rootKey := s.free, epoch := 1, nextMap := 0,
    debug := inst == 0, profile := inst == 0, sessions := [], raiseWaits := false,
    sealSecret := if keepSecrets then n.sealSecret else none, migKey := if keepSecrets then n.migKey else none })

/-- Raise a generation, or wait while state of the value to come still exists (R366). -/
def raiseOrWait (inst : Nat) (s : State) : State :=
  if s.stateOfGen inst (((s.inst inst).gen + 1).toNat) then s.updInst inst (fun n => { n with raiseWaits := true })
  else raiseGen inst false s

/-- LOSS for an instance's jobs goes to every other member (R275, R391 step 5): payload JOB_ID and the lost device (log entry 17). -/
def sendLoss (j : Job) (lost : Nat) (s : State) : State :=
  forEach (fun (e : MapEnt) s =>
    if e.device = s.sys.devId.toNat || e.device = lost then s
    else sendTo e.device { typ := 6, cls := 1 } (leBytes 4 j.id ++ leBytes 2 lost) s) j.map s

def sendAllLoss (inst : Nat) (s : State) : State :=
  forEach (fun (j : Job) s => sendLoss j s.sys.devId.toNat s) (s.inst inst).jobs s

/-- BAR0 and configuration registers of a function back at their reset values, rings disabled (R322 step 5). -/
def resetFn (fn : Nat) (s : State) : State := { s with fns := Tbl.set s.fns fn {} }

/-! ## The stall map and the real-time preload (R197, R220, R355) -/

def stallMapBytes (st : Stall) : Bytes := st.cores.flatMap (fun c => leBytes 2 c) ++ leBytes 2 st.syncBase

/-- Bytes of the relocated DATA that a preload record names. -/
def preloadBytes (im : Image) (r : Preload) : Bytes := sub im.data r.data r.len

def writePreload (st : Stall) (im : Image) (bubble : Bool) (r : Preload) (s : State) : State :=
  forEach (fun k s =>
    match st.coreAt (r.firstCore + k) with
    | some c => writeFor bubble c r.sram (preloadBytes im r) false s
    | none => s) (List.range r.cores) s

/-- Write the real-time area: the stall map where RT_KEEP is not 0, then the real-time preload records. -/
def writeArea (inst : Nat) (s : State) : State :=
  match s.stall inst, (s.inst inst).image with
  | some st, some im =>
    let s1 := if im.rtKeep = 0 then s else forEach (fun c s => sramWrite c im.stallMap (stallMapBytes st) s) st.cores s
    forEach (fun (r : Preload) s => if r.bubble then s else writePreload st im false r s) im.preloads s1
  | _, _ => s

/-! ## Service of groups, cancelling of work on heat and faults -/

/-- A group leaves service: its causes in the owner's and the device-wide tree (R95, R214, R403). -/
def groupOut (g why : Nat) (s : State) : State :=
  let owner := s.ownerOf g
  let s1 := s.updGroup g (fun x => { x with outOfService := true })
  let s2 := raiseDevFor 9 0 (g + why <<< 8) (owner.getD 0) s1
  match owner with
  | some i => if why = 1 then raise i 4 0 g s2 else raise i 4 2 g s2
  | none => s2

/-- Some group of a stall is out of service (R214). -/
def State.stallFaulted (s : State) (st : Stall) : Bool := st.groupList.any (fun g => (s.group g).outOfService)

/-- The heat level of a stall (R215): its groups' highest level, and at least 2 while a stack of its sets is at level 3. -/
def State.heat (s : State) (st : Stall) : Nat × Bool :=
  let g := st.groupList.foldl (fun m g => max m (s.group g).level) 0
  let hot := (bitsOf 12 st.fastMask).any (fun k => decide (Tbl.get 0 s.stackLevel k ≥ 3))
  (if hot then max g 2 else g, hot && decide (g < 2))

/-- HEAT follows a stall's heat level (Table 15-5). -/
def followHeat (inst : Nat) (s : State) : State :=
  match s.stall inst with
  | some st =>
    let (l, stack) := s.heat st
    setLive inst 5 0 (decide (l ≥ 1)) (min l 3 + 4 * b2n stack) inst s
  | none => setLive inst 5 0 false 0 inst s

def followAllHeat (s : State) : State := forEach (fun p s => followHeat p.1 s) s.insts s

/-- The highest level of a table and its lowest holder. -/
def hottest (n : Nat) (f : Nat → Nat) : Nat × Nat :=
  (List.range n).foldl (fun (acc : Nat × Nat) i => if f i > acc.2 then (i, f i) else acc) (0, 0)

/-- STACK_LEVEL and GROUP_LEVEL follow (Table 15-6). -/
def followLevels (s : State) : State :=
  let (k, kl) := hottest 12 (fun i => Tbl.get 0 s.stackLevel i)
  let (g, gl) := hottest 64 (fun i => (s.group i).level)
  setLive devTree 12 1 (decide (gl ≥ 1)) (g + gl <<< 8) ((s.ownerOf g).getD 0)
    (setLive devTree 12 0 (decide (kl ≥ 2)) (k + kl <<< 4) 0 s)

/-- Instances that exist as stalls or functions: every listed one. -/
def State.instNums (s : State) : List Nat := s.insts.map (·.1)

end Sys2Proof.Machine
end

