-- ==== Sys2Proof/Machine/Operands.lean ====
section
/-! DEFINITION. The operand forms of the core descriptors: their fields, and the faults a word shows by itself (03_core_array R85, Tables 3-5 to 3-11; 04_adapter_path R104). -/

namespace Sys2Proof.Machine

def aligned (n a : Nat) : Bool := a % n == 0

/-- No bit of a reserved mask is set. -/
def clearOf (d : Desc) (mask : Nat) : Bool := d.toNat &&& mask == 0

/-! ## LOAD_BLOCK (Table 3-5) -/

structure LoadD where
  fmt : Nat
  trans : Bool
  mx : Bool
  k32 : Bool
  addr : Nat
  stride : Nat
  scaleAddr : Nat
  tscale : Nat
deriving DecidableEq, Repr

def loadD (d : Desc) : LoadD :=
  { fmt := fld d 9 8, trans := bit d 10, mx := bit d 11, k32 := bit d 12, addr := fld d 34 16, stride := fld d 51 36,
    scaleAddr := fld d 82 64, tscale := fld d 90 83 }

/-- Bits of a weight code: FP8, FP8, FP4, BF16. -/
def weightBits (fmt : Nat) : Nat := if fmt = 2 then 4 else if fmt = 3 then 16 else 8

def weightFmt (fmt : Nat) : Fmt := if fmt = 0 then e4m3 else if fmt = 1 then e5m2 else if fmt = 2 then fp4 else bf16

def LoadD.kpass (l : LoadD) : Nat := if l.k32 then 32 else 16
/-- Stored rows and the elements of each (R82). -/
def LoadD.rows (l : LoadD) : Nat := if l.trans then 64 else l.kpass
def LoadD.cols (l : LoadD) : Nat := if l.trans then l.kpass else 64
def LoadD.rowBytes (l : LoadD) : Nat := l.cols * weightBits l.fmt / 8
def LoadD.step (l : LoadD) : Nat := if l.stride = 0 then l.rowBytes else l.stride
def LoadD.scaleBytes (l : LoadD) : Nat := if l.mx then (if l.trans then 2 * l.kpass else 64) else 0

def loadOk (d : Desc) : Bool :=
  let l := loadD d
  fld d 7 0 == 1 && clearOf d (maskOf 15 13 + maskOf 35 35 + maskOf 63 52 + maskOf 127 91)
  && (!l.mx || l.fmt != 3) && (!l.k32 || l.fmt == 2) && aligned 64 l.addr && aligned 8 l.stride
  && (l.stride == 0 || decide (l.stride ≥ l.rowBytes))
  && (l.mx || l.scaleAddr == 0) && (!(l.mx || l.fmt == 3) || l.tscale == 0)
  && decide (l.addr + (l.rows - 1) * l.step + l.rowBytes ≤ sramBytes) && decide (l.scaleAddr + l.scaleBytes ≤ sramBytes)

/-! ## PASS (Table 3-6) -/

structure PassD where
  new : Bool
  acc : Bool
  final : Bool
  tick : Bool
  afmt : Nat
  rows : Nat
  src : Nat
  srcRing : Nat
  accAddr : Nat
  accRing : Nat
  srcSync : Nat
  ascale : Nat
deriving DecidableEq, Repr

def passD (d : Desc) : PassD :=
  { new := bit d 8, acc := bit d 9, final := bit d 10, tick := bit d 11, afmt := fld d 13 12, rows := fld d 31 16, src := fld d 50 32,
    srcRing := fld d 58 51, accAddr := fld d 82 64, accRing := fld d 90 83, srcSync := fld d 104 91, ascale := fld d 123 105 }

/-- Faults of the PASS word alone. Source regions depend on the block and are checked when it is known. -/
def passOk (d : Desc) : Bool :=
  let p := passD d
  fld d 7 0 == 2 && clearOf d (maskOf 15 14 + maskOf 63 59 + maskOf 127 124)
  && p.rows != 0 && decide (p.srcRing ≤ 128) && aligned 256 p.accAddr && decide (p.accRing ≤ 128)
  && (p.accRing == 0 || (!p.acc && p.final)) && (p.srcRing != 0 || p.srcSync == 0) && (p.afmt == 2 || p.ascale == 0)
  && decide (p.accAddr + (if p.accRing = 0 then 256 * p.rows else 4096 * p.accRing) ≤ sramBytes)
  && aligned 8 p.src && (p.afmt != 2 || decide (p.ascale + p.rows ≤ sramBytes))

/-- K_pass of a block with an activation format, or none where they form no row of Table 3-3 (R74): K32 exactly when both are FP4. -/
def kpassOf (b : Block) (afmt : Nat) : Option Nat :=
  if b.fmt = 2 && afmt = 2 then (if b.k32 then some 32 else none) else if b.k32 then none else some 16

def actBits (afmt : Nat) : Nat := if afmt = 2 then 4 else if afmt = 3 then 16 else 8

def actFmt (afmt : Nat) : Fmt := if afmt = 0 then e4m3 else if afmt = 1 then e5m2 else if afmt = 2 then fp4 else bf16

def rowBytesOf (kpass afmt : Nat) : Nat := kpass * actBits afmt / 8

/-- Row period p: 2 steps when either operand is BF16 (R74). -/
def rowPeriod (b : Block) (afmt : Nat) : Nat := if b.fmt = 3 || afmt = 3 then 2 else 1

/-! ## SIDE (Table 3-7) -/

def rankOfCode (c : Nat) : Nat := 4 <<< c

def sideCfg (d : Desc) : SideCfg :=
  { phase := bit d 8, rank := fld d 11 9, sfmt := bit d 12, ledger := fld d 14 13 == 1, table := fld d 34 16, uAddr := fld d 53 35,
    rslice := fld d 65 64, eT := signed 8 (fld d 79 72) }

/-- Slices of a rank code: 1 for ranks 4 to 16, 2 and 4 for 32 and 64 (R108). -/
def slicesOf (code : Nat) : Nat := if code ≤ 2 then 1 else if code = 3 then 2 else 4

def sideOk (d : Desc) : Bool :=
  let c := sideCfg d
  fld d 7 0 == 3 && clearOf d (maskOf 15 15 + maskOf 63 54 + maskOf 71 66 + maskOf 127 80)
  && decide (c.rank ≤ 4) && decide (fld d 14 13 ≤ 1) && aligned 64 c.table && aligned 256 c.uAddr
  && decide (c.rslice < slicesOf c.rank) && (c.ledger || fld d 79 72 == 0) && !(c.phase && c.ledger)
  && decide (c.table + 64 ≤ sramBytes)

/-- The kind of a PASS with TICK = 1 under a SIDE (Table 4-4). -/
inductive PassKind where
  | main | side | phaseTwo
deriving DecidableEq, Repr

def SideCfg.kind (c : SideCfg) : PassKind := if c.phase then .phaseTwo else if c.rslice = 0 then .main else .side

/-- Whether a TICK PASS keeps to its column of Table 4-4, to R102 and to R234. -/
def tickOk (c : SideCfg) (p : PassD) : Bool :=
  p.accRing == 0 && (!c.ledger || p.afmt == 3) &&
  match c.kind with
  | .main => true
  | .side => !p.acc && !p.final
  | .phaseTwo => !p.new && p.acc && p.src == 0 && p.srcRing == 0 && p.afmt == 0 && p.ascale == 0

/-! ## TILEPROG (Table 3-8) -/

structure TileD where
  place : Nat
  wide : Bool
  prog : Nat
  args : Nat
  tiles : Nat
deriving DecidableEq, Repr

def tileD (d : Desc) : TileD := { place := fld d 9 8, wide := bit d 10, prog := fld d 34 16, args := fld d 53 35, tiles := fld d 79 64 }

def tileOk (d : Desc) : Bool :=
  let t := tileD d
  fld d 7 0 == 4 && clearOf d (maskOf 15 11 + maskOf 63 54 + maskOf 127 80)
  && aligned 64 t.prog && aligned 64 t.args
  && (if t.place = 2 then t.tiles != 0 else if t.place = 0 then true else t.tiles == 0)

/-! ## MOVE (Table 3-9) -/

structure MoveD where
  dir : Nat
  pred : Bool
  sig : Bool
  sram : Nat
  len : Nat
  mem : Nat
  sync : Nat
deriving DecidableEq, Repr

def moveD (d : Desc) : MoveD :=
  { dir := fld d 9 8, pred := bit d 10, sig := bit d 11, sram := fld d 34 16, len := fld d 63 40, mem := fld d 111 64, sync := fld d 125 112 }

def moveOk (d : Desc) : Bool :=
  let m := moveD d
  fld d 7 0 == 5 && clearOf d (maskOf 15 12 + maskOf 39 35 + maskOf 127 126)
  && decide (m.dir ≤ 2) && (!m.pred || (m.dir == 0 && !m.sig)) && aligned 64 m.sram
  && decide (64 ≤ m.len) && decide (m.len ≤ 524288) && aligned (if m.dir = 2 then 64 else 128) m.len
  && (m.sig || m.sync == 0) && decide (m.sram + m.len ≤ sramBytes)
  && (if m.dir = 2 then decide (m.mem < 2 ^ 19) && aligned 64 m.mem && decide (m.mem + m.len ≤ sramBytes) else aligned 128 m.mem)

/-! ## SEND (Table 3-10) -/

structure SendD where
  remote : Bool
  sig : Bool
  oper : Nat
  src : Nat
  len : Nat
  core : Nat
  flow : Nat
  dest : Nat
  sync : Nat
deriving DecidableEq, Repr

def sendD (d : Desc) : SendD :=
  { remote := bit d 8, sig := bit d 9, oper := fld d 11 10, src := fld d 34 16, len := fld d 63 40, core := fld d 75 64,
    flow := fld d 95 76, dest := fld d 108 96, sync := fld d 122 109 }

def sendOk (d : Desc) : Bool :=
  let m := sendD d
  fld d 7 0 == 6 && clearOf d (maskOf 15 12 + maskOf 39 35 + maskOf 127 123)
  && decide (m.oper ≤ 1) && aligned 64 m.src && decide (64 ≤ m.len) && decide (m.len ≤ 524288) && aligned 64 m.len
  && (m.remote || m.flow == 0) && (m.sig || m.sync == 0)
  && decide (m.src + m.len ≤ sramBytes) && decide (m.dest * 64 + m.len ≤ sramBytes)

/-! ## WAIT, SIGNAL, FENCE, SPILL, END (Table 3-11, R452) -/

def waitOk (d : Desc) : Bool := fld d 7 0 == 7 && clearOf d (maskOf 15 8 + maskOf 31 30 + maskOf 127 96)

def signalOk (d : Desc) : Bool :=
  fld d 7 0 == 8 && clearOf d (maskOf 15 10 + maskOf 31 30 + maskOf 127 64) && decide (fld d 9 8 ≤ 2)
  && (if fld d 9 8 = 0 then fld d 63 32 != 0 else fld d 63 32 == 0)

def fenceOk (d : Desc) : Bool := fld d 7 0 == 9 && clearOf d (maskOf 127 12) && fld d 11 8 != 0

structure SpillD where
  restore : Bool
  sig : Bool
  sram : Nat
  len : Nat
  offset : Nat
  sync : Nat
deriving DecidableEq, Repr

def spillD (d : Desc) : SpillD :=
  { restore := bit d 8, sig := bit d 9, sram := fld d 34 16, len := fld d 63 40, offset := fld d 95 64, sync := fld d 109 96 }

def spillOk (d : Desc) : Bool :=
  let m := spillD d
  fld d 7 0 == 10 && clearOf d (maskOf 15 10 + maskOf 39 35 + maskOf 127 110)
  && aligned 64 m.sram && decide (128 ≤ m.len) && decide (m.len ≤ 524288) && aligned 128 m.len && (m.sig || m.sync == 0)
  && decide (m.sram + m.len ≤ sramBytes)

def endOk (d : Desc) : Bool := d.toNat == 0x0B

/-! ## Issue -/

/-- The class of the task a core runs: bubble or real-time. -/
def State.coreBubble (s : State) (core : Nat) : Bool := match (s.work core).task with | some t => t.bubble | none => false

/-- A bubble descriptor may not write the reserved area (R220). -/
def State.areaHit (s : State) (core a n : Nat) : Bool := s.coreBubble core && decide (a + n > s.areaStart (s.coreInst core))

/-- A sync object a descriptor signals or waits on: of the stall, of the task's class, of a kind (R85, R227). -/
def State.coreObj (s : State) (core obj : Nat) (kind : BitVec 2) : Bool := s.usableObj (s.coreInst core) obj (s.coreBubble core) kind

/-- The sequencer has issued a descriptor: its position and number advance (R84). -/
def issued (core : Nat) (s : State) : State := s.updWork core (fun w => { w with pos := w.pos + 16, seq := w.seq + 1 })

/-- The sequencer of a core is ready to issue: it runs a task and holds on nothing, and its stall's bubble work is not suspended. -/
def State.mayIssue (s : State) (core : Nat) : Bool := (s.work core).mode == .running

/-- Issue a descriptor: a core that is not issuing does nothing; a word that faults raises a descriptor fault (R85); else the effect follows. -/
def issue (core : Nat) (ok : Bool) (effect : State → State) (s : State) : State :=
  if !s.mayIssue core then s else if !ok then descFault core s else effect s

end Sys2Proof.Machine
end

