-- ==== Sys2Proof/Machine/Transc.lean ====
section
/-! DEFINITION. The approximations of the vector engine (R133): EXP, EXP2, LOG, LOG2, TANH, SIGM, each the exact result rounded by `round_ta` to fp32s16 (Table 5-7). The exact result is bracketed in fixed point with `prec` fraction bits. DEDUCED, log entry 12. -/

namespace Sys2Proof.Machine

/-- Fraction bits of the fixed-point evaluation. -/
def prec : Nat := 320

/-- 1.0 in fixed point. -/
def fxOne : Int := (2 : Int) ^ prec

def fxMul (a b : Int) : Int := (a * b) >>> prec
def fxDiv (a b : Int) : Int := (a <<< prec) / b

/-- The value m × 2^e in fixed point. -/
def fxOf (neg : Bool) (m : Nat) (e : Int) : Int := sInt neg (shiftFloor m e (-(prec : Int)))

/-- Σ x^k ÷ k! by Horner's rule over `n` terms. -/
def fxExpSeries (x : Int) : Nat → Int → Int
  | 0, acc => acc
  | n + 1, acc => fxExpSeries x n (fxOne + fxMul x acc / ((n : Int) + 1))

/-- Σ z^(2k+1) ÷ (2k+1), the atanh series, over `n` terms. -/
def fxAtanh (z : Int) (n : Nat) : Int :=
  let z2 := fxMul z z
  fxMul z ((List.range n).reverse.foldl (fun (acc : Int) (k : Nat) => fxOne / (2 * (k : Int) + 1) + fxMul z2 acc) 0)

/-- ln 2 = 2 atanh(1/3). -/
def fxLn2 : Int := 2 * fxAtanh (fxOne / 3) 110

/-- e^r for |r| ≤ 1. -/
def fxExpSmall (r : Int) : Int := fxExpSeries r 80 fxOne

/-- e^x as (mantissa in fixed point, power of two): the mantissa lies near 1. -/
def fxExp (x : Int) : Int × Int :=
  let n := (x + fxLn2 / 2) / fxLn2
  (fxExpSmall (x - n * fxLn2), n)

/-- ln of m × 2^e, in fixed point. -/
def fxLog (m : Nat) (e : Int) : Int :=
  let l := ilog m e
  let y := fxOf false m (e - l)
  l * fxLn2 + 2 * fxAtanh (fxDiv (y - fxOne) (y + fxOne)) 110

/-- Round a fixed-point value times 2^k into fp32s16, widened to an FP32 code (R133). -/
def roundFx (v k : Int) : Conv :=
  let m := v.natAbs
  let e := k - prec
  let c := if m = 0 then ⟨0, false, false⟩ else roundBy fp32s16 (decide (v < 0)) (shiftFloor m e) (ilog m e)
  { c with code := c.code * 128 }

inductive Approx where
  | exp | exp2 | log | log2 | tanh | sigm
deriving DecidableEq, Repr

def canonNaN : Conv := ⟨0x7FC00000, false, true⟩
def plusInf : Conv := ⟨0x7F800000, false, true⟩
def minusInf : Conv := ⟨0xFF800000, false, true⟩

/-- Beyond this magnitude EXP overflows or rounds to zero, and TANH and SIGM are at their limits. -/
def isHuge (m : Nat) (e : Int) : Bool := m != 0 && decide (ilog m e ≥ 9)

/-- One approximation, with the special cases of Table 5-8 (a NaN gives a NaN, R41). -/
def approx (op : Approx) (x : Num) : Conv :=
  match x with
  | .nan => canonNaN
  | .inf neg =>
    match op with
    | .exp | .exp2 => if neg then ⟨0, false, false⟩ else plusInf
    | .log | .log2 => if neg then canonNaN else plusInf
    | .tanh => if neg then ⟨0xBF800000, false, false⟩ else ⟨0x3F800000, false, false⟩
    | .sigm => if neg then ⟨0, false, false⟩ else ⟨0x3F800000, false, false⟩
  | .fin neg m e =>
    let v := fxOf neg m e
    match op with
    | .exp => if isHuge m e then (if neg then ⟨0, false, false⟩ else plusInf)
        else let (a, k) := fxExp v; roundFx a k
    | .exp2 => if isHuge m e then (if neg then ⟨0, false, false⟩ else plusInf)
        else
          let n := v >>> prec
          roundFx (fxExpSmall (fxMul (v - (n <<< prec)) fxLn2)) n
    | .log => if m = 0 then minusInf else if neg then canonNaN else roundFx (fxLog m e) 0
    | .log2 => if m = 0 then minusInf else if neg then canonNaN
        else if m = 2 ^ m.log2 then roundFx (ilog m e <<< prec) 0
        else roundFx (fxDiv (fxLog m e) fxLn2) 0
    | .tanh => if m = 0 then ⟨signBit fp32 neg, false, false⟩
        else if isHuge m e then ⟨signBit fp32 neg + 0x3F800000, false, false⟩
        else if ilog m e < -40 then
          -- tanh x lies below |x| by less than 2^-40 of it
          let c := convert fp32s16 (.fin neg (m <<< 40 - 1) (e - 40)); { c with code := c.code * 128 }
        else
          let (a, k) := fxExp (2 * fxOf false m e)
          let y := a <<< k.toNat
          let t := fxDiv (y - fxOne) (y + fxOne)
          roundFx (if neg then -t else t) 0
    | .sigm => if isHuge m e then (if neg then ⟨0, false, false⟩ else ⟨0x3F800000, false, false⟩)
        else
          let (a, k) := fxExp (-(fxOf false m e))
          -- s = e^-|x| = a × 2^k; SIGM is 1 ÷ (1 + s) for x ≥ 0 and s ÷ (1 + s) for x < 0
          let s := a >>> (-k).toNat
          if neg then roundFx (fxDiv a (fxOne + s)) k else roundFx (fxDiv fxOne (fxOne + s)) 0

end Sys2Proof.Machine
end

