-- ==== Sys2Proof/Machine/Tile.lean ====
section
/-! DEFINITION. Tile programs as data: argument blocks, streams, instruction words, the checks of R130, and the value an instruction gives in each lane (05_tile_programs R129 to R146). -/

namespace Sys2Proof.Machine

/-! ## Argument blocks (Tables 5-2 to 5-5) -/

structure ArgHdr where
  nextra : Nat
  pfmt : Bool
  statfmt : Bool
  rsOn : Bool
  cnt : Nat
  rowscale : Nat
  lastRows : Nat
deriving DecidableEq, Repr

def argBytes : Nat := 384

def argHdr (args : Bytes) : ArgHdr :=
  let w := num args 0 16
  { nextra := nfld w 1 0, pfmt := nbit w 2, statfmt := nbit w 3, rsOn := nbit w 4, cnt := nfld w 15 8, rowscale := nfld w 34 16, lastRows := nfld w 42 36 }

structure StreamD where
  addr : Nat
  fmt : Nat
  kind : Nat
  out : Bool
  maxw : Bool
  scl : Bool
  k32 : Bool
  rowStride : Nat
  tileStride : Nat
  saddr : Nat
  sync : Nat
  ring : Nat
  pstride : Nat
deriving DecidableEq, Repr

def streamWord (args : Bytes) (i : Nat) : Nat := num args (16 + 16 * i) 16

def streamD (args : Bytes) (i : Nat) : StreamD :=
  let w := streamWord args i
  { addr := nfld w 18 0, fmt := nfld w 21 19, kind := nfld w 23 22, out := nbit w 24, maxw := nbit w 25, scl := nbit w 26, k32 := nbit w 27,
    rowStride := nfld w 47 32, tileStride := nfld w 63 48, saddr := nfld w 82 64, sync := nfld w 96 83, ring := nfld w 103 97, pstride := nfld w 122 104 }

structure SendEnt where
  remote : Bool
  sig : Bool
  core : Nat
  flow : Nat
  dest : Nat
  sync : Nat
deriving DecidableEq, Repr

def sendWord (args : Bytes) (i : Nat) : Nat := num args (96 + 16 * i) 16

def sendEnt (args : Bytes) (i : Nat) : SendEnt :=
  let w := sendWord args i
  { remote := nbit w 8, sig := nbit w 9, core := nfld w 27 16, flow := nfld w 47 28, dest := nfld w 60 48, sync := nfld w 74 61 }

/-- Constant `i` of the argument block. -/
def constOf (args : Bytes) (i : Nat) : BitVec 32 := BitVec.ofNat 32 (num args (128 + 4 * i) 4)

/-- Numbers of the streams a program uses. -/
def usedStreams (args : Bytes) : List Nat := List.range (2 + (argHdr args).nextra)

def streamFmt (code : Nat) : Fmt :=
  if code = 0 then fp32 else if code = 1 then bf16 else if code = 2 then e4m3 else if code = 3 then e5m2 else fp4

/-! ## Instruction words (Tables 5-6 and 5-7) -/

structure TIns where
  opc : Nat
  d : Nat := 0
  a : Nat := 0
  b : Nat := 0
  c : Nat := 0
  m : Nat := 0
deriving DecidableEq, Repr

def tIns (w : BitVec 32) : TIns :=
  { opc := fld w 31 26, d := fld w 25 21, a := fld w 20 16, b := fld w 15 11, c := fld w 10 6, m := fld w 5 0 }

/-- What the modifier of an instruction names. -/
inductive MUse where
  | none | const | lds | sts | tree | flag | cvt | scale | send
deriving DecidableEq, Repr

/-- The fields an instruction uses, and the sections that allow it. -/
structure OpForm where
  d : Bool := false
  a : Bool := false
  b : Bool := false
  c : Bool := false
  m : MUse := .none
  row : Bool := true
  tail : Bool := true
deriving DecidableEq, Repr

def unary : OpForm := { d := true, a := true }
def binary : OpForm := { d := true, a := true, b := true }
def ternary : OpForm := { d := true, a := true, b := true, c := true }

/-- Table 5-7 by opcode: nothing for an undefined opcode. -/
def opForm (opc : Nat) : Option OpForm :=
  match opc with
  | 0x01 => some unary
  | 0x02 => some { d := true, m := .const }
  | 0x03 => some { d := true, m := .lds, tail := false }
  | 0x04 => some { a := true, m := .sts }
  | 0x05 => some { d := true }
  | 0x06 => some { d := true, tail := false }
  | 0x08 | 0x09 | 0x0A | 0x0C | 0x0D | 0x10 | 0x12 | 0x13 | 0x14 => some binary
  | 0x0B | 0x15 => some ternary
  | 0x0E | 0x0F | 0x11 | 0x16 => some unary
  | 0x18 | 0x19 | 0x1A | 0x1B | 0x1C | 0x1D | 0x1E | 0x1F | 0x20 => some unary
  | 0x23 | 0x25 | 0x26 => some unary
  | 0x24 | 0x27 => some { d := true, a := true, m := .flag }
  | 0x28 | 0x29 => some { a := true, m := .tree, tail := false }
  | 0x2A => some { d := true, m := .tree, row := false }
  | 0x2C => some { d := true, a := true, m := .cvt }
  | 0x2D => some { d := true, a := true, m := .scale, tail := false }
  | 0x2E => some { d := true, a := true, tail := false }
  | 0x30 => some { m := .send, row := false }
  | _ => none

/-- The modifier names something that exists (R130). -/
def mOk (args : Bytes) (u : MUse) (m : Nat) (tail : Bool) : Bool :=
  let top := 1 + (argHdr args).nextra
  match u with
  | .none => m == 0
  | .const => true
  | .lds => decide (m ≤ top) && !(streamD args m).out
  | .sts => decide (m ≤ top) && (streamD args m).out && (((streamD args m).kind == 2) == tail)
  | .tree => decide (m ≤ 3)
  | .flag => decide (m ≤ 1)
  | .cvt => decide (m ≤ 3)
  | .scale => m == 1 || m == 2
  | .send => decide (m < 16) && decide (m % 8 ≤ top)

/-- One instruction by itself: opcode, unused fields zero, section, modifier (R130, R131). -/
def insOk (args : Bytes) (tail : Bool) (i : TIns) : Bool :=
  match opForm i.opc with
  | none => false
  | some f => (f.d || i.d == 0) && (f.a || i.a == 0) && (f.b || i.b == 0) && (f.c || i.c == 0)
      && (if tail then f.tail else f.row) && mOk args f.m i.m tail

/-! ## The checks of R130 -/

/-- A stream descriptor keeps to Table 5-4. -/
def streamOk (args : Bytes) (i : Nat) : Bool :=
  let w := streamWord args i
  let t := streamD args i
  let narrow := t.fmt == 2 || t.fmt == 3 || t.fmt == 4
  nfld w 31 28 == 0 && nfld w 127 123 == 0 && decide (t.fmt ≤ 4) && decide (t.kind ≤ 2) && aligned 64 t.addr
  && (decide (i ≥ 2) || t.kind == 0)
  && (!t.maxw || (t.out && t.kind == 1)) && (!t.scl || (narrow && t.kind == 0)) && (t.scl || t.saddr == 0)
  && (!t.k32 || (t.out && t.fmt == 4 && t.kind == 0 && t.pstride != 0)) && (t.pstride == 0 || (t.out && t.kind == 0))

def sendEntOk (args : Bytes) (i : Nat) : Bool :=
  let w := sendWord args i
  let e := sendEnt args i
  nfld w 7 0 == 0 && nfld w 15 10 == 0 && nfld w 127 75 == 0 && (e.remote || e.flow == 0) && (e.sig || e.sync == 0)

/-- Whether LASTROWS has a meaning, by WHERE and TILES (Table 5-3). -/
def lastRowsOk (place : Option Nat) (tiles n : Nat) : Bool :=
  match place with
  | none => decide (n ≤ 64)
  | some 2 => decide (1 ≤ n) && decide (n ≤ 64)
  | some 0 => if tiles = 0 then n == 0 else decide (1 ≤ n) && decide (n ≤ 64)
  | some _ => n == 0

/-- Header, streams and send entries of an argument block. `place` is WHERE, or nothing at image load, where it is not yet known. -/
def argsOk (place : Option Nat) (tiles : Nat) (args : Bytes) : Bool :=
  let w := num args 0 16
  let h := argHdr args
  nfld w 7 5 == 0 && nfld w 35 35 == 0 && nfld w 127 43 == 0 && (h.rsOn || h.rowscale == 0)
  && lastRowsOk place tiles h.lastRows
  && (usedStreams args).all (fun i => if i = 0 && place = some 1 then streamWord args 0 == 0 else streamOk args i)
  && sendEntOk args 0 && sendEntOk args 1 && (place != some 0 || (streamD args 0).sync != 0)

/-- No tree is used by both kinds or touched twice in the row section. -/
def treesOk (row : List TIns) : Bool :=
  (List.range 4).all (fun t => decide ((row.filter (fun i => (i.opc == 0x28 || i.opc == 0x29) && i.m == t)).length ≤ 1))

/-- No STS to an FP8 stream with SCL after a BSCALE, with no RSCALE between them (R139). -/
def scaleOrderOk (args : Bytes) : Bool → List TIns → Bool
  | _, [] => true
  | blocks, i :: is =>
    let t := streamD args i.m
    if i.opc = 0x2D then scaleOrderOk args false is
    else if i.opc = 0x2E then scaleOrderOk args true is
    else !(blocks && i.opc == 0x04 && t.scl && (t.fmt == 2 || t.fmt == 3)) && scaleOrderOk args blocks is

/-- Every check of R130 on a program and its argument block. -/
def progOk (place : Option Nat) (tiles : Nat) (instrs : List (BitVec 32)) (tail : Nat) (args : Bytes) : Bool :=
  let is := instrs.map tIns
  decide (1 ≤ instrs.length) && decide (instrs.length ≤ 256) && decide (tail ≤ instrs.length)
  && argsOk place tiles args && (is.take tail).all (insOk args false) && (is.drop tail).all (insOk args true)
  && treesOk (is.take tail) && scaleOrderOk args false (is.take tail)

/-- COUNT, TAIL and the reserved bits of a program header (Table 5-1). -/
def progHdr (w : Nat) : Option (Nat × Nat) :=
  let n := nfld w 8 0
  let t := nfld w 24 16
  if nfld w 15 9 = 0 && nfld w 127 25 = 0 && 1 ≤ n && n ≤ 256 && t ≤ n then some (n, t) else none

/-! ## Lanes -/

abbrev Lanes := List (BitVec 32)

def zeroLanes : Lanes := List.replicate 64 0

/-- Every NaN the device produces is canonical (R41). -/
def canon32 (c : BitVec 32) : BitVec 32 := if f32 c = .nan then nan32 else c

def boolLane (b : Bool) : BitVec 32 := if b then one32 else 0

/-- Lesser or greater of two values, −0 below +0; a NaN gives a NaN. -/
def lessOrGreater (greater : Bool) (x y : BitVec 32) : BitVec 32 :=
  if f32 x = .nan || f32 y = .nan then nan32
  else if Num.lt (f32 x) (f32 y) then (if greater then y else x)
  else if Num.lt (f32 y) (f32 x) then (if greater then x else y)
  else if x.msb == greater then y else x

/-- floor of an FP32 value. −0 stays −0; a value between −1 and 0 gives −1. -/
def floorNum : Num → Num
  | .fin s m e =>
    if 0 ≤ e then .fin s m e
    else
      let f := m >>> (-e).toNat
      let exact := f <<< (-e).toNat == m
      if m = 0 then .fin s 0 0 else .fin s (if s && !exact then f + 1 else f) 0
  | x => x

/-- The integer floor(B) of SCALE, held within ±400, beyond which no result differs. -/
def floorInt : Num → Int
  | .fin s m e =>
    match floorNum (.fin s m e) with
    | .fin s m e => if ilog (max m 1) e > 10 then (if s then -400 else 400) else sInt s (shiftFloor m e 0)
    | _ => 0
  | _ => 0

def scaleOp (a b : BitVec 32) : BitVec 32 :=
  if (f32 b).isFin then toF32 ((f32 a).pow2 (floorInt (f32 b))) else nan32

def approxOp (op : Approx) (a : BitVec 32) : BitVec 32 := BitVec.ofNat 32 (approx op (f32 a)).code

/-- A unary operation on one lane (Tables 5-7 and 5-8). -/
def op1 (opc : Nat) (a : BitVec 32) : BitVec 32 :=
  match opc with
  | 0x0E => a &&& 0x7FFFFFFF
  | 0x0F => a ^^^ 0x80000000
  | 0x11 => toF32 (floorNum (f32 a))
  | 0x16 => boolLane (isFin32 a)
  | 0x18 => BitVec.ofNat 32 (divConv fp32 (.fin false 1 0) (f32 a)).code
  | 0x19 => BitVec.ofNat 32 (sqrtConv fp32 (f32 a)).code
  | 0x1A => BitVec.ofNat 32 (rsqrtConv fp32 (f32 a)).code
  | 0x1B => approxOp .exp a
  | 0x1C => approxOp .exp2 a
  | 0x1D => approxOp .log a
  | 0x1E => approxOp .log2 a
  | 0x1F => approxOp .tanh a
  | 0x20 => approxOp .sigm a
  | _ => a

/-- A binary operation on one lane. -/
def op2 (opc : Nat) (a b : BitVec 32) : BitVec 32 :=
  match opc with
  | 0x08 => toF32 (Num.add (f32 a) (f32 b))
  | 0x09 => toF32 (Num.add (f32 a) (f32 b).neg)
  | 0x0A => toF32 (Num.mul (f32 a) (f32 b))
  | 0x0C => lessOrGreater false a b
  | 0x0D => lessOrGreater true a b
  | 0x10 => scaleOp a b
  | 0x12 => boolLane (Num.lt (f32 a) (f32 b))
  | 0x13 => boolLane (Num.lt (f32 a) (f32 b) || Num.eq (f32 a) (f32 b))
  | 0x14 => boolLane (Num.eq (f32 a) (f32 b))
  | _ => a

/-- A ternary operation on one lane: FMA rounds once; SEL takes A where C is not a zero. -/
def op3 (opc : Nat) (a b c : BitVec 32) : BitVec 32 :=
  if opc = 0x0B then toF32 (Num.add (Num.mul (f32 a) (f32 b)) (f32 c))
  else if (f32 c).isZero then b else a

/-! ## Reductions (R143) -/

/-- One level of the pairwise tree; nothing marks an absent leaf. -/
def treeLevel {α : Type} (f : α → α → α) : List (Option α) → List (Option α)
  | a :: b :: t =>
    (match a, b with
     | some x, some y => some (f x y)
     | none, y => y
     | x, none => x) :: treeLevel f t
  | l => l

/-- The root over 64 positions: six levels. -/
def treeRoot {α : Type} (f : α → α → α) (l : List (Option α)) : Option α :=
  ((treeLevel f (treeLevel f (treeLevel f (treeLevel f (treeLevel f (treeLevel f l)))))).head?).join

def addLanes (x y : BitVec 32) : BitVec 32 := toF32 (Num.add (f32 x) (f32 y))

/-- The value that a row reduction puts into every lane. `stat`: leaves are first rounded to BF16 (R146). -/
def reduceRow (opc : Nat) (stat : Bool) (a : Lanes) : BitVec 32 :=
  let leaf := fun (x : BitVec 32) => if stat then toF32 (decode bf16 (convert bf16 (f32 x)).code) else x
  match opc with
  | 0x23 => (a.filter isFin32).foldl (fun m x => lessOrGreater true m (x &&& 0x7FFFFFFF)) 0
  | 0x24 => (treeRoot addLanes (a.map (fun x => some (leaf x)))).getD 0
  | 0x27 => (treeRoot addLanes (a.map (fun x => some (toF32 (Num.mul (f32 (leaf x)) (f32 (leaf x))))))).getD 0
  | 0x25 => (treeRoot (lessOrGreater true) (a.map some)).getD 0
  | _ => (treeRoot (lessOrGreater false) (a.map some)).getD 0

/-- CGET: the root of a column tree in each lane, +0 where it has no leaf. -/
def columnRoot (isMax : Bool) (leaves : Tbl Lanes) : Lanes :=
  (List.range 64).map (fun j =>
    (treeRoot (if isMax then lessOrGreater true else addLanes)
      ((List.range 64).map (fun r => (leaves.find? (fun p => p.1 == r)).map (fun p => p.2.getD j 0)))).getD 0)

/-! ## Stream elements (R136 to R138) -/

/-- Elements of a packed byte string, lowest bits first. -/
def unpackElems (bits n : Nat) (bs : Bytes) : List Nat :=
  (List.range n).map (fun i => if bits = 4 then nfld (bs.getD (i / 2) 0).toNat (4 * (i % 2) + 3) (4 * (i % 2)) else num bs (i * (bits / 8)) (bits / 8))

def laneBytes (fmt : Nat) : Nat := 64 * (streamFmt fmt).bits / 8

/-- Run tile `t` begins here (R136). -/
def StreamD.tile (t : StreamD) (n : Nat) : Nat := t.addr + (if t.ring = 0 then n else n % t.ring) * t.tileStride * 16

/-- Bytes of one row, one value or one record of a stream. -/
def StreamD.width (t : StreamD) : Nat := if t.kind = 1 then max 1 ((streamFmt t.fmt).bits / 8) else laneBytes t.fmt

/-- Row `n` of run tile `k`. A column stream has one record for each tile. -/
def StreamD.row (t : StreamD) (k n : Nat) : Nat := if t.kind = 2 then t.tile k else t.tile k + n * t.rowStride

/-- Lanes of a piece: K_pass of the layer that reads the stream (R138). -/
def StreamD.pieceLanes (t : StreamD) : Nat := if t.fmt = 4 && t.k32 then 32 else 16

/-- Address and number of lanes of each piece of a row. -/
def StreamD.pieces (t : StreamD) (k n : Nat) : List (Nat × Nat × Nat) :=
  if t.pstride = 0 then [(t.row k n, 0, 64)]
  else (List.range (64 / t.pieceLanes)).map (fun j => (t.tile k + j * t.pstride + n * t.rowStride, j * t.pieceLanes, t.pieceLanes))

/-- Where the scale codes of run row `q` lie: address and MX block of each (R138). -/
def StreamD.codes (t : StreamD) (q : Nat) : List (Nat × Nat) :=
  if !t.scl then []
  else if t.fmt = 4 then
    (if t.pstride = 0 then [(t.saddr + 2 * q, 0), (t.saddr + 2 * q + 1, 1)]
     else (List.range (64 / t.pieceLanes)).map (fun j => (t.saddr + j * (t.pstride / 16) + q, if t.pieceLanes = 32 then j else j / 2)))
  else [(t.saddr + q, 0)]

/-- Byte ranges an LDS of a stream reads. -/
def StreamD.reads (t : StreamD) (k n q : Nat) : List (Nat × Nat) := (t.row k n, t.width) :: (t.codes q).map (fun c => (c.1, 1))

/-- Byte ranges an STS to a stream writes. -/
def StreamD.writes (t : StreamD) (k n q : Nat) : List (Nat × Nat) :=
  (if t.kind = 0 then (t.pieces k n).map (fun p => (p.1, p.2.2 * (streamFmt t.fmt).bits / 8)) else [(t.row k n, t.width)])
  ++ (t.codes q).map (fun c => (c.1, 1))

/-- The scale code of MX block `b` that the latch gives (R139). -/
def Latch.code (l : Latch) (b : Nat) : Nat :=
  match l with
  | .none => 127
  | .row c => c
  | .blocks c0 c1 => if b = 0 then c0 else c1

/-- A block of a row that holds a lane that is not finite. -/
def blockBad (a : Lanes) (b : Nat) : Bool := ((a.drop (32 * b)).take 32).any (fun x => !isFin32 x)

/-- The code an STS writes for block `b` of an FP4 row, or for the row of an FP8 stream. -/
def stsCode (fmt : Nat) (l : Latch) (a : Lanes) (b : Nat) : Nat := if fmt = 4 && blockBad a b then 0xFF else l.code b

end Sys2Proof.Machine
end

