-- ==== Sys2Proof/Machine/Engine.lean ====
section
/-! DEFINITION. The vector engine at work: one instruction, one row, one tile, and the rows of the table that are single tile instructions (05_tile_programs R121 to R148). -/

namespace Sys2Proof.Machine

/-! ## Faults and signals of a core's units -/

/-- A descriptor fault of the descriptor with a number, found after its issue (R85). -/
def descFaultAt (core seq : Nat) (s : State) : State := coreException core 1 0 (descDetail core ((s.work core).indexOf seq)) .device seq s

def State.coreStopped (s : State) (core : Nat) : Bool := match (s.work core).mode with | .stopped _ => true | _ => false

/-- A unit of a core adds to a counting object; a saturated addition fails the core's step (R222). -/
def coreAdd (core obj n : Nat) (s : State) : State :=
  let (s1, sat) := addObj (s.coreInst core) obj n s
  match (s.work core).task with
  | some t => if sat then failStep t.fn t.tag .device s1 else s1
  | none => s1

/-- The first fault that reads and writes of byte ranges meet: past the end of SRAM, into the reserved area, or a poisoned word consumed (R71, R85, R220). -/
def accessFault (core seq : Nat) (reads writes : List (Nat × Nat)) (s : State) : Option State :=
  if (reads ++ writes).any (fun r => decide (r.1 + r.2 > sramBytes)) || writes.any (fun r => s.areaHit core r.1 r.2) then
    some (descFaultAt core seq s)
  else match reads.find? (fun r => s.sramPoison core r.1 r.2) with
    | some r => some (sramFault core r.1 seq s)
    | none => none

/-! ## One instruction -/

def Engine.reg (e : Engine) (r : Nat) : Lanes := Tbl.get zeroLanes e.regs r

/-- The 64 lanes of a register. -/
def Engine.lanes (e : Engine) (r : Nat) : Lanes := (List.range 64).map (fun j => (e.reg r).getD j 0)

/-- Values of a tile stream's row under its scale codes (R136). -/
def loadLanes (core : Nat) (t : StreamD) (k n q : Nat) (s : State) : Lanes :=
  let f := streamFmt t.fmt
  let bs := s.sramRead core (t.row k n) t.width
  if t.kind = 1 then List.replicate 64 (toF32 (decode f (if t.fmt = 4 then num bs 0 1 % 16 else num bs 0 (f.bits / 8))))
  else
    let es := unpackElems f.bits 64 bs
    let cs := (t.codes q).map (fun c => num (s.sramRead core c.1 1) 0 1)
    (List.range 64).map (fun j =>
      let v := decode f (es.getD j 0)
      toF32 (if t.scl then Num.mul v (e8m0 (cs.getD (if t.fmt = 4 then j / 32 else 0) 127)) else v))

/-- What LDS returns: the prepared accumulators for stream 0 of an epilogue (R142). -/
def ldsValue (core : Nat) (e : Engine) (m : Nat) (s : State) : Lanes :=
  if e.epilogue && m == 0 then e.acc else loadLanes core (streamD e.args m) e.tile e.row e.runRow s

def zipLanes (f : BitVec 32 → BitVec 32 → BitVec 32) (a b : Lanes) : Lanes := (List.range 64).map (fun j => f (a.getD j 0) (b.getD j 0))

/-- The value of every instruction that only computes its D (Table 5-7). -/
def insValue (core : Nat) (e : Engine) (i : TIns) (s : State) : Lanes :=
  let a := e.reg i.a
  let b := e.reg i.b
  let c := e.reg i.c
  let raw := match i.opc with
    | 0x02 => List.replicate 64 (constOf e.args i.m)
    | 0x03 => ldsValue core e i.m s
    | 0x05 => (List.range 64).map (fun j => toF32 (.fin false j 0))
    | 0x06 => List.replicate 64 (toF32 (.fin false (e.runRow % 2 ^ 24) 0))
    | 0x08 | 0x09 | 0x0A | 0x0C | 0x0D | 0x10 | 0x12 | 0x13 | 0x14 => zipLanes (op2 i.opc) a b
    | 0x0B | 0x15 => (List.range 64).map (fun j => op3 i.opc (a.getD j 0) (b.getD j 0) (c.getD j 0))
    | 0x23 | 0x25 | 0x26 => List.replicate 64 (reduceRow i.opc false a)
    | 0x24 | 0x27 => List.replicate 64 (reduceRow i.opc (i.m == 1 && !e.wide && (argHdr e.args).statfmt) a)
    | 0x2A => columnRoot (e.maxTrees.contains i.m) (Tbl.get [] e.trees i.m)
    | _ => (List.range 64).map (fun j => op1 i.opc (a.getD j 0))
  raw.map canon32

def anyNonfinite (a : Lanes) : Bool := a.any (fun x => !isFin32 x)

/-- Write a result: the register, and the step's non-finite indicator where a lane is an infinity or a NaN (R134). -/
def putReg (core d : Nat) (v : Lanes) (s : State) : State :=
  markNonfinite core (anyNonfinite v) (s.updEng core (fun e => { e with regs := Tbl.set e.regs d v }))

/-- Count converted values and clips in a pair, for the step in progress (R57, R137). Pairs of bubble work are kept apart from those of real-time work. -/
def countClips (core pair n clipped : Nat) (s : State) : State :=
  s.updInst (s.coreInst core) (fun x => { x with
    stepClips := Tbl.upd (0, 0) x.stepClips (if s.coreBubble core then 256 + pair else pair) (fun c => (c.1 + n, c.2 + clipped)) })

def countConvs (core pair : Nat) (fmt : Nat) (cs : List Conv) (s : State) : State :=
  let s1 := if 2 ≤ fmt then countClips core pair cs.length (cs.filter (·.clip)).length s else s
  markNonfinite core (cs.any (·.nf)) s1

/-- CVT: D ← round_ta(A, format M) as an FP32 value (R47, R137). -/
def runCvt (core : Nat) (e : Engine) (i : TIns) (s : State) : State :=
  let f := streamFmt (i.m + 1)
  let a := e.lanes i.a
  let cs := a.map (fun x => convert f (f32 x))
  let v := (List.range 64).map (fun j =>
    let x := a.getD j 0
    if f = fp4 && !isFin32 x then nan32 else canon32 (toF32 (decode f ((cs.getD j ⟨0, false, false⟩).code))))
  putReg core i.d v (countConvs core (argHdr e.args).cnt (i.m + 1) cs s)

/-- 2^(127 − code), the multiplier of a scale code. -/
def multiplier (code : Nat) : BitVec 32 := toF32 (.fin false 1 (127 - (code : Int)))

/-- The code RSCALE gives for the amax in a lane, for format M. R49 takes the logarithm of a magnitude: of a negative finite amax it states none (log entry 5). -/
def rscaleCode (x : BitVec 32) (m : Nat) : Nat :=
  match f32 x with
  | .fin true (_ + 1) _ => (Config.rowScaleOfNegative x m).toNat
  | v => rowScale v (streamFmt (m + 1))

/-- RSCALE (R139). -/
def runRscale (core : Nat) (e : Engine) (i : TIns) (s : State) : State :=
  let x := (e.reg i.a).getD 0 0
  let code := rscaleCode x i.m
  putReg core i.d (List.replicate 64 (multiplier code))
    (markNonfinite core (!isFin32 x) (s.updEng core (fun e => { e with latch := .row code })))

/-- BSCALE (R139): a block that holds a non-finite value gets code 0xFF and multiplier 1.0. -/
def runBscale (core : Nat) (e : Engine) (i : TIns) (s : State) : State :=
  let a := e.lanes i.a
  let c := fun (b : Nat) => blockScale (((a.drop (32 * b)).take 32).map f32)
  let mult := fun (b : Nat) => if c b = 0xFF then one32 else multiplier (c b)
  putReg core i.d (List.replicate 32 (mult 0) ++ List.replicate 32 (mult 1)) (s.updEng core (fun e => { e with latch := .blocks (c 0) (c 1) }))

/-- CSUM and CMAX: a leaf of a column tree at the row's index (R143). -/
def runColumn (core : Nat) (e : Engine) (i : TIns) (s : State) : State :=
  let v := (e.lanes i.a).map canon32
  markNonfinite core (anyNonfinite v) (s.updEng core (fun e => { e with
    trees := Tbl.upd [] e.trees i.m (fun t => Tbl.set t e.row v),
    maxTrees := if i.opc = 0x29 then (if e.maxTrees.contains i.m then e.maxTrees else i.m :: e.maxTrees) else e.maxTrees.filter (· != i.m) }))

/-- Bytes of element codes of a width. -/
def packElems (bits : Nat) (es : List Nat) : Bytes := elemBytes bits es

/-- STS: each lane rounded into the stream's format, with its pieces and scale codes (R137 to R139). -/
def runSts (core : Nat) (e : Engine) (i : TIns) (s : State) : State :=
  let t := streamD e.args i.m
  let f := streamFmt t.fmt
  let a := e.lanes i.a
  let pair := (argHdr e.args).cnt
  if t.kind = 1 then
    let c := convert f (f32 (a.getD 0 0))
    let old := s.sramRead core (t.row e.tile e.row) t.width
    let oldCode := if t.fmt = 4 then num old 0 1 % 16 else num old 0 (f.bits / 8)
    let kept :=
      if t.maxw then (convert f (f32 (lessOrGreater true (toF32 (decode f c.code)) (toF32 (decode f oldCode))))).code else c.code
    sramWrite core (t.row e.tile e.row) (leBytes t.width kept) (countConvs core pair t.fmt [c] s)
  else
    let cs := a.map (fun x => convert f (f32 x))
    let codes := cs.map (·.code)
    let s1 := countConvs core pair t.fmt cs s
    if t.kind = 2 then sramWrite core (t.tile e.tile) (packElems f.bits codes) s1
    else
      let s2 := forEach (fun p s => sramWrite core p.1 (packElems f.bits ((codes.drop p.2.1).take p.2.2)) s) (t.pieces e.tile e.row) s1
      forEach (fun c s => sramWrite core c.1 (leBytes 1 (stsCode t.fmt e.latch a c.2)) s) (t.codes e.runRow) s2

/-- A local destination must be a core of the stall (R88). -/
def State.sameStall (s : State) (core dest : Nat) : Bool :=
  match s.stall (s.coreInst core) with
  | some st => st.holds dest && decide (dest < 4096)
  | none => false

/-- SEND: the tile's rows, rounded up to 64 bytes, to the destination of run tile t (R141). A region past the end of SRAM, a core outside the stall, or a remote destination that is no multiple of 64 is a descriptor fault. -/
def runSend (core seq : Nat) (e : Engine) (i : TIns) (s : State) : State :=
  let t := streamD e.args (i.m % 8)
  let x := sendEnt e.args (i.m / 8)
  let len := cdiv (e.tileRows * t.rowStride) 64 * 64
  let src := t.tile e.tile
  let dest := x.dest * 64 + e.tile * t.tileStride * 16
  if len = 0 || src + len > sramBytes || dest + len > sramBytes || (!x.remote && !s.sameStall core x.core) || (x.remote && dest % 64 != 0)
    || (x.sig && !x.remote && !s.coreObj core x.sync 0) then descFaultAt core seq s
  else if s.sramPoison core src len then sramFault core src seq s
  else
    let job : SendJob :=
      { seq := seq, remote := x.remote, sig := x.sig, ledger := false, data := s.sramRead core src len, dcore := x.core, dest := dest, flow := x.flow, sync := x.sync }
    s.updWork core (fun w => { w with sendQ := w.sendQ ++ [job] })

/-- Byte ranges an instruction reads and writes in SRAM. -/
def insReads (e : Engine) (i : TIns) : List (Nat × Nat) :=
  let t := streamD e.args i.m
  if i.opc = 0x03 && !(e.epilogue && i.m == 0) then t.reads e.tile e.row e.runRow
  else if i.opc = 0x04 && t.maxw then [(t.row e.tile e.row, t.width)] else []

def insWrites (e : Engine) (i : TIns) : List (Nat × Nat) :=
  if i.opc = 0x04 then (streamD e.args i.m).writes e.tile e.row e.runRow else []

/-- One instruction on the engine where it stands. -/
def runIns (core seq : Nat) (i : TIns) (s : State) : State :=
  if s.coreStopped core then s
  else
    let e := (s.work core).eng
    match accessFault core seq (insReads e i) (insWrites e i) s with
    | some t => t
    | none =>
      match i.opc with
      | 0x04 => runSts core e i s
      | 0x28 | 0x29 => runColumn core e i s
      | 0x2C => runCvt core e i s
      | 0x2D => runRscale core e i s
      | 0x2E => runBscale core e i s
      | 0x30 => runSend core seq e i s
      | _ => putReg core i.d (insValue core e i s) s

/-! ## Rows and tiles -/

/-- R142: the accumulator lanes of a row as the epilogue reads them. -/
def prepareAcc (core : Nat) (e : Engine) (addr : Nat) (s : State) : Lanes × Bool :=
  let h := argHdr e.args
  let scale := if h.rsOn then e8m0 (num (s.sramRead core (h.rowscale + e.runRow) 1) 0 1) else .fin false 1 0
  let bs := s.sramRead core addr 256
  let vs := (List.range 64).map (fun j =>
    let x := f32 (BitVec.ofNat 32 (num bs (4 * j) 4))
    let y := if h.rsOn then f32 (toF32 (Num.mul x scale)) else x
    toF32 (if h.pfmt && !e.wide then decode bf16 (convert bf16 y).code else y))
  (vs, anyNonfinite vs)

/-- SRAM that a row reads before and in its row section. -/
def rowReads (e : Engine) (acc : Option Nat) (is : List TIns) : List (Nat × Nat) :=
  let h := argHdr e.args
  (match acc with
   | some a => (a, 256) :: (if h.rsOn then [(h.rowscale + e.runRow, 1)] else [])
   | none => []) ++ is.flatMap (insReads e)

/-- One row: registers at +0, the latch empty, accumulators prepared, then the row section. A poisoned word stops the row before any write of it (R71). -/
def runRow (core : Nat) (a : Att) (accs : List Nat) (r : Nat) (s : State) : State :=
  if s.coreStopped core then s
  else
    let is := (a.instrs.take a.tail).map tIns
    let s1 := s.updEng core (fun e => { e with regs := [], latch := .none, row := r, runRow := a.rowsDone + r, inTail := false })
    let e := (s1.work core).eng
    match accessFault core a.seq (rowReads e (if e.epilogue then accs[r]? else none) is) (is.flatMap (insWrites e)) s1 with
    | some t => t
    | none =>
      let s2 := match if e.epilogue then accs[r]? else none with
        | some addr =>
          let (v, nf) := prepareAcc core e addr s1
          markNonfinite core nf (s1.updEng core (fun e => { e with acc := v }))
        | none => s1
      forEach (runIns core a.seq) is s2

/-- A column tree whose nodes made an infinity or a NaN, which its root then holds too. -/
def Engine.treeNonfinite (e : Engine) : Bool := (List.range 4).any (fun m => anyNonfinite (columnRoot (e.maxTrees.contains m) (Tbl.get [] e.trees m)))

/-- The tail section: registers at +0. The nodes of the column trees are formed, and a non-finite one sets the step's indicator (R48, R143). -/
def runTail (core : Nat) (a : Att) (s : State) : State :=
  if s.coreStopped core then s
  else forEach (runIns core a.seq) ((a.instrs.drop a.tail).map tIns)
    (markNonfinite core (s.work core).eng.treeNonfinite (s.updEng core (fun e => { e with regs := [], inTail := true })))

/-- Input streams of a program that a sync object paces. -/
def pacedInputs (args : Bytes) : List Nat :=
  ((usedStreams args).map (streamD args)).filterMap (fun t => if t.sync != 0 && !t.out then some t.sync else none)

def pacedOutputs (args : Bytes) : List Nat :=
  ((usedStreams args).map (streamD args)).filterMap (fun t => if t.sync != 0 && t.out then some t.sync else none)

/-- A tile's streams allow it (R135): each object holds at least as many as the streams it paces take. -/
def State.streamsReady (s : State) (args : Bytes) : Bool :=
  (pacedInputs args).all (fun o => decide ((s.obj o).count.toNat ≥ ((pacedInputs args).filter (· == o)).length))

def updAtt (core id : Nat) (f : Att → Att) (s : State) : State :=
  s.updWork core (fun w => { w with atts := w.atts.map (fun a => if a.id == id then f a else a) })

def attOf (s : State) (core id : Nat) : Option Att := (s.work core).atts.find? (fun a => a.id == id)

/-- Rows of tile `k` of a prologue or run (R121). -/
def Att.tileRows (a : Att) (k : Nat) : Nat :=
  let t := tileD a.d
  if t.tiles != 0 && k + 1 = t.tiles then (argHdr a.args).lastRows else 64

/-! ## The reserved area and output streams (R220) -/

/-- Byte ranges that a tile writes to its output streams: each row, its pieces and its scale codes, or the tile's record. -/
def tileWrites (args : Bytes) (k rows q0 : Nat) : List (Nat × Nat) :=
  (usedStreams args).flatMap (fun i =>
    let t := streamD args i
    if !t.out then [] else (List.range rows).flatMap (fun r => t.writes k r (q0 + r)))

/-- The extent known at attach: the ring of a ring stream, every tile of a run or of a prologue with TILES. -/
def attachWrites (a : Att) (args : Bytes) : List (Nat × Nat) :=
  let t := tileD a.d
  let ringTiles := ((usedStreams args).map (fun i => (streamD args i).ring)).foldl max 0
  let known := t.place = 2 || (t.place = 0 && t.tiles != 0)
  (usedStreams args).flatMap (fun i =>
    let st := streamD args i
    if !st.out then []
    else (List.range (if known then t.tiles else if st.ring != 0 then ringTiles else 0)).flatMap (fun k =>
      (List.range (if known && k + 1 = t.tiles then (argHdr args).lastRows else 64)).flatMap (fun r => st.writes k r (64 * k + r))))

/-- One tile: its pacing, its rows in order, its tail, the signals of its outputs (R122, R123, R135). -/
def runTile (core : Nat) (a : Att) (accs : List Nat) (rows : Nat) (s : State) : State :=
  if s.coreBubble core && (tileWrites a.args a.tilesDone rows a.rowsDone).any (fun r => s.areaHit core r.1 r.2) then descFaultAt core a.seq s else
  let place := (tileD a.d).place
  let s1 := forEach pace (pacedInputs a.args) s
  let s2 := s1.updEng core (fun e => { e with
    regs := [], trees := [], maxTrees := [], latch := .none, wide := (tileD a.d).wide, epilogue := place == 1, args := a.args, acc := [],
    tile := a.tilesDone, row := 0, tileRows := rows, runRow := a.rowsDone, inTail := false })
  let s3 := runTail core a (forEach (runRow core a accs) (List.range rows) s2)
  if s3.coreStopped core then s3
  else
    let s4 := updAtt core a.id (fun a => { a with tilesDone := a.tilesDone + 1, rowsDone := a.rowsDone + rows }) s3
    let s5 := if place = 2 && a.tilesDone + 1 = (tileD a.d).tiles then s4.updWork core (fun w => { w with runs := w.runs.filter (· != a.id) }) else s4
    forEach (fun o s => coreAdd core o 1 s) (pacedOutputs a.args) s5

/-! ## Attaching (R126, R129, R130) -/

/-- How reading a program from SRAM ended. -/
inductive LoadEnd where
  | ok (a : Att)
  | bad
  | poison (addr : Nat)
deriving DecidableEq, Repr

/-- Read and check the program and argument block of a TILEPROG as it takes effect. -/
def loadAtt (core : Nat) (a : Att) (s : State) : LoadEnd :=
  let t := tileD a.d
  if t.prog + 16 > sramBytes || t.args + argBytes > sramBytes then .bad
  else if s.sramPoison core t.prog 16 then .poison t.prog
  else if s.sramPoison core t.args argBytes then .poison t.args
  else match progHdr (num (s.sramRead core t.prog 16) 0 16) with
    | none => .bad
    | some (n, tail) =>
      if t.prog + 16 + 4 * n > sramBytes then .bad
      else if s.sramPoison core (t.prog + 16) (4 * n) then .poison (t.prog + 16)
      else
        let bs := s.sramRead core (t.prog + 16) (4 * n)
        let is := (List.range n).map (fun i => BitVec.ofNat 32 (num bs (4 * i) 4))
        let args := s.sramRead core t.args argBytes
        if progOk (some t.place) t.tiles is tail args && (pacedInputs args ++ pacedOutputs args).all (fun o => s.coreObj core o 0)
            && !(s.coreBubble core && (attachWrites a args).any (fun r => s.areaHit core r.1 r.2)) then
          .ok { a with loaded := true, instrs := is, tail := tail, args := args }
        else .bad

/-- Let an attachment take effect: read it once, or fault (R130). -/
def takeEffect (core id : Nat) (s : State) : State :=
  match attOf s core id with
  | none => s
  | some a =>
    if a.loaded then s
    else match loadAtt core a s with
      | .ok b => updAtt core id (fun _ => b) s
      | .bad => descFaultAt core a.seq s
      | .poison addr => sramFault core addr a.seq s

/-! ## Which tile comes next (R127) -/

/-- Every epilogue tile of the PASSes issued before a run has been processed. -/
def Work.tilesBefore (w : Work) (seq : Nat) : Bool :=
  w.epiQ.any (fun t => decide (t.seq < seq)) ||
  w.arrayQ.any (fun j => match j with | .pass p => (passD p.d).final && decide (p.seq < seq) | _ => false)

/-- The first run, which may start. -/
def Work.runReady (w : Work) : Option Nat :=
  match w.runs with
  | id :: _ => match w.atts.find? (fun a => a.id == id) with
    | some a => if w.tilesBefore a.seq then none else some id
    | none => none
  | [] => none

/-- The attached prologue still has a tile to process. -/
def prologueReady (core : Nat) (s : State) : Option Att :=
  match (s.work core).prologue with
  | some id => match attOf s core id with
    | some a => if ((tileD a.d).tiles = 0 || a.tilesDone < (tileD a.d).tiles) && s.streamsReady a.args then some a else none
    | none => none
  | none => none

/-- The engine takes the next ready tile: epilogue tiles first, then prologue tiles, then runs; with none ready, nothing happens. -/
def nextTile (core : Nat) (s : State) : State :=
  match (s.work core).epiQ with
  | t :: rest =>
    match attOf s core t.att with
    | some a =>
      if s.streamsReady a.args then runTile core a t.acc t.acc.length (s.updWork core (fun w => { w with epiQ := rest }))
      else afterEpilogue
    | none => s.updWork core (fun w => { w with epiQ := rest })
  | [] => afterEpilogue
where
  afterEpilogue : State :=
    match prologueReady core s with
    | some a => runTile core a [] (a.tileRows a.tilesDone) s
    | none =>
      match (s.work core).runReady with
      | none => s
      | some id =>
        let s1 := takeEffect core id s
        match attOf s1 core id with
        | some a => if a.loaded && s1.streamsReady a.args then runTile core a [] (a.tileRows a.tilesDone) s1 else s1
        | none => s1

/-! ## The rows of the table that are single tile instructions -/

/-- A single instruction on the engine where it stands; one that R130 does not allow there is a descriptor fault. -/
def tileStep (core : Nat) (i : TIns) (s : State) : State :=
  let e := (s.work core).eng
  if s.coreStopped core then s
  else if insOk e.args e.inTail i then runIns core (s.work core).seq i s
  else descFault core s

/-- An instruction with D, A and M. -/
def insDA (opc : Nat) (d a : BitVec 5) (m : BitVec 6) : TIns := { opc := opc, d := d.toNat, a := a.toNat, m := m.toNat }
def insDAB (opc : Nat) (d a b : BitVec 5) : TIns := { opc := opc, d := d.toNat, a := a.toNat, b := b.toNat }
def insDABC (opc : Nat) (d a b c : BitVec 5) : TIns := { opc := opc, d := d.toNat, a := a.toNat, b := b.toNat, c := c.toNat }

end Sys2Proof.Machine
end

