-- ==== Sys2Proof/Machine/Residency.lean ====
section
/-! DEFINITION. Shares and costs of a stall, and the residency of adapters (04_adapter_path R113 to R120, R453; 08_almanac R209 to R211, R218; 06_memory_tiers R165). -/

namespace Sys2Proof.Machine

def Image.program (im : Image) (index : Nat) : Option Program := im.programs.find? (fun p => p.index == index)

def State.progOf (s : State) (inst index : Nat) : Option Program :=
  match (s.inst inst).image with
  | some im => im.program index
  | none => none

/-! ## Weights (R159, R211): units of 2^-16 -/

/-- Weight `k` of a stall: parts 0 to 27, then H_in and H_out; defaulted to its groups ÷ 64. -/
def Stall.weight (st : Stall) (k : Nat) : Nat :=
  match Tbl.get none st.weights k with
  | some w => w
  | none => st.groupList.length * 1024

/-- Payload of a trained rate at x16, in units of 100 MB/s (Table 12-1): rate 6 is 64 GT/s, 1 is 2.5 GT/s. -/
def payloadRate : Nat → Nat
  | 6 => 960 | 5 => 450 | 4 => 225 | 3 => 110 | 2 => 45 | _ => 22

/-- Nanoseconds for `n` bytes of the host link as it is trained (R299), in a direction (28 in, 29 out), rounded up after `extra`; nothing where the weight is 0. -/
def linkNs (s : State) (st : Stall) (dir n extra : Nat) : Option Nat :=
  let rate := payloadRate s.sys.linkRate.toNat * s.sys.linkWidth.toNat * st.weight dir
  if n = 0 then some extra
  else if rate = 0 then none else some (extra + cdiv (n * 65536 * 160) rate)

/-- A set's rate at a stall's shares, in GB/s × 2^16. -/
def shareRate (st : Stall) (parts : List Nat) : Nat := (parts.map (fun p => st.weight p * partRate p)).foldl (· + ·) 0

/-- The parts that the page of a logical address is spread over (R156 to R158); those of the base set, or of the stall's fast-tier set, where nothing is mapped yet. -/
def placeOf (s : State) (inst : Nat) (st : Stall) (la : Nat) : List Nat :=
  let (_, e) := s.pageOf inst la
  let set := if e.valid then some e.set else if la ≥ baseWindow then none else some st.fastSet
  match set.bind (fun k => s.sets[k]?) with
  | some ps => ps.parts
  | none => List.range 12

/-- A layer's weights in pieces of at most 64 KiB: where each lies and its bytes. -/
def layerPieces (s : State) (inst : Nat) (st : Stall) (l : Layer) : List (List Nat × Nat) :=
  (List.range (cdiv (l.weights % 65536 + l.bytes) 65536)).map (fun i =>
    let lo := if i = 0 then 0 else i * 65536 - l.weights % 65536
    let hi := min l.bytes ((i + 1) * 65536 - l.weights % 65536)
    (placeOf s inst st (l.weights + lo), hi - lo))

/-- Sets that hold pieces, without repeats. -/
def pieceSets (ps : List (List Nat × Nat)) : List (List Nat) := ps.foldl (fun l p => if l.contains p.1 then l else l ++ [p.1]) []

/-- T_s of a layer in ns as a fraction: for each set that holds its bytes, the bytes ÷ the stall's share of the set's parts, summed (R165 as its worked example counts it; log entry 26). Nothing where a share is 0. -/
def layerRatio (s : State) (inst : Nat) (st : Stall) (l : Layer) : Option (Nat × Nat) :=
  let ps := layerPieces s inst st l
  (pieceSets ps).foldl (fun (acc : Option (Nat × Nat)) parts =>
    let bytes := (ps.filter (fun x => x.1 == parts)).foldl (fun n x => n + x.2) 0
    let d := shareRate st parts
    match acc with
    | none => none
    | some (num, den) => if d = 0 then none else some (num * d + bytes * 65536 * den, den * d)) (some (0, 1))

/-- T_s in whole ns, rounded up. -/
def layerTime (s : State) (inst : Nat) (st : Stall) (l : Layer) : Option Nat := (layerRatio s inst st l).map (fun x => cdiv x.1 x.2)

/-- R165 for the layers of one program: T_s(L) < T_c(L) and T_s(L + 1) < T_c(L), T_C in steps of 0.5 ns. -/
def streams (s : State) (inst : Nat) (st : Stall) : List Layer → Bool
  | [] => true
  | l :: ls =>
    let below := fun (x : Layer) => match layerRatio s inst st x with | some (n, d) => decide (2 * n < l.tC * d) | none => false
    below l && (match ls.head? with | some m => below m | none => true) && streams s inst st ls

/-- R165 for every program of an image. -/
def State.imageStreams (s : State) (inst : Nat) (st : Stall) (im : Image) : Bool :=
  im.programs.all (fun p => streams s inst st ((im.layers.drop p.firstLayer).take p.layers))

/-- T_susp of a stall (R218) as an exact ratio in ns; nothing where its spill rate is 0. -/
def suspendRatio (s : State) (st : Stall) : Option (Nat × Nat) :=
  let parts := match s.sets[st.fastSet]? with | some ps => ps.parts | none => []
  let rate := parts.foldl (fun n p => n + st.weight p * 2200) 0
  if rate = 0 then none else some (2600 * rate + st.cores.length * 528384 * 65536, rate)

/-- T_susp in whole ns, rounded up. -/
def suspendNs (s : State) (st : Stall) : Option Nat := (suspendRatio s st).map (fun x => cdiv x.1 x.2)

/-- A length exceeds 2 × T_susp (R200, R208, R218). -/
def outlasts (s : State) (st : Stall) (length : Nat) : Bool :=
  match suspendRatio s st with | some (n, d) => decide (2 * n < length * d) | none => false

/-! ## Adapters -/

def rankCode (rank : Nat) : Nat := if rank = 4 then 0 else if rank = 8 then 1 else if rank = 16 then 2 else if rank = 32 then 3 else 4
def rankSlices (rank : Nat) : Nat := if rank ≤ 16 then 1 else rank / 16

/-- Resident to every command (R115, R120). -/
def Adapter.resident (a : Adapter) : Bool := a.slot.isSome && !a.fetching && !a.early

/-- Its data is in the adapter store alone. -/
def Adapter.away (a : Adapter) : Bool := a.store && a.master.isEmpty && a.saved.isEmpty

/-- Window pages of an adapter: two working banks (R233, R453). -/
def Adapter.pages (a : Adapter) : Nat := cdiv (2 * a.bank) 65536

/-- Adapter ids a step names, without repeats. -/
def Step.adapters (p : Step) : List Nat := p.runs.foldl (fun l r => if r.1 = 0xFFFFFFFF || l.contains r.1 then l else l ++ [r.1]) []

/-- A step that waits for admission. -/
def Step.waits (p : Step) : Bool := p.at_ == .queued || p.at_ == .parked

/-- An accepted step, or a job with pending copies, names the adapter (R117). -/
def State.pinned (s : State) (inst id : Nat) : Bool :=
  (s.inst inst).steps.any (fun p => !p.waits && p.adapters.contains id)
  || (s.inst inst).jobs.any (fun j => !j.sweep.isEmpty && j.tensors.any (fun t => t.adapter == id))

/-- Claims in rank order: the adapters of each waiting step in ring order, each FETCH behind the steps that waited when it was taken (R117). -/
def claimsOf (n : Inst) : List (Bool × List Nat) :=
  let fetches := n.adapters.filter (fun a => a.fetchTag.isSome)
  let before := fun (done : List Nat) (rest : List Nat) (a : Adapter) => a.fetchBehind.all (fun t => done.contains t || !(rest.contains t))
  let waiting := n.steps.filter Step.waits
  go fetches before [] waiting []
where
  go (fetches : List Adapter) (before : List Nat → List Nat → Adapter → Bool) (placed : List Nat) : List Step → List Nat → List (Bool × List Nat)
    | [], done => (fetches.filter (fun a => !placed.contains a.id && before done [] a)).map (fun a => (true, [a.id]))
    | p :: ps, done =>
      let ready := fetches.filter (fun a => !placed.contains a.id && before done ((p :: ps).map (·.tag)) a)
      ready.map (fun a => (true, [a.id])) ++ (p.at_ == .parked, p.adapters) :: go fetches before (placed ++ ready.map (·.id)) ps (done ++ [p.tag])

/-- Fast-tier units of 64 KiB in use by an instance: its image, preload copy, training states and resident adapters (R453). -/
def imageUnits (im : Image) : Nat :=
  ((im.regions.filter (fun r => !r.slow)).map (·.len)).foldl (· + ·) 0
  + cdiv ((im.preloads.map (·.len)).foldl (· + ·) 0 + ((im.colls.map (fun c => 8 * c.members)).foldl (· + ·) 0)) 65536

/-- Pages mapped for training states (R231, R453). -/
def State.trainUnits (s : State) (inst : Nat) : Nat := (s.pages.filter (fun p => p.1 / 2 ^ 33 == inst && p.2.valid && p.2.training)).length

def State.fixedUnits (s : State) (inst : Nat) : Nat :=
  (match (s.inst inst).image with | some im => imageUnits im | none => 0) + s.trainUnits inst

def State.adapterUnits (s : State) (inst : Nat) : Nat :=
  (((s.inst inst).adapters.filter (fun a => a.slot.isSome)).map Adapter.pages).foldl (· + ·) 0

/-- First byte of the adapter window (R453). -/
def adapterWindow : Nat := 0x700000000000

/-- Lowest run of free window addresses for `n` pages (log entry 16). -/
def windowGo (used : List (Nat × Nat)) (n : Nat) : Nat → Nat → Nat
  | 0, a => a
  | k + 1, a => match used.find? (fun u => decide (a < u.1 + u.2 * 65536) && decide (u.1 < a + n * 65536)) with
    | some u => windowGo used n k (u.1 + u.2 * 65536)
    | none => a

/-- Map one page of a set at a logical address, lowest frame first, as ZERO lines under a fresh MAP (R181). Nothing where no frame is free, or while a mapping must wait for an epoch (R188). -/
def mapPage (inst la set : Nat) (e0 : Pte) (s : State) : Option State :=
  if s.mapWaits inst then none
  else match freeFrame s set e0.frames (if e0.big then 32 else 1) with
  | none => none
  | some f =>
    let (ep, m, s1) := takeMap inst s
    let e := { e0 with valid := true, inst := inst, gen := (s.inst inst).gen.toNat, epoch := ep, set := set, frame := f, map := m }
    some (zeroPage e e.frames (s1.setPte (pageKey inst la) e))

/-- Map `n` pages of one kind from a logical address. -/
def mapPages (inst set : Nat) (e0 : Pte) : Nat → Nat → State → Option State
  | 0, _, s => some s
  | n + 1, la, s =>
    match mapPage inst la set e0 s with
    | none => none
    | some s1 => mapPages inst set e0 n (la + e0.bytes) s1

def unmapPages (inst n la : Nat) (s : State) : State := forEach (fun i s => unmapPage (pageKey inst (la + i * 65536)) s) (List.range n) s

/-- What the store holds of an adapter once it has been written back: its master, then its slot data where that is more than the master (log entry 19). -/
def Adapter.stored (a : Adapter) : Bytes := a.master ++ a.saved

/-- Write a store-backed adapter back to its region, sealed under the next write-back count (R115, R377, R378). Without a seal secret it stays on the device. -/
def writeBack (inst id : Nat) (s : State) : State :=
  match s.adapterOf inst id, (s.inst inst).sealSecret with
  | some a, some key =>
    let (sealed, s1) := sealBytes key 1 (id % 2 ^ 26) (a.writeBack + 1) a.stored s
    rdmaIssue inst a.handle true (.adapter id) 0 sealed sealed.length (s1.updAdapter inst id (fun a => { a with writeBack := a.writeBack + 1, backed := a.stored.length }))
  | _, _ => s

/-- The device's copy of a store-backed adapter goes, once the store has it and no slot does. -/
def dropCopy (inst id : Nat) (s : State) : State :=
  s.updAdapter inst id (fun a => if a.store && a.slot.isNone && !s.rdmas.any (fun r => r.fn == inst && r.use == .adapter id && r.write) then { a with master := [], saved := [] } else a)

/-- The slot's data goes back to its home, and slot and pages are free (R115). -/
def evict (inst id : Nat) (s : State) : State :=
  match s.adapterOf inst id with
  | none => s
  | some a =>
    let (bs, bad) := stateRead inst a.waddr (2 * a.bank) s
    let keep := a.resident
    let changed := bs != homeData { a with saved := [] }
    let s1 := unmapPages inst a.wpages a.waddr (s.updAdapter inst id (fun a => { a with
      saved := if keep && (changed || !a.store) then bs else a.saved, poisoned := a.poisoned || (keep && bad), slot := none, fetching := false, early := false, waddr := 0, wpages := 0 }))
    if !a.store || !keep then s1 else if changed then writeBack inst id s1 else dropCopy inst id s1

/-- Lowest free slot of the stall's share. -/
def freeSlot (n : Inst) (hot : Nat) : Option Nat := (List.range hot).find? (fun k => n.adapters.all (fun a => a.slot != some k))

/-- The least recently used resident adapter that is neither pinned nor claimed by an earlier rank (R117). -/
def evictable (s : State) (inst : Nat) (earlier : List (List Nat)) : Option Adapter :=
  ((s.inst inst).adapters.filter (fun a => a.slot.isSome && !a.fetching && !s.pinned inst a.id && !(earlier.any (·.contains a.id)))).foldl
    (fun (best : Option Adapter) a => match best with | some b => if a.lastUse < b.lastUse then some a else best | none => some a) none

/-- Give a fetch its slot and pages; a store-backed adapter is read over its storage port (R116). -/
def placeFetch (inst : Nat) (st : Stall) (a : Adapter) (slot : Nat) (early : Bool) (s : State) : State :=
  let used := ((s.inst inst).adapters.filter (fun x => x.slot.isSome)).map (fun x => (x.waddr, x.wpages))
  let la := windowGo used a.pages used.length adapterWindow
  match mapPages inst st.fastSet { home := .fast, write := true } a.pages la s with
  | none => s
  | some s1 =>
    let s2 := s1.updAdapter inst a.id (fun a => { a with slot := some slot, fetching := true, early := early, waddr := la, wpages := a.pages })
    if a.away then rdmaIssue inst a.handle false (.adapter a.id) 0 [] a.size s2 else s2

/-- Start one fetch, evicting as often as it takes; nothing where every slot is pinned or claimed. -/
def fetchOne (inst : Nat) (st : Stall) (earlier : List (List Nat)) (id : Nat) : Nat → State → State
  | 0, s => s
  | n + 1, s =>
    match s.adapterOf inst id with
    | none => s
    | some a =>
      if a.slot.isSome then
        let s1 := s.updAdapter inst id (fun a => { a with early := false })
        match a.fetching, a.fetchTag with
        | false, some t => finish inst t St.done 0 (s1.updAdapter inst id (fun a => { a with fetchTag := none, lastUse := s.now.toNat }))
        | _, _ => s1
      else
        let room := decide (s.fixedUnits inst + s.adapterUnits inst + a.pages ≤ st.fast)
        match freeSlot (s.inst inst) st.hot with
        | some k =>
          if room then placeFetch inst st a k false s
          else match evictable s inst earlier with
            | some v => fetchOne inst st earlier id n (evict inst v.id s)
            | none => s
        | none => match evictable s inst earlier with
          | some v => fetchOne inst st earlier id n (evict inst v.id s)
          | none => s

/-- Fetch for every FETCH and parked step in the order of their claims; a step that waits unparked holds its claim and fetches nothing (R116, R117). -/
def startFetches (inst : Nat) (s : State) : State :=
  match s.stall inst with
  | none => s
  | some st => go st [] (claimsOf (s.inst inst)) s
where
  go (st : Stall) (earlier : List (List Nat)) : List (Bool × List Nat) → State → State
    | [], s => s
    | c :: cs, s =>
      let s1 := if c.1 then forEach (fun id s => fetchOne inst st (earlier ++ [c.2]) id ((s.inst inst).adapters.length + 1) s) c.2 s else s
      go st (earlier ++ [c.2]) cs s1

/-- Every adapter a step names is resident. -/
def State.allResident (s : State) (inst : Nat) (p : Step) : Bool :=
  p.adapters.all (fun id => match s.adapterOf inst id with | some a => a.resident | none => false)

/-- A step whose adapters are not all resident is PARKED, and they are fetched (R116). -/
def park (inst tag : Nat) (s : State) : State :=
  let first : Bool := match s.stepOf inst tag with | some p => !(p.at_ == StepAt.parked) | none => false
  let s1 := s.updStep inst tag (fun p => { p with at_ := .parked })
  startFetches inst (if first then interim inst tag St.parked s1 else s1)

/-- Parked steps whose last adapter is here are offered to admission again, at their place (R116). -/
def unpark (inst : Nat) (s : State) : State :=
  forEach (fun (p : Step) s => if p.at_ == .parked && s.allResident inst p then s.updStep inst p.tag (fun p => { p with at_ := .queued }) else s) (s.inst inst).steps s

/-- A write of the host takes effect between steps, once nothing accepted pins the adapter (R119): histories are empty (R55). -/
def applyWrite (inst id : Nat) (s : State) : State :=
  match s.adapterOf inst id with
  | none => s
  | some a =>
    match a.pendingWrite with
    | none => s
    | some (tag, bs) =>
      if s.pinned inst id || a.fetching then s
      else
        let s1 := s.updAdapter inst id (fun a => { a with master := bs, saved := [], poisoned := false, history := false, pendingWrite := none })
        let s2 := if a.slot.isSome then stateWrite inst a.waddr (bs ++ List.replicate (a.bank - bs.length) 0) s1 else s1
        finish inst tag St.done 0 (if a.store then writeBack inst id s2 else s2)

/-- An UNREGISTER completes once nothing pins its adapter (R343). -/
def applyUnregister (inst id : Nat) (s : State) : State :=
  match s.adapterOf inst id with
  | none => s
  | some a =>
    match a.unregTag with
    | none => s
    | some tag =>
      if s.pinned inst id then s
      else
        let s1 := evict inst id s
        let s2 := match a.fetchTag with | some f => finish inst f St.abortedHost 0 s1 | none => s1
        finish inst tag St.done 0 (s2.updInst inst (fun n => { n with adapters := n.adapters.filter (fun a => a.id != id) }))

/-- What a boundary between steps of a stall lets happen: writes and removals that waited, fetches that waited for a slot. -/
def stepBoundary (inst : Nat) (s : State) : State :=
  let ids := (s.inst inst).adapters.map (·.id)
  unpark inst (startFetches inst (forEach (applyUnregister inst) ids (forEach (applyWrite inst) ids s)))

/-- A fetch ends well: the slot's data is written, waiting FETCHes complete, parked steps are offered again (R116, R117). -/
def fetchArrives (inst id : Nat) (s : State) : State :=
  match s.adapterOf inst id with
  | none => s
  | some a =>
    let bs := homeData a
    let s1 := stateWrite inst a.waddr bs (s.updAdapter inst id (fun a => { a with fetching := false, fetchTag := none, lastUse := s.now.toNat }))
    stepBoundary inst (match a.fetchTag with | some t => finish inst t St.done 0 s1 | none => s1)

/-- A fetch fails: its slot is free again, and what waited for it ends with the status (R118); an early read is dropped without trace (R120). -/
def fetchFails (inst id status : Nat) (s : State) : State :=
  match s.adapterOf inst id with
  | none => s
  | some a =>
    let s1 := evict inst id { s with rdmas := s.rdmas.filter (fun r => !(r.fn == inst && !r.write && r.use == .adapter id)) }
    let s2 := s1.updAdapter inst id (fun a => { a with fetchTag := none })
    if a.early then s2
    else
      let s3 := match a.fetchTag with | some t => finish inst t status 0 s2 | none => s2
      stepBoundary inst (forEach (fun (p : Step) s => if p.at_ == .parked && p.adapters.contains id then endStep inst p.tag status (p.failResult 0) s else s) (s3.inst inst).steps s3)

/-! ## Admission arithmetic (Table 8-5, R210) -/

/-- Rows of each adapter of a step. -/
def Step.rowsOf (p : Step) (id : Nat) : Nat := ((p.runs.filter (fun r => r.1 == id)).map (·.2)).foldl (· + ·) 0

/-- The adapter runs its first step: an FP8 tensor has no history (R55). -/
def Adapter.first (a : Adapter) : Bool := !a.sfmt && !a.history

/-- Steps converted at the floor rate, in whole ns. -/
def stepsNs (n : Nat) : Nat := cdiv n 2

/-- A step fits an occurrence of a slot. -/
def State.fits (s : State) (inst : Nat) (st : Stall) (im : Image) (pr : Program) (p : Step) (sl : Slot) : Bool :=
  let as := p.adapters.filterMap (fun id => s.adapterOf inst id)
  let tin := linkNs s st 28 (if p.inFabric then 0 else p.rows * pr.inRow) (2000 + 4 * p.rows)
  let tout := linkNs s st 29 (p.rows * pr.outRow) 1000
  let ts1 := match im.layers[pr.firstLayer]? with | some l => layerTime s inst st l | none => some 0
  let slices := (as.map (fun a => (rankSlices a.rank - 1) * p.rowsOf a.id)).foldl (· + ·) 0
  let tc := stepsNs (pr.base + pr.perRow * p.rows + pr.perTicket * as.length + pr.perSlice * slices)
  let wide := stepsNs (pr.budget * (pr.wBase + pr.wRow * p.rows))
  let first := stepsNs (((as.filter Adapter.first).map (fun a => pr.fuTicket + pr.fuRow * p.rowsOf a.id)).foldl (· + ·) 0)
  match tin, tout, ts1 with
  | some tin, some tout, some ts1 =>
    decide (max tin ts1 + tc + 1500 * pr.f + wide + first + 2000 ≤ sl.length) && decide (sl.length + tout ≤ sl.bound)
  | _, _, _ => false

/-- A step fits some slot of its program in a table. -/
def State.fitsTable (s : State) (inst : Nat) (p : Step) (t : Almanac) : Bool :=
  match s.stall inst, (s.inst inst).image with
  | some st, some im =>
    match im.program p.program with
    | some pr => t.slots.any (fun sl => !sl.bubble && sl.program == p.program && s.fits inst st im pr p sl)
    | none => false
  | _, _ => false

end Sys2Proof.Machine
end

