-- ==== Sys2Proof/Machine/Tasks.lean ====
section
/-! DEFINITION. Tasks and the ends of steps: placement (R198), the waits of FENCE and END (R86, R452), the wide re-run count (R58 to R60), delivery (R204, R338, R352). -/

namespace Sys2Proof.Machine

/-! ## Programs and tasks of an image -/

/-- The tasks of a program's sub-step, in task-table order. -/
def Image.tasksOf (im : Image) (p : Program) (sub : Nat) : List TaskEnt :=
  ((im.tasks.drop p.firstTask).take p.tasks).filter (fun t => t.substep == sub)

/-- Highest sub-step of a program (R353). -/
def Image.lastSub (im : Image) (p : Program) : Nat := ((im.tasks.drop p.firstTask).take p.tasks).foldl (fun m t => max m t.substep) 0

/-- Each task takes the lowest relative cores that no earlier one has taken (R198). -/
def placeGo : List TaskEnt → Nat → List Nat
  | [], _ => []
  | t :: ts, n => (List.range t.cores).map (fun k => n + k) ++ placeGo ts (n + t.cores)

def placedCores (st : Stall) (ts : List TaskEnt) : List Nat := (placeGo ts 0).filterMap st.coreAt

/-- Give a core to a task: it runs from the first descriptor. What the array and the engine hold stays (R79). -/
def giveTask (fn tag : Nat) (bubble : Bool) (core : Nat) (s : State) : State :=
  s.updWork core (fun w => { w with task := some { fn := fn, bubble := bubble, tag := tag }, mode := .running, pos := 0 })

def startTasks (inst tag : Nat) (bubble : Bool) (ts : List TaskEnt) (s : State) : State :=
  match s.stall inst with
  | none => s
  | some st =>
    let cores := placedCores st ts
    forEach (giveTask inst tag bubble) cores (s.updStep inst tag (fun p => { p with cores := cores }))

/-! ## Scaled layers (R58 to R60) -/

/-- A layer needs a re-run (R58). -/
def needsRerun (thresh : Nat) (c : Nat × Nat) : Bool := decide (c.2 * 1000 > thresh * c.1)

/-- Decide each scaled layer of a program in layer order: a re-run while budget remains, else the CLIP_OVER flag (R59). -/
def decideLayers (inst tag : Nat) (bubble : Bool) (s : State) : State :=
  match s.stepOf inst tag, (s.inst inst).image with
  | some p, some im =>
    match im.program p.program with
    | none => s
    | some pr =>
      forEach (fun (l : Layer) s =>
        if l.scaled && needsRerun pr.thresh (Tbl.get (0, 0) (s.inst inst).stepClips (if bubble then 256 + l.cnt else l.cnt)) then
          s.updStep inst tag (fun p => if p.reruns < pr.budget then { p with reruns := p.reruns + 1 } else { p with clipOver := true })
        else s) ((im.layers.drop pr.firstLayer).take pr.layers) s
  | _, _ => s

/-- The counts of a finished step join the committed pairs (R57); of a failed one they go. -/
def settleClips (inst : Nat) (bubble keep : Bool) (s : State) : State :=
  s.updInst inst (fun n =>
    let mine := n.stepClips.filter (fun c => decide (256 ≤ c.1) == bubble)
    { n with
      clips := if keep then mine.foldl (fun t c => Tbl.upd (0, 0) t (c.1 % 256) (fun v => (v.1 + c.2.1, v.2 + c.2.2))) n.clips else n.clips
      stepClips := n.stepClips.filter (fun c => decide (256 ≤ c.1) != bubble) })

/-! ## Delivery -/

/-- RESULT of a serving or evaluation step that ends well (Table 13-6). -/
def Step.doneResult (p : Step) : Nat := (if p.kind = 0 then p.begins else 0) + p.rows <<< 72 + p.reruns <<< 96

/-- Output rows leave OUT_REGION in placed order and land in host order (R99, R352). -/
def writeRows (inst addr width : Nat) (data : Bytes) : List Nat → Nat → State → State
  | [], _, s => s
  | h :: rest, i, s => writeRows inst addr width data rest (i + 1) (hostWrite inst (addr + h * width) (sub data (i * width) width) s)

/-- A serving or evaluation step whose work is done is delivered: results, then its completion (R30, R204); a poisoned output line is never written, and the step ends with FAILED_MEMORY (R183, R317). -/
def deliver (inst tag : Nat) (s : State) : State :=
  match s.stepOf inst tag with
  | none => s
  | some p =>
    match s.progOf inst p.program with
    | none => endStep inst tag St.failedDevice 0 s
    | some pr =>
      match readBytes inst pr.outRegion (p.rows * pr.outRow) [] s with
      | (some data, s1) =>
        stepBoundary inst (endStep inst tag St.done p.doneResult (settleClips inst (p.kind != 0) true (writeRows inst p.outAddr pr.outRow data p.order 0 (seedHistories inst p s1))))
      | (none, s1) =>
        let s2 := endStep inst tag St.failedMemory (p.failResult 0) (settleClips inst (p.kind != 0) false s1)
        stepBoundary inst (if p.kind = 0 then setGap inst s2 else s2)

/-- The counts of a sub-step that ended join those of the step's earlier sub-steps, under the pair plus 512 (R60). -/
def rollClips (inst : Nat) (s : State) : State :=
  s.updInst inst (fun n => { n with
    stepClips := (n.stepClips.filter (fun c => decide (256 ≤ c.1) && decide (c.1 < 512))).foldl
      (fun t c => Tbl.upd (0, 0) t (c.1 + 256) (fun v => (v.1 + c.2.1, v.2 + c.2.2)))
      (n.stepClips.filter (fun c => decide (c.1 < 256) || decide (512 ≤ c.1))) })

/-- No core of a step still runs its task. -/
def State.tasksOver (s : State) (p : Step) (fn : Nat) : Bool :=
  p.cores.all (fun c => match (s.work c).task with | some t => !(t.fn == fn && t.tag == p.tag) | none => true)

/-- Every task of a step's occurrence or sub-step has ended (R452): a serving step is delivered; a bubble step's next sub-step, or its sweep, may start; an evaluation step after its last sub-step is delivered. -/
def stepTasksEnd (inst tag : Nat) (s : State) : State :=
  match s.stepOf inst tag with
  | none => s
  | some p =>
    match p.at_ with
    | .running .. => deliver inst tag (decideLayers inst tag false s)
    | .bubble n =>
      let s1 := (rollClips inst (decideLayers inst tag true s)).updStep inst tag (fun p => { p with cores := [] })
      let last := match (s.inst inst).image with
        | some im => match im.program p.program with | some pr => im.lastSub pr | none => 0
        | none => 0
      if p.kind = 2 && n ≥ last then deliver inst tag s1
      else s1
    | _ => s

/-- Input bytes of a step whose rows come from the host. -/
def State.rowBytes (s : State) (inst : Nat) (p : Step) : Nat :=
  if p.inFabric then 0 else match s.progOf inst p.program with | some pr => p.rows * pr.inRow | none => 0

/-- Rows of a step that the ingest has still to place (Table 1-2 step 3, R352). -/
def State.rowsOut (s : State) (inst : Nat) (p : Step) : Bool :=
  s.rowBytes inst p != 0
  && (decide (p.asked < s.rowBytes inst p) || !p.stage.isEmpty || s.dmaReads.any (fun r => r.fn == inst && r.use == .ingest p.tag))

/-- A step goes on once its tasks have ended and its rows have been placed. -/
def tasksMayEnd (inst tag : Nat) (s : State) : State :=
  match s.stepOf inst tag with
  | some p => if !p.cores.isEmpty && s.tasksOver p inst && !s.rowsOut inst p then stepTasksEnd inst tag s else s
  | none => s

/-! ## FENCE and END -/

/-- The frames of a remote send are acknowledged, so its data is visible (R86, R272). -/
def State.sendVisible (s : State) (r : Nat × Nat × Nat) : Bool :=
  let f := s.src r.2.1
  decide (f.nextSeq ≥ r.2.2) && f.retained.all (fun k => decide (k.seq ≥ r.2.2))

/-- A job of the data mover that writes SRAM, and one that reads it outward. -/
def UnitJob.inward (j : UnitJob) : Bool := if fld j.d 7 0 = 5 then (moveD j.d).dir != 1 else (spillD j.d).restore
def UnitJob.outward (j : UnitJob) : Bool := if fld j.d 7 0 = 5 then (moveD j.d).dir != 0 else !(spillD j.d).restore

/-- The classes of FENCE (Table 3-11) that are complete. -/
def State.fenceClear (s : State) (core mask : Nat) : Bool :=
  let w := s.work core
  let moves := w.moveQ.filter (fun j => !j.predicted)
  (!nbit mask 0 || w.arrayQ.all (fun j => match j with | .prologue .. => true | _ => false))
  && (!nbit mask 1 || (w.loadQ.isEmpty && !moves.any UnitJob.inward))
  && (!nbit mask 2 || (w.sendQ.isEmpty && w.remoteQ.all s.sendVisible && !moves.any UnitJob.outward))
  && (!nbit mask 3 || (w.epiQ.isEmpty && w.runs.isEmpty && (prologueReady core s).isNone && !w.tilesBefore (w.seq + 1)))

/-- A FENCE lets its core go on. -/
def fenceEnds (core : Nat) (s : State) : State :=
  s.updWork core (fun w => { w with mode := .running, remoteQ := w.remoteQ.filter (fun r => !s.sendVisible r) })

/-- A core's task ends (R452). -/
def taskEnds (core : Nat) (s : State) : State :=
  let s1 := s.updWork core (fun w => { w with mode := .idle, task := none, remoteQ := [] })
  match (s.work core).task with
  | some t => tasksMayEnd t.fn t.tag s1
  | none => s1

/-- END's condition (R452). -/
def State.endClear (s : State) (core : Nat) : Bool := s.fenceClear core 15 && (s.work core).sigQ.isEmpty

/-- The steps that a core held on FENCE or END count in WAIT_STEPS (Table 3-2); no row carries their number, a free value (log entry 5). -/
def heldSteps (core : Nat) (s : State) : State :=
  s.draw.2.updCore core (fun c => { c with waitSteps := c.waitSteps + s.draw.1.setWidth 64 })

/-- A core that has held on FENCE or END goes on when its condition holds. -/
def settle (core : Nat) (s : State) : State :=
  match (s.work core).mode with
  | .fencing mask => if s.fenceClear core mask then fenceEnds core (heldSteps core s) else s
  | .ending => if s.endClear core then taskEnds core (heldSteps core s) else s
  | _ => s

end Sys2Proof.Machine
end

