-- ==== Sys2Proof/Machine/Array.lean ====
section
/-! DEFINITION. The main array and the side-array: when rows enter, and what a PASS computes (03_core_array R74 to R89, 04_adapter_path R96 to R112). -/

namespace Sys2Proof.Machine

/-! ## Issue -/

/-- The configuration the last issued SIDE gives (R104). -/
def Work.lastSide (w : Work) : Option SideCfg :=
  match w.arrayQ.reverse.findSome? (fun j => match j with | .side c _ => some c | _ => none) with
  | some c => some c
  | none => w.side

/-- Kind of a PASS under a SIDE; a PASS without TICK runs the main array alone. -/
def passKind (p : PassD) (side : Option SideCfg) : Option PassKind := if p.tick then side.map SideCfg.kind else none

/-- The main array runs: TICK = 0, or a main pass with side. -/
def mainRuns (p : PassD) (side : Option SideCfg) : Bool := !p.tick || passKind p side == some .main

/-- Every check that is made when a PASS is issued (R79, R85, R102, R104, R126, R220). -/
def passIssueOk (core : Nat) (d : Desc) (s : State) : Bool :=
  let w := s.work core
  let p := passD d
  passOk d
  && (!p.tick || (w.sideIssued && (match w.lastSide with | some c => tickOk c p | none => false)))
  && (!mainRuns p w.lastSide || (if p.new then w.loadIssued else w.everActive))
  && (p.srcRing == 0 || (s.coreObj core p.srcSync 0 && decide (p.src + p.srcRing * 4096 ≤ sramBytes)))
  && (!p.final || w.epilogue.isSome)
  && !s.areaHit core p.accAddr (if p.accRing = 0 then 256 * p.rows else 4096 * p.accRing)

/-- Queue a PASS: a NEW pass spends the last load, and a block is then active (R79). -/
def queuePass (core : Nat) (d : Desc) (residues : List Residue) (s : State) : State :=
  s.updWork core (fun w =>
    let p := passD d
    let job : PassJob := { d := d, seq := w.seq, started := false, blk := none, epi := w.epilogue, side := none, kIndex := 0, entered := 0, written := 0, rows := [], residues := residues }
    let runs := mainRuns p w.lastSide
    { w with
      arrayQ := w.arrayQ ++ [.pass job]
      loadIssued := if runs && p.new then false else w.loadIssued
      everActive := if runs && p.new then true else w.everActive })

/-! ## Slot tables (Tables 4-2 and 4-3) -/

structure SlotHdr where
  count : Nat
  tkt : Nat
  accBase : Nat
  kblocks : Nat
deriving DecidableEq, Repr

def slotHdr (w : Nat) : SlotHdr := { count := nfld w 10 0, tkt := nfld w 34 16, accBase := nfld w 53 35, kblocks := nfld w 76 64 }

def slotHdrOk (table w : Nat) : Bool :=
  let h := slotHdr w
  nfld w 15 11 == 0 && nfld w 63 54 == 0 && nfld w 511 77 == 0 && decide (1 ≤ h.count) && decide (h.count ≤ 1024)
  && aligned 64 h.tkt && aligned 256 h.accBase && decide (1 ≤ h.kblocks) && decide (h.kblocks ≤ 4096)
  && decide (table + 64 + 16 * h.count ≤ sramBytes)

structure SlotEnt where
  ticket : Nat
  rank : Nat
  sfmt : Bool
  efmt : Bool
  aAddr : Nat
  bAddr : Nat
  ascale : Nat
  bscale : Nat
  alpha : Nat
deriving DecidableEq, Repr

def slotEnt (w : Nat) : SlotEnt :=
  { ticket := nfld w 15 0, rank := nfld w 18 16, sfmt := nbit w 19, efmt := nbit w 20, aAddr := nfld w 50 32, bAddr := nfld w 82 64,
    ascale := nfld w 103 96, bscale := nfld w 111 104, alpha := nfld w 119 112 }

def slotEntOk (c : SideCfg) (w : Nat) : Bool :=
  let e := slotEnt w
  nfld w 31 21 == 0 && nfld w 63 51 == 0 && nfld w 95 83 == 0 && nfld w 127 120 == 0
  && e.ticket != 0xFFFF && decide (e.rank ≤ 4) && decide (e.rank ≤ c.rank) && (!e.sfmt || c.sfmt) && (!e.sfmt || !e.efmt)
  && aligned 64 e.aAddr && aligned 64 e.bAddr && (!e.sfmt || (e.ascale == 0 && e.bscale == 0)) && e.alpha != 0xFF

def SlotEnt.fmt (e : SlotEnt) : Fmt := if e.sfmt then bf16 else if e.efmt then e5m2 else e4m3
def SlotEnt.ebytes (e : SlotEnt) : Nat := if e.sfmt then 2 else 1
def SlotEnt.scaleOf (e : SlotEnt) (code : Nat) : Num := if e.sfmt then .fin false 1 0 else e8m0 code

/-- Why a row of a TICK pass cannot go on. -/
inductive RowErr where
  | ticket (t : Nat)
  | poison (addr : Nat)
  | desc
deriving DecidableEq, Repr

/-- Bytes a unit of a core reads, or why it cannot. -/
def fetch (core a n : Nat) (s : State) : Except RowErr Bytes :=
  if a + n > sramBytes then .error .desc
  else if s.sramPoison core a n then .error (.poison a)
  else .ok (s.sramRead core a n)

/-- As `fetch`, where R102 makes an address past the end of SRAM a ticket fault. -/
def fetchT (core a n t : Nat) (s : State) : Except RowErr Bytes :=
  if a + n > sramBytes then .error (.ticket t) else fetch core a n s

/-- Search the slot table for a ticket; the entries read on the way are strictly ascending (R98, R101). -/
def findEntry (core : Nat) (c : SideCfg) (t : Nat) (s : State) : Nat → Nat → Option Nat → Except RowErr SlotEnt
  | 0, _, _ => .error (.ticket t)
  | n + 1, a, prev =>
    match fetchT core a 16 t s with
    | .error x => .error x
    | .ok bs =>
      let w := num bs 0 16
      let e := slotEnt w
      if (match prev with | some q => decide (e.ticket ≤ q) | none => false) || e.ticket = 0xFFFF then .error (.ticket t)
      else if e.ticket = t then (if slotEntOk c w then .ok e else .error (.ticket t))
      else findEntry core c t s n (a + 16) (some e.ticket)

/-- Slices of a rank code of an entry (R108). -/
def SlotEnt.slices (e : SlotEnt) : Nat := slicesOf e.rank

/-! ## Starting a PASS -/

/-- A PASS waits, starts, or faults. -/
inductive StartEnd where
  | waits
  | starts (w : Work)
  | err (e : RowErr)
deriving DecidableEq, Repr

/-- Loads issued before a PASS that have not completed. -/
def Work.loadsBefore (w : Work) (seq : Nat) : Bool := w.loadQ.any (fun j => decide (j.seq < seq))

/-- Rows that the source of a PASS must hold (Table 3-6). -/
def sourceOk (p : PassD) (rowBytes : Nat) : Bool :=
  aligned (min rowBytes 16) p.src && (p.srcRing != 0 || decide (p.src + p.rows * rowBytes ≤ sramBytes))

/-- Whether a PASS may begin to enter rows, and the core's work once it has: its block is made active, its side configuration and K index are taken (R79, R103, R112). -/
def startPass (core : Nat) (j : PassJob) (s : State) : StartEnd :=
  let w := s.work core
  let p := passD j.d
  let kind := passKind p w.side
  let runs := mainRuns p w.side
  if p.tick && !w.sideReady then .waits
  else if runs && p.new && (w.loadsBefore j.seq || w.shadow.isNone) then .waits
  else
    let w1 := if runs && p.new then { w with active := w.shadow, shadow := none } else w
    -- a phase-two pass reads no rows; any other takes K_pass from the active block
    let shape := match kind, w1.active with
      | some .phaseTwo, _ => some 0
      | _, some b => (kpassOf b p.afmt).map (fun k => rowBytesOf k p.afmt)
      | _, none => none
    match shape with
    | none => .err .desc
    | some rb =>
      if rb != 0 && !sourceOk p rb then .err .desc
      else if !p.tick then .starts { w1 with arrayQ := w1.arrayQ.map (fun q => match q with | .pass x => if x.seq = j.seq then .pass { x with started := true, blk := w1.active } else q | _ => q) }
      else match w.side with
        | none => .err .desc
        | some c =>
          match fetchT core c.table 64 0 s with
          | .error e => .err e
          | .ok bs =>
            let h := slotHdr (num bs 0 64)
            if !slotHdrOk c.table (num bs 0 64) then .err (.ticket 0)
            else if p.accAddr < h.accBase then .err (.ticket 0)
            else
              let k := if w.tickPasses = 0 then 0 else if p.new then (w.kIndex + 1) % h.kblocks else w.kIndex
              .starts { w1 with
                kIndex := k, tickPasses := w.tickPasses + 1, sideReady := false
                arrayQ := w1.arrayQ.map (fun q => match q with | .pass x => if x.seq = j.seq then .pass { x with started := true, blk := w1.active, side := some c, kIndex := k } else q | _ => q) }

/-! ## Row entry -/

/-- Address of the source row `i` of a PASS. -/
def sourceRow (p : PassD) (rb i : Nat) : Nat := if p.srcRing = 0 then p.src + i * rb else p.src + (i * rb) % (p.srcRing * 4096)

/-- Bytes of one row as it enters: the elements, then the MXFP4 scale byte; an empty string marks a row with a poisoned word. -/
def rowBytesAt (core : Nat) (p : PassD) (rb i : Nat) (s : State) : Bytes :=
  let a := sourceRow p rb i
  if s.sramPoison core a rb || (p.afmt = 2 && s.sramPoison core (p.ascale + i) 1) then []
  else s.sramRead core a rb ++ (if p.afmt = 2 then s.sramRead core (p.ascale + i) 1 else [])

/-- Tiles of a FINAL pass that have entered and are not handed over, and those that wait in the queue (R128). -/
def PassJob.tilesAhead (j : PassJob) (w : Work) : Nat := w.epiQ.length + (cdiv j.entered 64 - j.written / 64)

/-- Tiles that may enter beside those ahead: two places of the epilogue queue, or the slots of an accumulator ring where they are fewer (R89, R128). -/
def PassJob.tileRoom (j : PassJob) (w : Work) : Nat :=
  let p := passD j.d
  let places := if p.accRing = 0 then 2 else min 2 (max 1 (p.accRing / 4))
  places - min places (j.tilesAhead w)

/-- How many rows may enter now: a ring pass enters by its segments, a FINAL pass while the epilogue queue has places. -/
def PassJob.mayEnter (j : PassJob) (w : Work) : Nat :=
  let p := passD j.d
  let left := p.rows - j.entered
  if p.srcRing != 0 then 0
  else if p.final then min left (64 * j.tileRoom w)
  else left

/-- Let `n` more rows of a PASS enter the array. -/
def enterRows (core : Nat) (j : PassJob) (n : Nat) (s : State) : State :=
  let p := passD j.d
  let rb := match passKind p j.side, j.blk with
    | some .phaseTwo, _ => 0
    | _, some b => ((kpassOf b p.afmt).map (fun k => rowBytesOf k p.afmt)).getD 0
    | _, none => 0
  let rows := (List.range n).map (fun i => if rb = 0 then [0] else rowBytesAt core p rb (j.entered + i) s)
  let runs := mainRuns p j.side
  s.updCore core (fun c => { c with
    rows := if runs then c.rows + BitVec.ofNat 64 n else c.rows
    work := { c.work with arrayQ := c.work.arrayQ.map (fun q => match q with | .pass x => if x.seq = j.seq then .pass { x with entered := x.entered + n, rows := x.rows ++ rows } else q | _ => q) } })

/-- A row error as the exception it raises (R85, R98, R71). -/
def rowFault (core seq : Nat) (e : RowErr) (s : State) : State :=
  match e with
  | .ticket t => ticketFault core t seq s
  | .poison a => sramFault core a seq s
  | .desc => descFaultAt core seq s

/-- The first job of the array that has not let all its rows in. -/
def Work.frontJob (w : Work) : Option ArrayJob :=
  w.arrayQ.find? (fun j => match j with | .pass p => decide (p.entered < (passD p.d).rows) | _ => true)

def ArrayJob.seq : ArrayJob → Nat
  | .pass p => p.seq
  | .side _ n => n
  | .prologue _ n => n

/-- Advance the array as far as it goes: configurations and attachments take effect in order, passes start and enter rows (R80, R84, R112, R126). -/
def pumpGo (core : Nat) : Nat → State → State
  | 0, s => s
  | n + 1, s =>
    let w := s.work core
    match w.frontJob with
    | none => s
    | some (.side c seq) =>
      pumpGo core n (s.updWork core (fun w => { w with
        side := some c, kIndex := 0, tickPasses := 0, sideReady := false, arrayQ := w.arrayQ.filter (fun j => j.seq != seq) }))
    | some (.prologue att seq) =>
      let s1 := match att with | some id => takeEffect core id s | none => s
      if s1.coreStopped core then s1
      else pumpGo core n (s1.updWork core (fun w => { w with prologue := att, arrayQ := w.arrayQ.filter (fun j => j.seq != seq) }))
    | some (.pass p) =>
      if !p.started then
        match startPass core p s with
        | .waits => s
        | .err e => rowFault core p.seq e s
        | .starts w' => pumpGo core n (s.updWork core (fun _ => w'))
      else
        let k := p.mayEnter w
        if k = 0 then s
        else
          let s1 := enterRows core p k s
          if p.entered + k = (passD p.d).rows then pumpGo core n s1 else s1

def pumpArray (core : Nat) (s : State) : State := if s.coreStopped core then s else pumpGo core (2 * (s.work core).arrayQ.length + 2) s

/-- Add to GAP_STEPS (Table 3-2). -/
def addGap (core n : Nat) (s : State) : State := s.updCore core (fun c => { c with gapSteps := c.gapSteps + BitVec.ofNat 64 n })

/-! ## Results -/

/-- Scale of the weight at row k, column j of a block (R75, R83). -/
def Block.scaleAt (b : Block) (k j : Nat) : Num :=
  if b.fmt = 3 then .fin false 1 0
  else if !b.mx then e8m0 b.tscale
  else if b.trans then e8m0 (num b.scales (2 * k + j / 32) 1)
  else e8m0 (num b.scales j 1)

/-- Elements and MX scale of a row. -/
def rowElems (afmt kpass : Nat) (bs : Bytes) : List Num := (unpackElems (actBits afmt) kpass bs).map (decode (actFmt afmt))

def rowScaleOf (afmt kpass : Nat) (bs : Bytes) : Num := if afmt = 2 then e8m0 (num bs (rowBytesOf kpass 2) 1) else .fin false 1 0

/-- The exact column sums of a row (R75, R83). -/
def columnSums (b : Block) (kpass afmt : Nat) (bs : Bytes) : List Num :=
  let xs := rowElems afmt kpass bs
  let r := rowScaleOf afmt kpass bs
  (List.range 64).map (fun j =>
    Num.mul (Num.sum ((List.range kpass).map (fun k =>
      Num.mul (Num.mul (decode (weightFmt b.fmt) (b.elems.getD (k * 64 + j) 0)) (b.scaleAt k j)) (xs.getD k (.fin false 0 0))))) r)

/-- Round terms into FP32 accumulators, one rounding each: new bytes, and whether a result is not finite (R75 to R77). -/
def accumulate (acc : Bool) (old : Bytes) (terms : List Num) : Bytes × Bool :=
  let cs := (List.range terms.length).map (fun j =>
    let t := terms.getD j (.fin false 0 0)
    convert fp32 (if acc then Num.add (decode fp32 (num old (4 * j) 4)) t else t))
  (cs.flatMap (fun c => leBytes 4 c.code), cs.any (·.nf))

/-- Address of the accumulator of row `i`. -/
def accRow (p : PassD) (i : Nat) : Nat := if p.accRing = 0 then p.accAddr + 256 * i else p.accAddr + (256 * i) % (p.accRing * 4096)

/-- One product into a ledger word; a word that stands at its bound after an overflow of the step stays (R64, R65). -/
def ledgerTerm (stuck : Bool) (acc : BitVec 128 × Bool × Bool) (et : Int) (t : Num) : BitVec 128 × Bool × Bool :=
  if (stuck || acc.2.1) && (acc.1.toInt = ledgerMax || acc.1.toInt = -(2 ^ 127)) then acc
  else
    let r := ledgerAdd acc.1 t et
    (r.word, acc.2.1 || r.ovf, acc.2.2 || r.nonfinite)

/-- Phase one of a row for one slice (R105, R106): the bytes of its 16 u values, the non-finite indicator, the ledger flags. -/
def phaseOne (c : SideCfg) (e : SlotEnt) (k kpass afmt : Nat) (aBlock row old : Bytes) (stuck : Bool) : Bytes × Bool × Bool :=
  let xs := rowElems afmt kpass row
  let sc := Num.mul (e.scaleOf e.ascale) (rowScaleOf afmt kpass row)
  let aElem := fun (kk col : Nat) => decode e.fmt (num aBlock ((kk * 16 + col) * e.ebytes) e.ebytes)
  if c.ledger then
    let ws := (List.range 16).map (fun col =>
      ((List.range kpass).map (fun kk => Num.mul (Num.mul (aElem kk col) (xs.getD kk (.fin false 0 0))) sc)).foldl
        (fun acc t => ledgerTerm stuck acc c.eT t) (word128 old (16 * col), false, false))
    (ws.flatMap (fun w => leBytes 16 w.1.toNat), false, ws.any (fun w => w.2.1 || w.2.2))
  else
    let vs := (List.range 16).map (fun col => Num.mul (Num.sum ((List.range kpass).map (fun kk => Num.mul (aElem kk col) (xs.getD kk (.fin false 0 0))))) sc)
    let (bs, nf) := accumulate (k != 0) old vs
    (bs, nf, false)

/-- Phase two of a row (R108): the accumulators after every slice, and the non-finite indicator. -/
def phaseTwo (e : SlotEnt) (u : Bytes) (slices : List Bytes) (acc : Bytes) : Bytes × Bool :=
  (List.range slices.length).foldl (fun (st : Bytes × Bool) sl =>
    let b := slices.getD sl []
    let ub := (List.range 16).map (fun c => convert bf16 (decode fp32 (num u (4 * (16 * sl + c)) 4)))
    let xs := ub.map (fun c => decode bf16 c.code)
    let ts := (List.range 64).map (fun j =>
      Num.mul (Num.mul (Num.sum ((List.range 16).map (fun c => Num.mul (decode e.fmt (num b ((j * 16 + c) * e.ebytes) e.ebytes)) (xs.getD c (.fin false 0 0)))))
        (e.scaleOf e.bscale)) (e8m0 e.alpha))
    let (out, nf) := accumulate true st.1 ts
    (out, st.2 || nf || ub.any (·.nf))) (acc, false)

/-- What a row's side work writes. -/
structure SideOut where
  writes : List (Nat × Bytes) := []
  nf : Bool := false
  ledger : Bool := false
  /-- The ticket whose entry the row used, NONE where it used none. -/
  used : Nat := 0xFFFF
deriving DecidableEq, Repr

/-- The side-array's work on row `i`, given the accumulators the main array leaves (R98 to R108). -/
def sideRow (core : Nat) (j : PassJob) (c : SideCfg) (h : SlotHdr) (i prev : Nat) (row accs : Bytes) (s : State) : Except RowErr SideOut :=
  let p := passD j.d
  let q := (p.accAddr - h.accBase) / 256 + i
  match fetchT core (h.tkt + 2 * q) 2 0 s with
  | .error x => .error x
  | .ok tb =>
    let t := num tb 0 2
    if t < prev || (t ≥ 0x2000 && t ≠ 0xFFFF) then .error (.ticket t)
    else
      let uAddr := c.uAddr + (if c.ledger then 1024 else 256) * q
      if uAddr + (if c.ledger then 1024 else 256) > sramBytes then .error (.ticket t)
      else if t = 0xFFFF then .ok {}
      else match findEntry core c t s h.count (c.table + 64) none with
        | .error x => .error x
        | .ok e =>
          match c.kind with
          | .phaseTwo =>
            match fetch core uAddr (64 * e.slices) s, fetch core e.bAddr (e.slices * 1024 * e.ebytes) s with
            | .ok u, .ok b =>
              let (out, nf) := phaseTwo e u (chunks (1024 * e.ebytes) e.slices b) accs
              .ok { writes := [(accRow p i, out)], nf := nf, used := t }
            | .error x, _ => .error x
            | _, .error x => .error x
          | _ =>
            let sl := c.rslice
            if e.slices ≤ sl then .ok {}
            else
              let kpass := match j.blk with | some b => (kpassOf b p.afmt).getD 16 | none => 16
              let ub := (if c.ledger then 16 else 4) * 16
              match fetch core (e.aAddr + (sl * h.kblocks + j.kIndex) * kpass * 16 * e.ebytes) (kpass * 16 * e.ebytes) s, (if c.ledger || j.kIndex != 0 then fetch core (uAddr + ub * sl) ub s else .ok (List.replicate ub 0)) with
              | .ok a, .ok old =>
                let (out, nf, lf) := phaseOne c e j.kIndex kpass p.afmt a row old (s.ledgerStuck (s.coreInst core))
                .ok { writes := [(uAddr + ub * sl, out)], nf := nf, ledger := lf, used := t }
              | .error x, _ => .error x
              | _, .error x => .error x

/-- Residue findings on a row (R78). -/
def PassJob.residueAt (j : PassJob) (i : Nat) : List Residue :=
  if mainRuns (passD j.d) j.side then j.residues.filter (fun r => r.row == i) else []

def residueDetail (core : Nat) (r : Residue) : Nat := core + (r.col % 64) <<< 12 + (r.cellRow % 16) <<< 18

/-- The outcome of one row: its writes, flags and the ticket it used, or why it stops. -/
def rowResult (core : Nat) (j : PassJob) (i prev : Nat) (s : State) : Except RowErr (SideOut × Nat) :=
  let p := passD j.d
  let row := j.rows.getD i []
  let kpass := match j.blk with | some b => (kpassOf b p.afmt).getD 16 | none => 16
  let runs := mainRuns p j.side
  if row.isEmpty then .error (.poison (sourceRow p (rowBytesOf kpass p.afmt) i))
  else
    let needAcc := p.acc || (passKind p j.side == some .phaseTwo)
    match (if needAcc then fetch core (accRow p i) 256 s else .ok []) with
    | .error x => .error x
    | .ok old =>
      let main := match runs, j.blk with
        | true, some b => accumulate p.acc old (columnSums b kpass p.afmt row)
        | _, _ => (old, false)
      let mainW := if runs then [(accRow p i, main.1)] else []
      match j.side with
      | none => .ok ({ writes := mainW, nf := main.2 }, 0xFFFF)
      | some c =>
        match fetchT core c.table 64 0 s with
        | .error x => .error x
        | .ok hb =>
          match sideRow core j c (slotHdr (num hb 0 64)) i prev row old s with
          | .error x => .error x
          | .ok o =>
            let q := ((slotHdr (num hb 0 64)).tkt + 2 * ((p.accAddr - (slotHdr (num hb 0 64)).accBase) / 256 + i))
            .ok ({ o with writes := mainW ++ o.writes, nf := o.nf || main.2 }, num (s.sramRead core q 2) 0 2)

/-- Write a row's results, then look at the rest; `prev` is the ticket of the row before, `used` the entry the side-array holds (R98, R111). -/
def rowsGo (core : Nat) (j : PassJob) : List Nat → Nat → Nat → State → State
  | [], _, _, s => s
  | i :: is, prev, used, s =>
    let rs := j.residueAt i
    let period := match j.blk with | some b => rowPeriod b (passD j.d).afmt | none => 1
    match rs.find? (·.again) with
    | some r =>
      coreException core 1 5 (residueDetail core r) .device j.seq (s.updCore core (fun c => { c with badCell := some (r.col % 64, r.cellRow % 16) }))
    | none =>
      match rowResult core j i prev s with
      | .error e => rowFault core j.seq e s
      | .ok (o, t) =>
        let s1 := forEach (fun r s => addGap core period (raise (s.coreInst core) 1 4 (residueDetail core r) s)) rs s
        let s2 := forEach (fun w s => sramWrite core w.1 w.2 s) o.writes s1
        let s3 := markLedger core o.ledger (markNonfinite core o.nf s2)
        let s4 := if i > 0 && o.used != used && o.used != 0xFFFF then addGap core 20 s3 else s3
        let s5 := s4.updWork core (fun w => { w with arrayQ := w.arrayQ.map (fun q => match q with | .pass x => if x.seq = j.seq then .pass { x with written := i + 1 } else q | _ => q) })
        rowsGo core j is t o.used s5

/-- Tiles of a FINAL pass that its written rows complete: rows from `a` to `b`. -/
def tilesDone (j : PassJob) (a b : Nat) : List EpiTile :=
  let p := passD j.d
  if !p.final then []
  else (List.range (cdiv p.rows 64)).filterMap (fun k =>
    let last := min p.rows (64 * k + 64)
    if a < last && last ≤ b then some { att := j.epi.getD 0, acc := (List.range (last - 64 * k)).map (fun i => accRow p (64 * k + i)), seq := j.seq } else none)

/-- Results of the first PASS that has rows in the pipeline reach the accumulators; finished tiles go to the epilogue; a pass whose rows are all written is over. -/
def passResults (core : Nat) (s : State) : State :=
  if s.coreStopped core then s
  else
    match (s.work core).arrayQ.findSome? (fun j => match j with | .pass p => if p.written < p.entered then some p else none | _ => none) with
    | none => s
    | some j =>
      let s1 := rowsGo core j ((List.range (j.entered - j.written)).map (fun i => j.written + i)) (if j.written = 0 then 0 else lastTicket j) (if j.written = 0 then 0xFFFF else lastTicket j) s
      if s1.coreStopped core then s1
      else
        let s2 := s1.updWork core (fun w => { w with
          epiQ := w.epiQ ++ tilesDone j j.written j.entered
          arrayQ := if j.entered = (passD j.d).rows then w.arrayQ.filter (fun q => q.seq != j.seq) else w.arrayQ })
        pumpArray core s2
where
  /-- The ticket of the last written row, so that the order holds across segments. -/
  lastTicket (j : PassJob) : Nat :=
    match j.side with
    | none => 0
    | some c =>
      let h := slotHdr (num (s.sramRead core c.table 64) 0 64)
      num (s.sramRead core (h.tkt + 2 * (((passD j.d).accAddr - h.accBase) / 256 + (j.written - 1))) 2) 0 2

/-! ## What frees a held PASS -/

/-- The front PASS, if rows of it wait. -/
def Work.waitingPass (w : Work) : Option PassJob :=
  match w.frontJob with
  | some (.pass p) => some p
  | _ => none

/-- The next segment of a ring pass: at most 64 rows, once SRC_SYNC holds at least 1 (R89). -/
def ringSegment (core waited : Nat) (s : State) : State :=
  match (s.work core).waitingPass with
  | some p =>
    let d := passD p.d
    let room := if d.final then p.tileRoom (s.work core) else 1
    if d.srcRing != 0 && p.started && (s.obj d.srcSync).count != 0 && room != 0 && !s.coreStopped core then
      pumpArray core (addGap core waited (enterRows core p (min 64 (d.rows - p.entered)) (pace d.srcSync s)))
    else s
  | none => s

/-- A PASS held by a full epilogue queue resumes (R128). -/
def queueResume (core waited : Nat) (s : State) : State :=
  match (s.work core).waitingPass with
  | some p => if (passD p.d).final && p.started && p.mayEnter (s.work core) != 0 && !s.coreStopped core then pumpArray core (addGap core waited s) else s
  | none => s

/-- The side-array holds the first block of the next TICK pass (R112). -/
def sideLoaded (core waited : Nat) (s : State) : State :=
  let w := s.work core
  if w.side.isNone || w.sideReady || s.coreStopped core then s
  else
    let held := match w.waitingPass with | some p => (passD p.d).tick && !p.started | none => false
    pumpArray core ((if held then addGap core waited s else s).updWork core (fun w => { w with sideReady := true }))

/-! ## LOAD_BLOCK (R79, R82, R83) -/

/-- The block a load brings: element [k][j] is stored [k][j], or [j][k] under TRANS. -/
def blockOf (core : Nat) (l : LoadD) (s : State) : Block :=
  let bits := weightBits l.fmt
  let stored := (List.range l.rows).map (fun r => unpackElems bits l.cols (s.sramRead core (l.addr + r * l.step) l.rowBytes))
  { fmt := l.fmt, mx := l.mx, k32 := l.k32, trans := l.trans, tscale := l.tscale, scales := s.sramRead core l.scaleAddr l.scaleBytes,
    elems := (List.range l.kpass).flatMap (fun k => (List.range 64).map (fun j =>
      if l.trans then (stored.getD j []).getD k 0 else (stored.getD k []).getD j 0)) }

/-- Poisoned address among those a load reads. -/
def loadPoison (core : Nat) (l : LoadD) (s : State) : Option Nat :=
  (((List.range l.rows).map (fun r => (l.addr + r * l.step, l.rowBytes))) ++ [(l.scaleAddr, l.scaleBytes)]).findSome?
    (fun x => if s.sramPoison core x.1 x.2 then some x.1 else none)

/-- A NEW pass issued before a load has still to take its block. -/
def Work.newPassBefore (w : Work) (seq : Nat) : Bool :=
  w.arrayQ.any (fun q => match q with | .pass p => decide (p.seq < seq) && !p.started && (passD p.d).new && mainRuns (passD p.d) w.lastSide | _ => false)

/-- The front load finishes: it fills the shadow bank, and a PASS that waited for it goes on. A load issued behind a NEW pass that has not taken its block has not begun (log entry 21). -/
def loadDone (core waited : Nat) (s : State) : State :=
  let w := s.work core
  match w.loadQ with
  | [] => s
  | j :: rest =>
    if w.newPassBefore j.seq then s
    else
      let l := loadD j.d
      match loadPoison core l s with
      | some a => sramFault core a j.seq s
      | none =>
        let held := match w.waitingPass with | some p => !p.started && (passD p.d).new | none => false
        let s1 := if held then addGap core waited s else s
        pumpArray core (s1.updWork core (fun w => { w with loadQ := rest, shadow := some (blockOf core l s) }))

end Sys2Proof.Machine
end

