-- ==== Sys2Proof/Machine/Descriptors.lean ====
section
/-! DEFINITION. The meanings of the core descriptors and of the events of the core's units (03_core_array R84 to R92, R452; 04_adapter_path R104, R112; 08_almanac R222 to R227). -/

namespace Sys2Proof.Machine

/-- A core's step fails by an error whose cause is recorded where it was found (R92, R183). -/
def coreFail (core : Nat) (why : StopWhy) (seq : Nat) (s : State) : State :=
  let s1 := stopCore core why seq s
  match (s.work core).task with
  | some t => failStep t.fn t.tag why s1
  | none => s1

/-! ## The array -/

/-- LOAD_BLOCK: handed to the load unit (R79, R84). -/
def execLoadBlock (core : CoreId) (d : Desc) (s : State) : Host.Outcome State Fault Refusal :=
  let c := core.toNat
  .next (issue c (loadOk d) (fun s =>
    issued c (s.updWork c (fun w => { w with loadQ := w.loadQ ++ [{ d := d, seq := w.seq, predicted := false }], loadIssued := true }))) s)

/-- LOAD_BLOCK_COMPLETE (R79, R81). -/
def execLoadBlockComplete (core : CoreId) (waited : Nat) (s : State) : Host.Outcome State Fault Refusal :=
  .next (settle core.toNat (loadDone core.toNat waited s))

/-- PASS (R75 to R89). -/
def execPass (core : CoreId) (d : Desc) (residues : List Residue) (words : List SramFind) (s : State) : Host.Outcome State Fault Refusal :=
  let c := core.toNat
  .next (issue c (passIssueOk c d s) (fun s => pumpArray c (issued c (queuePass c d residues (sramFound c words s)))) s)

/-- RING_SEGMENT_ENTRY (R89). -/
def execRingSegmentEntry (core : CoreId) (waited : Nat) (s : State) : Host.Outcome State Fault Refusal := .next (ringSegment core.toNat waited s)

/-- SIDE (R103, R104, R112). -/
def execSide (core : CoreId) (d : Desc) (s : State) : Host.Outcome State Fault Refusal :=
  let c := core.toNat
  .next (issue c (sideOk d) (fun s =>
    pumpArray c (issued c (s.updWork c (fun w => { w with arrayQ := w.arrayQ ++ [.side (sideCfg d) w.seq], sideIssued := true })))) s)

/-- EPILOGUE_QUEUE_RESUME (R89, R128). -/
def execEpilogueQueueResume (core : CoreId) (waited : Nat) (s : State) : Host.Outcome State Fault Refusal := .next (queueResume core.toNat waited s)

/-- PASS_RESULTS_WRITTEN (R80). -/
def execPassResultsWritten (core : CoreId) (s : State) : Host.Outcome State Fault Refusal := .next (settle core.toNat (passResults core.toNat s))

/-- SIDE_ARRAY_LOAD_COMPLETE (R112). -/
def execSideArrayLoadComplete (core : CoreId) (waited : Nat) (s : State) : Host.Outcome State Fault Refusal := .next (sideLoaded core.toNat waited s)

/-! ## TILEPROG -/

def newAtt (d : Desc) (w : Work) : Att := { id := w.nextAtt, d := d, seq := w.seq }

/-- TILEPROG WHERE 0: attaches a prologue, in issue order with PASS (R125, R126). -/
def execTileprogPrologue (core : CoreId) (d : Desc) (s : State) : Host.Outcome State Fault Refusal :=
  let c := core.toNat
  .next (issue c (tileOk d && (tileD d).place == 0) (fun s =>
    pumpArray c (issued c (s.updWork c (fun w => { w with
      atts := w.atts ++ [newAtt d w], arrayQ := w.arrayQ ++ [.prologue (some w.nextAtt) w.seq], nextAtt := w.nextAtt + 1 })))) s)

/-- TILEPROG WHERE 1: attaches an epilogue for the PASSes issued from now on (R125, R126). -/
def execTileprogEpilogue (core : CoreId) (d : Desc) (s : State) : Host.Outcome State Fault Refusal :=
  let c := core.toNat
  .next (issue c (tileOk d && (tileD d).place == 1) (fun s =>
    takeEffect c (s.work c).nextAtt (issued c (s.updWork c (fun w => { w with
      atts := w.atts ++ [newAtt d w], epilogue := some w.nextAtt, nextAtt := w.nextAtt + 1 })))) s)

/-- TILEPROG WHERE 2: a run over TILES tiles (R125, R127). -/
def execTileprogRun (core : CoreId) (d : Desc) (s : State) : Host.Outcome State Fault Refusal :=
  let c := core.toNat
  .next (issue c (tileOk d && (tileD d).place == 2) (fun s =>
    issued c (s.updWork c (fun w => { w with atts := w.atts ++ [newAtt d w], runs := w.runs ++ [w.nextAtt], nextAtt := w.nextAtt + 1 }))) s)

/-- TILEPROG WHERE 3: detaches the prologue and the epilogue (R125, R126). -/
def execTileprogDetach (core : CoreId) (d : Desc) (s : State) : Host.Outcome State Fault Refusal :=
  let c := core.toNat
  .next (issue c (tileOk d && (tileD d).place == 3) (fun s =>
    pumpArray c (issued c (s.updWork c (fun w => { w with epilogue := none, arrayQ := w.arrayQ ++ [.prologue none w.seq] })))) s)

/-! ## MOVE and SPILL -/

/-- Queue a job of the data mover. -/
def queueMove (d : Desc) (predicted : Bool) (core : Nat) (s : State) : State :=
  s.updWork core (fun w => { w with moveQ := w.moveQ ++ [{ d := d, seq := w.seq, predicted := predicted }] })

/-- The range of a MOVE or SPILL in device memory is not translated (R155), or lies in a training state (R232). -/
def rangeFault (inst la n : Nat) (write : Bool) (s : State) : Option Nat :=
  match (checkRange inst write s (n / 128) la).fault with
  | some p => some p
  | none => if s.closedState inst la n then some (la / 65536) else none

/-- Checks of a MOVE at issue (R85, R220, R227). -/
def moveIssueOk (core : Nat) (d : Desc) (s : State) : Bool :=
  let m := moveD d
  moveOk d && (!m.sig || s.coreObj core m.sync 0)
  && (match m.dir with | 0 => !s.areaHit core m.sram m.len | 2 => !s.areaHit core m.mem m.len | _ => true)

/-- MOVE: handed to the data mover; an access that its pages do not allow is an exception, except on a predicted fetch, which takes no fault (R87, R155). -/
def execMove (core : CoreId) (d : Desc) (words : List SramFind) (s : State) : Host.Outcome State Fault Refusal :=
  let c := core.toNat
  .next (issue c (moveIssueOk c d s) (fun s0 =>
    let s := sramFound c words s0
    let m := moveD d
    if m.pred then
      issued c (queueMove d true c (s.updWork c (fun w => { w with preds := w.preds ++ [{ sram := m.sram, len := m.len, mem := m.mem, done := false, dirty := false }] })))
    else match (if m.dir = 2 then none else rangeFault (s.coreInst c) m.mem m.len (m.dir == 1) s) with
      | some page => translationFault c page (s.work c).seq s
      | none => issued c (queueMove d false c s)) s)

/-- How a transfer of the data mover went. -/
inductive MoverEnd where
  | done (s : State)
  | waits (s : State)
  | failed (s : State)

/-- A range of device memory holds input rows of a core's step that the ingest has still to place: a transfer that reads them waits. -/
def State.rowsDue (s : State) (core la len : Nat) : Bool :=
  match (s.work core).task with
  | none => false
  | some t =>
    match s.stepOf t.fn t.tag with
    | none => false
    | some p =>
      match s.progOf t.fn p.program with
      | none => false
      | some pr => overlaps la len pr.inRegion (s.rowBytes t.fn p) && s.rowsOut t.fn p

/-- Bring bytes from device memory into SRAM. -/
def bringIn (core inst la sram len seq : Nat) (finds : List LineFind) (s : State) : MoverEnd :=
  if s.rowsDue core la len then .waits s else
  match readRange inst finds (len / 128) 0 la s with
  | (x, s1) =>
    match x.fault with
    | some page => .failed (translationFault core page seq s)
    | none =>
      if x.waits then .waits s1
      else if x.poisoned then .failed (coreFail core .memory seq s1)
      else .done (sramWrite core sram x.data s1)

/-- Take bytes from SRAM out to device memory; a line at its counter's end leaves the transfer waiting for its re-key (R187). -/
def takeOut (core inst la sram len seq : Nat) (finds : List LineFind) (s : State) : MoverEnd :=
  if s.sramPoison core sram len then .failed (sramFault core sram seq s)
  else
    match writeRange inst finds (len / 128) 0 la (s.sramRead core sram len) s with
    | (x, s1) =>
      match x.fault with
      | some page => .failed (translationFault core page seq s)
      | none => if x.waits then .waits s1 else if x.poisoned then .failed (coreFail core .memory seq s1) else .done s1

/-- Remove a job of the data mover by its number, and predicted fetches of a region that is written (R87). -/
def dropMove (core seq : Nat) (region : Option (Nat × Nat)) (s : State) : State :=
  s.updWork core (fun w => { w with moveQ := w.moveQ.filter (fun j => j.seq != seq && !(j.predicted && (match region with
    | some (a, n) => overlaps a n (moveD j.d).sram (moveD j.d).len
    | none => false))) })

/-- A predicted fetch of the same transfer has completed, and its region has not been written since (R87). -/
def Work.predHit (w : Work) (m : MoveD) : Bool :=
  w.preds.any (fun p => p.done && !p.dirty && p.sram == m.sram && p.len == m.len && p.mem == m.mem)

/-- A MOVE's transfer runs. -/
def moveRun (core : Nat) (j : UnitJob) (finds : List LineFind) (s : State) : MoverEnd :=
  let m := moveD j.d
  let inst := s.coreInst core
  if m.dir = 2 then
    (if s.sramPoison core m.sram m.len then .failed (sramFault core m.sram j.seq s) else .done (sramWrite core m.mem (s.sramRead core m.sram m.len) s))
  else if m.dir = 1 then takeOut core inst m.mem m.sram m.len j.seq finds s
  else if (s.work core).predHit m then .done (s.updWork core (fun w => { w with preds := w.preds.filter (fun p => !(p.sram == m.sram && p.len == m.len && p.mem == m.mem)) }))
  else bringIn core inst m.mem m.sram m.len j.seq finds s

/-- Every page of a range is resident in the fast tier, and none moves. -/
def State.rangeFast (s : State) (inst la : Nat) : Nat → Bool
  | 0 => true
  | n + 1 =>
    (match s.translate inst (la + 128 * n) false with
     | .ok (_, e) => e.home == .fast && !e.moving
     | .error _ => false) && s.rangeFast inst la n

/-- A predicted fetch ends: its region and nothing else is written, or it is dropped without trace (R87). -/
def predictedRun (core : Nat) (j : UnitJob) (finds : List LineFind) (s : State) : State :=
  let m := moveD j.d
  let inst := s.coreInst core
  let same := fun (p : Pred) => p.sram == m.sram && p.len == m.len && p.mem == m.mem && !p.done
  let gone := (dropMove core j.seq none s).updWork core (fun w => { w with preds := w.preds.filter (fun p => !same p) })
  if s.rowsDue core m.mem m.len || !s.rangeFast inst m.mem (m.len / 128) || s.closedState inst m.mem m.len then gone
  else
    let (x, _) := readRange inst finds (m.len / 128) 0 m.mem s
    if x.poisoned || x.waits || x.fault.isSome then gone
    else (sramWrite core m.sram x.data (dropMove core j.seq none s)).updWork core (fun w => { w with
      preds := w.preds.map (fun p => if same p then { p with done := true, dirty := false } else p) })

/-- The job of the data mover that ends next: predicted fetches rank last (R87). -/
def Work.nextMove (w : Work) : Option UnitJob :=
  match w.moveQ.find? (fun j => !j.predicted) with
  | some j => some j
  | none => w.moveQ.head?

/-- The transfer of a confirmed job ends: its signal acts behind its data (R86). -/
def moverSettle (core : Nat) (j : UnitJob) (region : Option (Nat × Nat)) (sig : Bool) (obj : Nat) (e : MoverEnd) : State :=
  match e with
  | .waits s => s
  | .failed s => s
  | .done s =>
    let s1 := dropMove core j.seq region s
    settle core (if sig then coreAdd core obj 1 s1 else s1)

/-- MOVE_COMPLETE (R86, R87, R161). -/
def execMoveComplete (core : CoreId) (finds : List LineFind) (s : State) : Host.Outcome State Fault Refusal :=
  let c := core.toNat
  .next (match (s.work c).nextMove with
    | some j =>
      if fld j.d 7 0 ≠ 5 then s
      else if j.predicted then predictedRun c j finds s
      else
        let m := moveD j.d
        let region := if m.dir = 0 then some (m.sram, m.len) else if m.dir = 2 then some (m.mem, m.len) else none
        moverSettle c j region m.sig m.sync (moveRun c j finds s)
    | none => s)

/-- The SPILL region of the loaded image: base and bytes (R354). -/
def State.spillArea (s : State) (inst : Nat) : Option (Nat × Nat) :=
  match (s.inst inst).image with
  | some im => (im.regions.find? (·.spill)).map (fun r => (r.base, r.len * 65536))
  | none => none

/-- Checks of a SPILL at issue: its region lies in the spill area, its object is the stall's, and bubble work does not write the reserved area. -/
def spillIssueOk (core : Nat) (d : Desc) (restore : Bool) (s : State) : Bool :=
  let m := spillD d
  spillOk d && m.restore == restore && (!m.sig || s.coreObj core m.sync 0)
  && (match s.spillArea (s.coreInst core) with | some (_, n) => decide (m.offset * 128 + m.len ≤ n) | none => false)
  && (!restore || !s.areaHit core m.sram m.len)

/-- Issue a SPILL in either direction: translated as any access (R155). -/
def issueSpill (core : Nat) (d : Desc) (restore : Bool) (s : State) : State :=
  issue core (spillIssueOk core d restore s) (fun s =>
    let m := spillD d
    let base := ((s.spillArea (s.coreInst core)).getD (0, 0)).1
    match rangeFault (s.coreInst core) (base + m.offset * 128) m.len (!restore) s with
    | some page => translationFault core page (s.work core).seq s
    | none => issued core (queueMove d false core s)) s

/-- SPILL: SRAM to the spill area (Table 3-11). -/
def execSpill (core : CoreId) (d : Desc) (s : State) : Host.Outcome State Fault Refusal := .next (issueSpill core.toNat d false s)

/-- SPILL with RESTORE: the spill area to SRAM. -/
def execSpillRestore (core : CoreId) (d : Desc) (s : State) : Host.Outcome State Fault Refusal := .next (issueSpill core.toNat d true s)

/-- SPILL_COMPLETE (R86, R161). -/
def execSpillComplete (core : CoreId) (finds : List LineFind) (s : State) : Host.Outcome State Fault Refusal :=
  let c := core.toNat
  .next (match (s.work c).nextMove with
    | some j =>
      if fld j.d 7 0 ≠ 10 then s
      else
        let m := spillD j.d
        let inst := s.coreInst c
        let la := ((s.spillArea inst).getD (0, 0)).1 + m.offset * 128
        if m.restore then moverSettle c j (some (m.sram, m.len)) m.sig m.sync (bringIn c inst la m.sram m.len j.seq finds s)
        else moverSettle c j none m.sig m.sync (takeOut c inst la m.sram m.len j.seq finds s)
    | none => s)

/-! ## SEND -/

/-- Checks of a SEND at issue (R85, R88, R220, R227). -/
def sendIssueOk (core : Nat) (d : Desc) (s : State) : Bool :=
  let m := sendD d
  sendOk d && (m.remote || s.sameStall core m.core) && (m.remote || !m.sig || s.coreObj core m.sync 0)
  && !s.areaHit core (m.dest * 64) m.len

/-- The flow of an instance with a flow id (R271). -/
def flowOf (s : State) (inst flow : Nat) : Option Nat := (s.flowSrc.find? (fun p => p.2.fn == inst && p.2.flow == flow && p.2.opened)).map (·.1)

/-- Hand the remote sends at the front of the sender's queue to their flows; one that finds no open flow fails its step as a transfer that cannot arrive (R206). -/
def pumpSends (core : Nat) : Nat → State → State
  | 0, s => s
  | n + 1, s =>
    match (s.work core).sendQ with
    | j :: rest =>
      if !j.remote then s
      else
        let inst := s.coreInst core
        match flowOf s inst j.flow with
        | none => coreFail core .fabric j.seq s
        | some key =>
          if (s.src key).broken || j.dest % 64 != 0 then coreFail core .fabric j.seq s
          else
            let lf := match (s.work core).task with
              | some t => (match s.stepOf t.fn t.tag with | some p => j.ledger && p.ledgerFlag | none => false)
              | none => false
            let s1 := pushFlow key (dataFrames j.dcore (j.dest / 64) j.ledger j.sig false lf false j.sync j.data)
              (s.updWork core (fun w => { w with sendQ := rest }))
            let f := s1.src key
            pumpSends core n (s1.updWork core (fun w => { w with remoteQ := w.remoteQ ++ [(j.seq, key, f.nextSeq + f.queue.length)] }))
    | [] => s

def drainSends (core : Nat) (s : State) : State := if s.coreStopped core then s else pumpSends core (s.work core).sendQ.length s

/-- SEND: handed to the sender with its data (R84, R86, R88). -/
def execSend (core : CoreId) (d : Desc) (s : State) : Host.Outcome State Fault Refusal :=
  let c := core.toNat
  .next (issue c (sendIssueOk c d s) (fun s =>
    let m := sendD d
    if s.sramPoison c m.src m.len then sramFault c m.src (s.work c).seq s
    else
      let job : SendJob :=
        { seq := (s.work c).seq, remote := m.remote, sig := m.sig, ledger := m.oper == 1, data := s.sramRead c m.src m.len, dcore := m.core, dest := m.dest * 64, flow := m.flow, sync := m.sync }
      drainSends c (issued c (s.updWork c (fun w => { w with sendQ := w.sendQ ++ [job] })))) s)

/-- SEND_ARRIVAL: local data lands whole, then its signal acts (R86). -/
def sendArrives (core : Nat) (s : State) : State :=
  match (s.work core).sendQ with
  | j :: rest =>
    if j.remote then s
    else
      let inst := s.coreInst core
      let bubble := s.coreBubble core
      let s1 := s.updWork core (fun w => { w with sendQ := rest })
      let s2 := if j.ledger then ledgerInto inst bubble j.dcore j.dest j.data false s1 else writeFor bubble j.dcore j.dest j.data false s1
      settle core (drainSends core (if j.sig then coreAdd core j.sync 1 s2 else s2))
  | [] => s

def execSendArrival (core : CoreId) (s : State) : Host.Outcome State Fault Refusal := .next (sendArrives core.toNat s)

/-! ## WAIT, SIGNAL, FENCE, END -/

/-- Checks of a WAIT: an object of the stall, of the task's class, declared; THRESH only with a counting object (Table 3-11, R227). -/
def waitIssueOk (core : Nat) (d : Desc) (s : State) : Bool :=
  let obj := fld d 29 16
  waitOk d && s.liveObj (s.coreInst core) obj && (s.obj obj).cls == s.coreBubble core && ((s.obj obj).kind == 0 || fld d 63 32 == 0)

/-- WAIT: goes on at once where its condition holds, else holds issue (R91, R222 to R224). A barrier's condition starts from the phase now. -/
def execWait (core : CoreId) (d : Desc) (s : State) : Host.Outcome State Fault Refusal :=
  let c := core.toNat
  .next (issue c (waitIssueOk c d s) (fun s =>
    let obj := fld d 29 16
    let thresh := if (s.obj obj).kind = 1 then (s.obj obj).phase.toNat else fld d 63 32
    let s1 := issued c s
    if s.satisfied c obj thresh then s1
    else s1.updWork c (fun w => { w with mode := .waiting obj thresh (if fld d 95 64 = 0 then none else some (s.now.toNat + 1000 * fld d 95 64)) })) s)

/-- WAIT_RESUME (R91): the steps waited are counted (Table 3-2). -/
def execWaitResume (core : CoreId) (waited : Nat) (s : State) : Host.Outcome State Fault Refusal :=
  let c := core.toNat
  .next (match (s.work c).mode with
    | .waiting obj thresh _ =>
      if s.satisfied c obj thresh then
        s.updCore c (fun k => { k with waitSteps := k.waitSteps + BitVec.ofNat 64 waited, work := { k.work with mode := .running } })
      else s
    | _ => s)

/-- WAIT_TIMEOUT: an exception once TIMEOUT has passed (R86). -/
def execWaitTimeout (core : CoreId) (s : State) : Host.Outcome State Fault Refusal :=
  let c := core.toNat
  .next (match (s.work c).mode with
    | .waiting obj thresh (some t) =>
      if t ≤ s.now.toNat && !s.satisfied c obj thresh then coreException c 1 6 (c + obj <<< 12) .device (s.work c).seq s else s
    | _ => s)

/-- SIGNAL: placed in the core's signal queue; its kind must match the object's (R84, R227). -/
def execSignal (core : CoreId) (d : Desc) (s : State) : Host.Outcome State Fault Refusal :=
  let c := core.toNat
  .next (issue c (signalOk d && s.coreObj c (fld d 29 16) (BitVec.ofNat 2 (fld d 9 8))) (fun s =>
    issued c (s.updWork c (fun w => { w with sigQ := w.sigQ ++ [{ kind := fld d 9 8, obj := fld d 29 16, value := fld d 63 32, seq := w.seq }] }))) s)

/-- Every descriptor before a number has completed and its data is visible (R86). -/
def State.doneBefore (s : State) (core seq : Nat) : Bool :=
  let w := s.work core
  w.loadQ.all (fun j => decide (seq ≤ j.seq)) && w.moveQ.all (fun j => j.predicted || decide (seq ≤ j.seq))
  && w.sendQ.all (fun j => decide (seq ≤ j.seq)) && w.remoteQ.all (fun r => decide (seq ≤ r.1) || s.sendVisible r)
  && w.arrayQ.all (fun j => decide (seq ≤ j.seq)) && w.epiQ.all (fun t => decide (seq ≤ t.seq))
  && w.runs.all (fun id => match w.atts.find? (fun a => a.id == id) with | some a => decide (seq ≤ a.seq) | none => true)

/-- The front signal of a core acts, once everything before it has completed (R86); an arrival is remembered with its phase (R223). -/
def signalActs (core : Nat) (s : State) : State :=
  match (s.work core).sigQ with
  | [] => s
  | g :: rest =>
    if !s.doneBefore core g.seq then s
    else
      let s1 := s.updWork core (fun w => { w with
        sigQ := rest, lastBarrier := if g.kind = 1 then some (g.obj, (s.obj g.obj).phase.toNat) else w.lastBarrier })
      settle core (match g.kind with
        | 0 => coreAdd core g.obj g.value s1
        | 1 => (signalKind (s.coreInst core) g.obj 1 1 s1).1
        | _ => (signalKind (s.coreInst core) g.obj 2 1 s1).1)

def execSignalTakesEffect (core : CoreId) (s : State) : Host.Outcome State Fault Refusal := .next (signalActs core.toNat s)

/-- FENCE: holds issue until the classes it names are complete (Table 3-11). -/
def execFence (core : CoreId) (d : Desc) (s : State) : Host.Outcome State Fault Refusal :=
  let c := core.toNat
  .next (issue c (fenceOk d) (fun s =>
    let s1 := (issued c s).updWork c (fun w => { w with mode := .fencing (fld d 11 8) })
    if s1.fenceClear c (fld d 11 8) then fenceEnds c s1 else s1) s)

/-- END: nothing more is issued, and the task ends once its work, stores and signals are complete (R452). -/
def execEndTask (core : CoreId) (d : Desc) (s : State) : Host.Outcome State Fault Refusal :=
  let c := core.toNat
  .next (issue c (endOk d) (fun s =>
    let s1 := (issued c s).updWork c (fun w => { w with mode := .ending })
    if s1.endClear c then taskEnds c s1 else s1) s)

end Sys2Proof.Machine
end

