-- ==== Sys2Proof/Machine/Ingest.lean ====
section
/-! DEFINITION. Host reads and the ingest of input rows (12_host_interface R317 to R321; 13_command_set R352), ticket arrays, batch lists and bubble preloads (04_adapter_path R98 to R100; 13_command_set R355, R356). -/

namespace Sys2Proof.Machine

/-! ## Host reads -/

/-- Bytes of the next read of a transfer: at most Max Read Request Size, never across 4 KiB (R317; log entry 14). -/
def readLen (addr left : Nat) : Nat := min left (min 512 (4096 - addr % 4096))

/-- Lowest requester tag that is free; 1024 are kept for command fetches (R318). -/
def tagGo (busy : List Nat) : Nat → Nat → Option Nat
  | 0, _ => none
  | n + 1, t => if busy.contains t then tagGo busy n (t + 1) else some t

def freeTag (s : State) : Option Nat := tagGo s.tagsBusy 15360 1024

/-- Requester tags of a function: in proportion to its host-link weight, at least 64 with a stall (R318). -/
def tagShare (s : State) (fn : Nat) : Nat :=
  match s.stall fn with
  | some st => max 64 (15360 * st.weight 28 / 65536)
  | none => 0

/-- The engine of a transfer: the one that serves it, or the lowest that serves none (R318; log entry 16). -/
def engineFor (s : State) (fn tag : Nat) : Nat :=
  match s.dmaReads.find? (fun r => r.fn == fn && r.use == .ingest tag) with
  | some r => r.engine
  | none => ((List.range 32).find? (fun e => s.dmaReads.all (fun r => r.engine != e))).getD (fn % 32)

/-- Ask for the next pieces of a step's rows while tags are free. -/
def askGo (fn tag total : Nat) : Nat → State → State
  | 0, s => s
  | n + 1, s =>
    match s.stepOf fn tag, freeTag s with
    | some p, some t =>
      if p.asked ≥ total || (s.dmaReads.filter (fun r => r.fn == fn)).length ≥ tagShare s fn then s
      else
        let k := readLen (p.inAddr + p.asked) (total - p.asked)
        let e := engineFor s fn tag
        let r : DmaRead := { tag := t, fn := fn, gen := (s.inst fn).gen.toNat, engine := e, engGen := Tbl.get 0 s.dmaGen e, use := .ingest tag, offset := p.asked, len := k }
        let s1 := ({ s with dmaReads := s.dmaReads ++ [r], tagsBusy := s.tagsBusy ++ [t] }).emit (.hostRead fn t (p.inAddr + p.asked) k)
        askGo fn tag total n (s1.updStep fn tag (fun p => { p with asked := p.asked + k }))
    | _, _ => s

/-- Ask on for a step; a function that may not issue requests ends the transfer with ABORTED_HOST (R321). -/
def askRows (fn tag : Nat) (s : State) : State :=
  match s.stepOf fn tag with
  | none => s
  | some p =>
    let total := s.rowBytes fn p
    if total = 0 || p.asked ≥ total then s
    else if !(s.fn fn).mayWrite then failStep fn tag .host (raise fn 2 1 (tag % 2 ^ 32) s)
    else askGo fn tag total (total / 64 + 1) s

/-! ## The ingest -/

def insertPiece (x : Nat × Bytes) : List (Nat × Bytes) → List (Nat × Bytes)
  | [] => [x]
  | y :: ys => if x.1 < y.1 then x :: y :: ys else y :: insertPiece x ys

/-- The rows of a step in placed order, from its pieces by rising offset (R99, R352). -/
def placedRows (p : Step) (width : Nat) : Bytes :=
  let bs := p.stage.flatMap (·.2)
  p.order.flatMap (fun h => sub bs (h * width) width)

/-- All rows are here: they are written to IN_REGION in placed order. Lines at their counter's end leave the step's pieces for a later try (R187); a line whose write is not performed ends the step with FAILED_MEMORY (R184). -/
def ingestSettle (fn tag : Nat) (finds : List LineFind) (s : State) : State :=
  match s.stepOf fn tag with
  | none => s
  | some p =>
    match s.progOf fn p.program with
    | none => s
    | some pr =>
      let have_ := (p.stage.map (fun x => x.2.length)).foldl (· + ·) 0
      if p.stage.isEmpty || have_ < s.rowBytes fn p then s
      else
        let bs := placedRows p pr.inRow
        match writeBytes fn finds (bs.length / 128 + 2) 0 pr.inRegion bs s with
        | (.waits, s1) => s1
        | (.written, s1) => tasksMayEnd fn tag (s1.updStep fn tag (fun p => { p with stage := [] }))
        | (.refused, s1) => failStep fn tag .memory (s1.updStep fn tag (fun p => { p with stage := [] }))

/-- A piece of a step's rows has arrived and passed its checks; `finds`: on the lines that the rows are written to, should they be complete. -/
def ingestPiece (fn tag offset : Nat) (bs : Bytes) (finds : List LineFind) (s : State) : State :=
  ingestSettle fn tag finds (askRows fn tag (s.updStep fn tag (fun p => { p with stage := insertPiece (offset, bs) p.stage })))

/-! ## Ticket order (R98, R99) -/

def insertNat (x : Nat) : List Nat → List Nat
  | [] => [x]
  | y :: ys => if x < y then x :: y :: ys else if x = y then y :: ys else y :: insertNat x ys

/-- NONE. -/
def ticketNone : Nat := 0xFFFF

/-- The ticket of an adapter id: its slot while it is resident. -/
def State.ticketOf (s : State) (inst id : Nat) : Nat :=
  match s.adapterOf inst id with
  | some a => a.slot.getD ticketNone
  | none => ticketNone

/-- Tickets of the rows in host order. -/
def State.hostTickets (s : State) (inst : Nat) (p : Step) : List Nat :=
  p.runs.flatMap (fun r => List.replicate r.2 (s.ticketOf inst r.1))

/-- Tickets that occur, ascending, NONE among them as the highest. -/
def distinctTickets (ts : List Nat) : List Nat := ts.foldl (fun l t => insertNat t l) []

/-- Host row numbers in placed order: a stable sort by ticket. -/
def placedOrder (ts : List Nat) : List Nat :=
  (distinctTickets ts).flatMap (fun t => (List.range ts.length).filter (fun i => ts.getD i ticketNone == t))

/-- The working bank that is current for an adapter: that of the job that trains it, else bank 0 (R233; log entry 19). -/
def State.currentBank (s : State) (inst id : Nat) : Nat :=
  match (s.inst inst).jobs.find? (fun j => j.tensors.any (fun t => t.adapter == id)) with
  | some j => b2n j.working
  | none => 0

/-- Batch list entry of a ticket (Table 4-1). -/
def State.batchEntry (s : State) (inst : Nat) (p : Step) (t : Nat) : Bytes :=
  match (s.inst inst).adapters.find? (fun a => a.slot == some t) with
  | none => List.replicate 16 0
  | some a =>
    let sf := a.sfmt || a.first
    leBytes 16 (t + rankCode a.rank <<< 16 + b2n sf <<< 19 + b2n (!sf && a.efmt) <<< 20 + p.rowsOf a.id <<< 32
      + (a.waddr + s.currentBank inst a.id * a.bank) <<< 64)

/-- The batch list (R100). -/
def State.batchList (s : State) (inst : Nat) (p : Step) (ts : List Nat) : Bytes :=
  let ds := (distinctTickets ts).filter (fun t => t != ticketNone)
  leBytes 16 (ds.length + (ts.filter (fun t => t == ticketNone)).length <<< 16) ++ ds.flatMap (s.batchEntry inst p)

/-- Every core of a program's tasks, over all its sub-steps. -/
def programCores (st : Stall) (im : Image) (pr : Program) : List Nat :=
  (List.range (im.lastSub pr + 1)).foldl (fun l k => l ++ (placedCores st (im.tasksOf pr k)).filter (fun c => !l.contains c)) []

/-- Tickets become fixed: placed order, first use, the ticket array and the batch list on every core of the step's tasks (R99, R100). -/
def writeTickets (inst tag : Nat) (bubble : Bool) (st : Stall) (im : Image) (pr : Program) (s : State) : State :=
  match s.stepOf inst tag with
  | none => s
  | some p =>
    let ts := s.hostTickets inst p
    let order := placedOrder ts
    let placed := order.map (fun i => ts.getD i ticketNone)
    let first := p.adapters.any (fun id => match s.adapterOf inst id with | some a => a.first | none => false)
    let bl := s.batchList inst p ts
    let s1 := s.updStep inst tag (fun p => { p with order := order, firstUse := first })
    let s2 := forEach (fun id s => s.updAdapter inst id (fun a => { a with lastUse := s.now.toNat })) p.adapters s1
    forEach (fun c s => writeFor bubble c pr.batchAddr bl false (writeFor bubble c pr.tktAddr (placed.flatMap (leBytes 2)) false s))
      (programCores st im pr) s2

/-! ## Bubble preloads (R355, R356) -/

/-- A field of `width` bits from bit `lsb` of the 16-byte unit at `unit`. -/
def setField (bs : Bytes) (unit lsb width v : Nat) : Bytes :=
  let w := num bs unit 16
  let old := (w >>> lsb) % 2 ^ width
  bs.take unit ++ leBytes 16 (w - old <<< lsb + (v % 2 ^ width) <<< lsb) ++ bs.drop (unit + 16)

/-- DATA with the step's e_t in every KIND 4 field (R234, R356). -/
def stepData (im : Image) (p : Step) : Bytes :=
  (im.relocs.filter (fun r => r.kind == 4)).foldl
    (fun bs r => setField bs r.unit r.lsb r.width (unsigned r.width (p.eTs.getD r.arg 0))) im.data

/-- Write a bubble program's preload records, with the step's fields (R355). -/
def writeBubble (st : Stall) (im : Image) (pr : Program) (p : Step) (s : State) : State :=
  let im1 := { im with data := stepData im p }
  forEach (fun (r : Preload) s => if r.bubble && r.program == pr.index then writePreload st im1 true r s else s) im.preloads s

end Sys2Proof.Machine
end

