-- ==== Sys2Proof/Machine/Almanac.lean ====
section
/-! DEFINITION. Decision points, occurrences, bubble work, the transit monitor and heat: the meanings of the almanac's commands (08_almanac R199 to R220; 11_mapping R291; 04_adapter_path R116 to R120; 06_memory_tiers R168). An event whose stated condition does not hold has no effect (log entry 11). -/

namespace Sys2Proof.Machine

/-! ## Occurrences -/

/-- A slot of a table and the start of its occurrence (R201). -/
def Almanac.startOf (t : Almanac) (k occ : Nat) : Option (Slot × Nat) := (t.slots[k]?).map (fun sl => (sl, t.start + occ * t.cycle + sl.offset))

/-- The stall takes work: not in reset, no device-fatal stop. -/
def State.serves (s : State) (st : Stall) : Bool := !st.inReset && !s.sys.fatal

/-- The end of the bubble slot or lent occurrence that device time stands in. -/
def bubbleEnd (s : State) (inst : Nat) : Option Nat :=
  match s.stall inst, (s.inst inst).almanac with
  | some st, some t =>
    let now := s.now.toNat
    if now < t.start || t.cycle = 0 then none
    else
      let occ := (now - t.start) / t.cycle
      let pos := (now - t.start) % t.cycle
      match t.slots.findIdx? (fun sl => decide (sl.offset ≤ pos) && decide (pos < sl.offset + sl.length)) with
      | none => none
      | some k =>
        match t.slots[k]? with
        | none => none
        | some sl => if sl.bubble || st.lent == some (k, occ) then some (now - pos + sl.offset + sl.length) else none
  | _, _ => none

/-- Bubble work may issue until this device time: the end of its slot less T_susp (R218). -/
def bubbleUntil (s : State) (inst : Nat) : Option Nat :=
  match bubbleEnd s inst, s.stall inst with
  | some e, some st => (suspendNs s st).map (fun t => e - t)
  | _, _ => none

/-- Bubble work may issue now: inside its time, heat level 0 (R216). -/
def State.bubbleTime (s : State) (inst : Nat) (st : Stall) : Bool :=
  (match bubbleUntil s inst with | some e => decide (s.now.toNat < e) | none => false) && (s.heat st).1 == 0 && s.sys.forceSafeN

/-! ## Decision points (R203, R207, R208, R210) -/

/-- Refused at a decision point; `hot`: a heat level is the reason (R216). -/
def refuseStep (inst tag : Nat) (hot : Bool) (s : State) : State :=
  match s.stepOf inst tag with
  | none => s
  | some p =>
    finishStep inst tag St.refusedState (flagWord p.firstUse p.clipOver (p.nonfinite || p.ledgerFlag) hot) 0 p.bound
      (s.updInst inst (fun n => { n with steps := n.steps.filter (fun q => q.tag != tag) }))

/-- Rows over the fabric are present (R203, condition 2). -/
def State.rowsHere (s : State) (p : Step) : Bool := !p.inFabric || decide ((s.obj p.inSync).count.toNat ≥ p.inThresh)

/-- The gap check of R291: for each inbound pipeline cut whose event is set, the earliest step that takes its input over the fabric fails, which sets the gap events downstream in turn, and the event is cleared. -/
def gapCheck (inst : Nat) (s : State) : State :=
  match s.stall inst, (s.inst inst).image with
  | some st, some im =>
    forEach (fun (c : Cut) s =>
      let obj := st.syncBase + c.gap
      if c.pipe && (s.obj obj).count != 0 then
        match (s.inst inst).steps.find? (fun p => p.kind == 0 && p.inFabric && p.waits) with
        | some p => setGap inst (endStep inst p.tag St.failedDevice (p.failResult 0) (s.updObj obj (fun o => { o with count := 0 })))
        | none => s
      else s) im.cuts s
  | _, _ => s

/-- Lend an occurrence to bubble work when it is long enough and the stall is cool (R208, R216). -/
def lend (inst slot occ length : Nat) (st : Stall) (s : State) : State :=
  if outlasts s st length && (s.heat st).1 == 0 && s.sys.forceSafeN && s.sys.stoppedHalf.isNone then s.updStall inst (fun st => { st with lent := some (slot, occ) }) else s

/-- Bind a step to an occurrence: accepted and bound in one act (R203, R339). -/
def accept (inst slot occ start : Nat) (sl : Slot) (st : Stall) (im : Image) (pr : Program) (p : Step) (s : State) : State :=
  let s1 := (s.updStall inst (fun st => { st with busyUntil := start + sl.length })).updStep inst p.tag (fun p => { p with at_ := .accepted slot occ start, begins := start, bound := some (start + sl.bound) })
  startFetches inst (writeTickets inst p.tag false st im pr s1)

/-- Every waiting step of a program reaches the decision point of an occurrence of its slots, and is refused there (R207, R214, R216; log entry 51). -/
def refuseWaiting (inst program : Nat) (hot : Bool) (s : State) : State :=
  forEach (fun (p : Step) s => if p.kind == 0 && p.waits && p.program == program then refuseStep inst p.tag hot s else s) (s.inst inst).steps s

/-- Offer the front step of the ring order to a slot of its program, or lend the occurrence; a front step that must wait holds back the later ones (R207; log entry 51). While FORCE_SAFE_N is low, steps are refused as at heat level 2 (R423); in half mode every step is (R431). -/
def decide_ (inst slot occ start : Nat) (sl : Slot) (st : Stall) (im : Image) (pr : Program) (s : State) : State :=
  if (s.heat st).1 ≥ 2 || !s.sys.forceSafeN then refuseWaiting inst sl.program true s
  else if s.sys.stoppedHalf.isSome || s.stallFaulted st then lend inst slot occ sl.length st (refuseWaiting inst sl.program false s)
  else match (s.inst inst).steps.find? (fun p => p.kind == 0 && p.waits) with
    | none => lend inst slot occ sl.length st s
    | some p =>
      if p.program != sl.program then lend inst slot occ sl.length st s
      else if !s.allResident inst p then lend inst slot occ sl.length st (park inst p.tag s)
      else if !s.serves st || !s.fits inst st im pr p sl || !s.rowsHere p then lend inst slot occ sl.length st s
      else accept inst slot occ start sl st im pr p s

/-- DECISION_POINT, 20 µs before the occurrence begins: once for an occurrence, not while a freeze holds the instance (R203, R386); while a new table waits no step is admitted (R202). -/
def decisionAt (inst slot occ : Nat) (s : State) : State :=
  let n := s.inst inst
  match n.stall, n.image, n.almanac with
  | some st, some im, some t =>
    match t.startOf slot occ with
    | none => s
    | some (sl, start) =>
      match im.program sl.program with
      | none => s
      | some pr =>
        if sl.bubble || n.frozen || s.sys.fatal || st.lent == some (slot, occ)
          || s.now.toNat + 20000 < start || s.now.toNat ≥ start
          || n.steps.any (fun p => p.begins == start && !p.waits) then s
        else if n.nextAlmanac.isSome then lend inst slot occ sl.length st s
        else decide_ inst slot occ start sl st im pr (gapCheck inst (stepBoundary inst s))
  | _, _, _ => s

def execDecisionPoint (fn : FnId) (slot occ : Nat) (s : State) : Host.Outcome State Fault Refusal := .next (decisionAt fn.toNat slot occ s)

/-! ## Occurrences run (R198, R206, R225) -/

/-- The step accepted for an occurrence. -/
def acceptedStep (n : Inst) (slot occ : Nat) : Option Step :=
  n.steps.find? (fun p => match p.at_ with | .accepted k o _ => k == slot && o == occ | _ => false)

/-- The counts of a class begin at zero (R57, R60). -/
def clearClips (inst : Nat) (bubble : Bool) (s : State) : State :=
  s.updInst inst (fun n => { n with stepClips := n.stepClips.filter (fun c => decide (256 ≤ c.1) != bubble) })

/-- OCCURRENCE_START: real-time objects return to their declared state, tasks are placed, the ingest begins. -/
def occurrenceAt (inst slot occ : Nat) (s : State) : State :=
  match acceptedStep (s.inst inst) slot occ with
  | none => s
  | some p =>
    match s.progOf inst p.program, (s.inst inst).image with
    | some pr, some im =>
      if s.now.toNat < p.begins then s
      else
        let s1 := clearClips inst false (renewRealTime inst s)
        let s2 := s1.updStep inst p.tag (fun p => { p with at_ := .running slot occ p.begins })
        askRows inst p.tag (startTasks inst p.tag false (im.tasksOf pr 0) s2)
    | _, _ => s

def execOccurrenceStart (fn : FnId) (slot occ : Nat) (s : State) : Host.Outcome State Fault Refusal := .next (occurrenceAt fn.toNat slot occ s)

/-- The cause of a stop at the slot's end where none was recorded: a fabric transfer that has not arrived, or any other (Table 8-4). -/
def stopCause (s : State) (inst : Nat) : StopWhy :=
  if s.colls.any (fun r => r.fn == inst && (match collOf s inst r.coll with | some c => !c.bubble | none => false)) then .fabric else .device

/-- A step runs in an occurrence. -/
def Step.inOccurrence (slot occ : Nat) (p : Step) : Bool := match p.at_ with | .running k o _ => k == slot && o == occ | _ => false

/-- SLOT_END_STOP: an unfinished step is stopped (R206); a lent occurrence ends. -/
def slotEnd (inst slot occ : Nat) (s : State) : State :=
  match (s.inst inst).almanac.bind (fun t => t.startOf slot occ) with
  | none => s
  | some (sl, start) =>
    if s.now.toNat < start + sl.length then s
    else
      let s1 := s.updStall inst (fun st => if st.lent == some (slot, occ) then { st with lent := none } else st)
      match (s1.inst inst).steps.find? (Step.inOccurrence slot occ) with
      | some p => stepBoundary inst (failStep inst p.tag (stopCause s1 inst) (raise inst 1 8 (p.tag % 2 ^ 32) s1))
      | none => s1

def execSlotEndStop (fn : FnId) (slot occ : Nat) (s : State) : Host.Outcome State Fault Refusal := .next (slotEnd fn.toNat slot occ s)

/-! ## Suspension (R218, R219) -/

/-- Complete the outstanding MOVEs and SPILLs of a core; a transfer that waits for a re-key stays. -/
def finishMoves (core : Nat) : Nat → State → State
  | 0, s => s
  | n + 1, s =>
    match (s.work core).nextMove with
    | none => s
    | some j =>
      let inst := s.coreInst core
      let s1 :=
        if fld j.d 7 0 = 5 then
          if j.predicted then predictedRun core j [] s
          else
            let m := moveD j.d
            let region := if m.dir = 0 then some (m.sram, m.len) else if m.dir = 2 then some (m.mem, m.len) else none
            moverSettle core j region m.sig m.sync (moveRun core j [] s)
        else
          let m := spillD j.d
          let la := ((s.spillArea inst).getD (0, 0)).1 + m.offset * 128
          if m.restore then moverSettle core j (some (m.sram, m.len)) m.sig m.sync (bringIn core inst la m.sram m.len j.seq [] s)
          else moverSettle core j none m.sig m.sync (takeOut core inst la m.sram m.len j.seq [] s)
      finishMoves core n s1

/-- What stays in a core when bubble work leaves it: the banks and the side-array's configuration (R79). -/
def Work.emptied (w : Work) : Work :=
  { shadow := w.shadow, active := w.active, loadIssued := w.loadIssued, everActive := w.everActive, sideIssued := w.sideIssued, side := w.side,
    kIndex := w.kIndex, tickPasses := w.tickPasses, sideReady := w.sideReady, nextAtt := w.nextAtt, seq := w.seq }

/-- Write a core's SRAM below the area and its state to the spilled copy (R218; log entry 22). -/
def spillCore (start core : Nat) (s : State) : State :=
  s.updCore core (fun c => { c with
    spilled := some { mem := c.sram.filter (fun x => decide (x.1 < start)), poison := c.poison.filter (fun w => decide (8 * w < start)), work := c.work }
    work := c.work.emptied })

/-- Read back a spilled core below the area. -/
def restoreCore (start core : Nat) (s : State) : State :=
  s.updCore core (fun c => match c.spilled with
    | some sp => { c with
        sram := sp.mem.filter (fun x => decide (x.1 < start)) ++ c.sram.filter (fun x => decide (start ≤ x.1))
        poison := sp.poison.filter (fun w => decide (8 * w < start)) ++ c.poison.filter (fun w => decide (start ≤ 8 * w))
        work := sp.work, spilled := none }
    | none => c)

/-- A bubble step is in progress: between its first sub-step's start and its last one's end. -/
def bubbleInProgress (n : Inst) : Bool := n.steps.any (fun p => match p.at_ with | .bubble _ => true | _ => false)

/-- Suspend a stall's bubble work; a stall with none in progress spills nothing. -/
def suspend (inst : Nat) (s : State) : State :=
  match s.stall inst with
  | none => s
  | some st =>
    if st.suspended || !bubbleInProgress (s.inst inst) then s
    else
      let s1 := forEach (fun c s => finishMoves c ((s.work c).moveQ.length) s) st.cores s
      forEach (spillCore (s1.areaStart inst)) st.cores (s1.updStall inst (fun st => { st with suspended := true }))

/-- BUBBLE_SUSPEND: at the slot's end less T_susp, or at heat level 1 and above (R216, R218). -/
def execBubbleSuspend (fn : FnId) (s : State) : Host.Outcome State Fault Refusal :=
  .next (match s.stall fn.toNat with
    | some st => if s.bubbleTime fn.toNat st then s else suspend fn.toNat s
    | none => s)

/-- BUBBLE_RESUME: at the start of the next bubble slot or lent occurrence (R219). -/
def resume (inst : Nat) (s : State) : State :=
  match s.stall inst with
  | none => s
  | some st =>
    if st.suspended && s.bubbleTime inst st && s.serves st && !(s.inst inst).frozen then
      forEach (restoreCore (s.areaStart inst)) st.cores (s.updStall inst (fun st => { st with suspended := false }))
    else s

def execBubbleResume (fn : FnId) (s : State) : Host.Outcome State Fault Refusal := .next (resume fn.toNat s)

/-! ## Sub-steps (R217, R245) -/

/-- Start a sub-step of a bubble step. -/
def startSubstep (inst : Nat) (im : Image) (pr : Program) (tag k : Nat) (s : State) : State :=
  startTasks inst tag true (im.tasksOf pr k) (s.updStep inst tag (fun p => { p with at_ := .bubble k }))

/-- The first sub-step: adapters resident, or the step parks; preloads, fields and batch structures are written, and the ingest begins (R100, R234, R355). -/
def startBubble (inst : Nat) (st : Stall) (im : Image) (p : Step) (s : State) : State :=
  match im.program p.program with
  | none => s
  | some pr =>
    if s.sys.stoppedHalf.isSome || s.stallFaulted st then refuseStep inst p.tag false s
    else if p.kind == 1 && (match s.jobOf inst p.job with | some j => j.st != .jOpen | none => true) then
      (match s.jobOf inst p.job with
       | some j => if j.st == .jReshard then s else refuseStep inst p.tag false s
       | none => refuseStep inst p.tag false s)
    else if !s.rowsHere p then s
    else if !s.allResident inst p then park inst p.tag s
    else
      let s1 := writeBubble st im pr p (clearClips inst true s)
      let s2 := s1.updStep inst p.tag (fun p => { p with begins := s.now.toNat, at_ := .bubble 0 })
      askRows inst p.tag (startSubstep inst im pr p.tag 0 (writeTickets inst p.tag true st im pr s2))

/-- BUBBLE_SUBSTEP_START: the next sub-step of the step in progress once its tasks have ended, else the first waiting fine-tuning or evaluation step. -/
def substepStart (inst : Nat) (s : State) : State :=
  match s.stall inst, (s.inst inst).image with
  | some st, some im =>
    if st.suspended || !s.bubbleTime inst st || !s.serves st || (s.inst inst).frozen || !s.sys.forceSafeN then s
    else
      match (s.inst inst).steps.find? (fun p => p.runsBubble) with
      | some p =>
        match p.at_, im.program p.program with
        | .bubble k, some pr => if p.cores.isEmpty && k < im.lastSub pr then startSubstep inst im pr p.tag (k + 1) s else s
        | _, _ => s
      | none =>
        match (s.inst inst).steps.find? (fun p => p.kind != 0 && p.waits) with
        | some p => if p.at_ == .queued then startBubble inst st im p s else s
        | none => s
  | _, _ => s

def execBubbleSubstepStart (fn : FnId) (s : State) : Host.Outcome State Fault Refusal := .next (substepStart fn.toNat (stepBoundary fn.toNat (startReshards fn.toNat s)))

/-! ## A new table (R202) -/

/-- An occurrence has a step bound to it. -/
def occurrencesOpen (n : Inst) : Bool := n.steps.any (fun p => match p.at_ with | .accepted .. => true | .running .. => true | _ => false)

/-- Waiting steps that fit no slot of the table in force end with R210's refusals. -/
def refitWaiting (inst : Nat) (s : State) : State :=
  match (s.inst inst).almanac with
  | none => s
  | some t =>
    forEach (fun (p : Step) s =>
      if p.kind == 0 && p.waits then
        if !(t.slots.any (fun sl => !sl.bubble && sl.program == p.program)) then endStep inst p.tag St.refusedState 0 s
        else if !s.fitsTable inst p t then endStep inst p.tag St.refusedFit 0 s
        else s
      else s) (s.inst inst).steps s

/-- The end of the last occurrence of the stall that had an accepted step (R202). -/
def lastEnd (s : State) (inst : Nat) : Nat := match s.stall inst with | some st => st.busyUntil | none => 0

/-- ALMANAC_SWITCH: the new table takes effect at its first cycle start after the old occurrences, and ALMANAC completes (R202). -/
def almanacSwitch (inst : Nat) (s : State) : State :=
  match (s.inst inst).nextAlmanac with
  | none => s
  | some t =>
    if occurrencesOpen (s.inst inst) || s.now.toNat < t.start || (s.now.toNat - t.start) % t.cycle != 0 || s.now.toNat < lastEnd s inst then s
    else
      let s1 := (s.updInst inst (fun n => { n with almanac := some { t with tag := none }, nextAlmanac := none })).updStall inst (fun st => { st with lent := none })
      refitWaiting inst (match t.tag with | some tag => finish inst tag St.done 0 s1 | none => s1)

def execAlmanacSwitch (fn : FnId) (s : State) : Host.Outcome State Fault Refusal := .next (almanacSwitch fn.toNat s)

/-! ## The transit monitor (R212 to R214) -/

def guardRate : Nat := 2100
def floorRate : Nat := 2000

/-- Some core of a group has work. -/
def groupBusy (s : State) (g : Nat) : Bool := (List.range 64).any (fun k => (s.work (g * 64 + k)).task.isSome)

/-- The supply the group requests. -/
def Group.vreqMv (x : Group) (g : Nat) : Nat := match x.vreq with | some v => v.toNat | none => Config.vreqCal g

/-- One measurement against GUARD: VREQ up by 10 to 850, or down by 5 after 100 measurements at GUARD + 100, never below the calibrated value. -/
def adjustSupply (g rate : Nat) (busy : Bool) (x : Group) : Group :=
  let v := x.vreqMv g
  if rate < guardRate then
    let raises := if x.mstate = 2 || !busy then x.raises else sat16 x.raises
    { x with vreq := some (BitVec.ofNat 10 (min 850 (v + 10))), high := 0, raises := raises, mstate := if busy then 2 else 0 }
  else
    let st : BitVec 2 := if busy then 1 else 0
    if rate < guardRate + 100 then { x with high := 0, mstate := st }
    else if x.high + 1 ≥ 100 then { x with high := 0, mstate := st, vreq := some (BitVec.ofNat 10 (max (Config.vreqCal g) (v - 5))) }
    else { x with high := x.high + 1, mstate := st }

/-- Cores of an owned group count the steps of the microsecond (Table 3-2). -/
def countSteps (g rate : Nat) (s : State) : State :=
  if (s.ownerOf g).isSome then
    forEach (fun k s => s.updCore (g * 64 + k) (fun c => { c with steps := c.steps + BitVec.ofNat 64 rate })) (List.range 64) s
  else s

/-- A speed fault: cores stop, steps with a task on the group and the stall's bubble work end with FAILED_DEVICE, the group leaves service (R214). -/
def speedFault (g : Nat) (s : State) : State :=
  let s1 := groupOut g 1 (s.updGroup g (fun x => { x with mstate := 3, faults := sat16 x.faults, speedFault := true }))
  let cores := (List.range 64).map (fun k => g * 64 + k)
  let hit := cores.filter (fun c => (s1.work c).task.isSome)
  let s2 := stopCores hit .device s1
  match s1.ownerOf g with
  | none => s2
  | some i => forEach (fun (p : Step) s => if p.runsBubble || p.cores.any (fun c => groupOf c == g) then failStep i p.tag .device s else s) (s2.inst i).steps s2

/-- TRANSIT_MEASUREMENT: RATE, LOW, then the comparison with GUARD and FLOOR. -/
def measure (g rate : Nat) (s : State) : State :=
  let s1 := s.updGroup g (fun x => { x with
    rate := BitVec.ofNat 16 rate, low := if x.low = 0 || rate < x.low.toNat then BitVec.ofNat 16 rate else x.low })
  if (s.group g).outOfService then s1
  else
    let s2 := countSteps g rate s1
    if rate < floorRate then speedFault g s2 else s2.updGroup g (adjustSupply g rate (groupBusy s2 g))

def execTransitMeasurement (group : GroupId) (rate : BitVec 16) (s : State) : Host.Outcome State Fault Refusal := .next (measure group.toNat rate.toNat s)

/-! ## Heat (R191, R215, R216) -/

/-- Bubble work of every stall at heat level 1 or above is suspended at once. -/
def shed (s : State) : State :=
  forEach (fun i s => match s.stall i with
    | some st => if (s.heat st).1 ≥ 1 then suspend i (s.updStall i (fun st => { st with lent := none })) else s
    | none => s) s.instNums s

/-- Causes and shedding follow a change of levels. -/
def heatChanged (s : State) : State := shed (followAllHeat (followLevels s))

/-- GROUP_THERMAL_LEVEL: a group's temperature, in tenths of a degree, and its level (Table 8-8). -/
def execGroupThermalLevel (group : GroupId) (tenths : Nat) (s : State) : Host.Outcome State Fault Refusal :=
  .next (heatChanged (s.updGroup group.toNat (fun x => { x with temp := tenths, level := thermalLevel groupThresholds x.level tenths })))

/-- STACK_THERMAL_LEVEL: a stack's temperature and level (Table 7-5). -/
def execStackThermalLevel (stack : Fin 12) (tenths : Nat) (s : State) : Host.Outcome State Fault Refusal :=
  .next (heatChanged { s with
    stackTemp := Tbl.set s.stackTemp stack tenths
    stackLevel := Tbl.set s.stackLevel stack (thermalLevel stackThresholds (Tbl.get 0 s.stackLevel stack) tenths) })

/-! ## Residency events (R116 to R120, R168) -/

/-- ADAPTER_RESIDENT: a fetch finishes; data that comes over a storage port has come first (R282). -/
def execAdapterResident (fn : FnId) (adapter : BitVec 32) (outcome : FetchEnd) (s : State) : Host.Outcome State Fault Refusal :=
  let i := fn.toNat
  let id := adapter.toNat
  .next (match s.adapterOf i id with
    | some a =>
      if !a.fetching || (outcome == .arrived && a.away) then s
      else match outcome with
        | .arrived => if a.poisoned then fetchFails i id St.failedMemory s else fetchArrives i id s
        | .poisoned => fetchFails i id St.failedMemory s
        | .noAnswer => fetchFails i id St.timeoutFabric s
    | none => s)

/-- EARLY_READ: into a free slot and free quota only, and only with a history of use (R120). -/
def execEarlyRead (fn : FnId) (adapter : BitVec 32) (s : State) : Host.Outcome State Fault Refusal :=
  let i := fn.toNat
  .next (match s.stall i, s.adapterOf i adapter.toNat with
    | some st, some a =>
      if a.slot.isSome || a.poisoned || (s.inst i).adapters.all (fun x => x.lastUse == 0)
        || decide (s.fixedUnits i + s.adapterUnits i + a.pages > st.fast) then s
      else match freeSlot (s.inst i) st.hot with
        | some k => placeFetch i st a k true s
        | none => s
    | _, _ => s)

/-- EXPERT_PREDICTED_FETCH: a predicted MOVE into the image's expert window, issued by the device (R168, R87). -/
def execExpertPredictedFetch (core : CoreId) (sram : BitVec 19) (len : BitVec 24) (mem : BitVec 48) (s : State) : Host.Outcome State Fault Refusal :=
  let c := core.toNat
  let d : Desc := BitVec.ofNat 128 (5 + 1 <<< 10 + sram.toNat <<< 16 + len.toNat <<< 40 + mem.toNat <<< 64)
  .next (match (s.ownerOf (groupOf c)).bind (fun i => (s.inst i).image) with
    | some im =>
      if moveOk d && decide (im.expertAddr ≤ sram.toNat) && decide (sram.toNat + len.toNat ≤ im.expertAddr + im.expertLen) && (s.work c).task.isSome then
        queueMove d true c (s.updWork c (fun w => { w with preds := w.preds ++ [{ sram := sram.toNat, len := len.toNat, mem := mem.toNat, done := false, dirty := false }] }))
      else s
    | none => s)

end Sys2Proof.Machine
end

