-- ==== Sys2Proof/Machine/MemMaint.lean ====
section
/-! DEFINITION. Maintenance activities, page moves, re-keying, scrub and repair: the meanings of the memory's own events (06_memory_tiers R162 to R164, R169; 07_memory_protection R185 to R195). -/

namespace Sys2Proof.Machine

/-! ## Where a line or grain belongs -/

/-- Byte offset in a page's stored space of a part's 512-byte grain. -/
def grainOffset (s : State) (e : Pte) (part grain : Nat) : Option Nat :=
  match s.sets[e.set]? with
  | none => none
  | some ps =>
    if !(ps.parts.contains part) then none
    else ((List.range (e.frames * 128)).find? (fun g => ps.locate (e.start + 512 * g) == some (part, grain * 512))).map (· * 512)

/-- The page that holds a line of a part: its key, its entry and the line's byte offset. -/
def ownerOfLine (s : State) (part line : Nat) : Option (Nat × Pte × Nat) :=
  s.pages.findSome? (fun p =>
    if p.2.valid && p.2.home != .store then (grainOffset s p.2 part (line / 4)).map (fun o => (p.1, p.2, o + line % 4 * 128)) else none)

/-- Logical address of a page's first byte, from its key. -/
def keyAddr (key : Nat) : Nat := if key / 2 ^ 33 = 64 then baseWindow + key % 2 ^ 33 * 65536 else key % 2 ^ 33 * 65536

/-- Keys of the pages that touch a frame of a part. -/
def pagesOnFrame (s : State) (part frame : Nat) : List Nat :=
  (s.pages.filter (fun p => p.2.valid && p.2.home != .store && (List.range 128).any (fun g => (grainOffset s p.2 part (frame * 128 + g)).isSome))).map (·.1)

/-- The layout region a private page lies in. -/
def regionOf (s : State) (inst la : Nat) : Option Region :=
  match (s.inst inst).image with
  | some im => im.regions.find? (fun r => decide (r.base ≤ la) && decide (la < r.base + r.len * 65536))
  | none => none

/-! ## Activities (R192 to R194) -/

/-- MAINT_ACTIVITY_START: a queued activity starts; a measurement hold ends at most 60 s later (R194). -/
def execMaintActivityStart (id : Nat) (s : State) : Host.Outcome State Fault Refusal :=
  .next (match findAct s id with
    | some a => if !a.running && mayStart s.acts a then startAct id (if a.kind = .mh then some (s.now.toNat + min a.arg 60 * 1000000000) else none) s else s
    | none => s)

/-- A group test ends (R95, R214): recorded cells are steered to spares; a group beyond repair is degraded. -/
def endGroupTest (g : Nat) (repaired degraded : Bool) (s : State) : State :=
  let cores := (List.range 64).map (fun k => g * 64 + k)
  let s1 := if repaired then forEach (fun c s =>
      if (s.core c).badCell.isSome then raiseDev 9 1 c (s.updCore c (fun k => { k with badCell := none })) else s) cores s else s
  if degraded then raiseDev 9 2 g (s1.updGroup g (fun x => { x with degraded := true, outOfService := true }))
  else s1.updGroup g (fun x => { x with outOfService := false, degraded := false, speedFault := false, mstate := 0, high := 0 })

/-- The last step of a live firmware update, once both Clerks run the new patch set (Table 16-4): DONE with the new FW_VERSION. -/
def endUpdate (a : Act) (s : State) : State :=
  if s.sys.fwStage != 3 then s
  else
    let s1 := (endAct a.id s).updSys (fun y => { y with fwStage := 0 })
    match a.tag with | some t => finishMaint t St.done s1.fwVersion s1 | none => s1

/-- MAINT_ACTIVITY_END: RESULT bit 0 tells success or repair, bit 1 a degraded group (Table 13-13). -/
def execMaintActivityEnd (id : Nat) (result : BitVec 128) (s : State) : Host.Outcome State Fault Refusal :=
  .next (match findAct s id with
    | none => s
    | some a =>
      if !a.running then s
      else
        let s1 := endAct id s
        match a.kind with
        | .cg =>
          let s2 := endGroupTest a.arg (bit result 0) (bit result 1) s1
          match a.tag with | some t => finishMaint t St.done (result.toNat % 4) s2 | none => s2
        | .fw => endUpdate a s
        | _ => match a.tag with | some t => finishMaint t St.done 0 s1 | none => s1)

/-- MEASUREMENT_HOLD_END: the hold's time has run out (R194). -/
def execMeasurementHoldEnd (id : Nat) (s : State) : Host.Outcome State Fault Refusal :=
  .next (match findAct s id with
    | some a =>
      match a.endBy with
      | some t =>
        if a.kind = .mh && a.running && t ≤ s.now.toNat then
          (match a.tag with | some tag => finishMaint tag St.done 0 (endAct id s) | none => endAct id s)
        else s
      | none => s
    | none => s)

/-! ## Page moves (Table 6-5) -/

def partsOf (s : State) (set : Nat) : List Nat := match s.sets[set]? with | some ps => ps.parts | none => []

/-- Lowest move id that no record holds. -/
def freeMoveId (s : State) : Nat := ((List.range 65535).find? (fun i => s.moves.all (fun m => m.id != i + 1))).getD 0 + 1

/-- Home, set and packing of a page at its destination. -/
def moveTarget (s : State) (inst la : Nat) (e : Pte) (dest : MoveTo) : Option (Home × Nat × Bool) :=
  match dest, s.stall inst with
  | .sameTier, _ => some (e.home, e.set, e.packed)
  | .fast, some st => if e.base || e.home == .fast then none else some (.fast, st.fastSet, false)
  | .slow, some st =>
    if e.base || e.home == .slow then none
    else some (.slow, st.slowSet, match regionOf s inst la with | some r => r.offload | none => false)
  | _, none => none

/-- The object signalled when the move back of an OFFLOAD region is complete (R169). -/
def moveDone (s : State) (inst la : Nat) (dest : MoveTo) : Option Nat :=
  match dest, regionOf s inst la with
  | .fast, some r => if r.offload && r.backDone != 0 then some r.backDone else none
  | _, _ => none

/-- PAGE_MOVE, steps 1 and 2 of Table 6-5: a frame is allocated, the record written, MOVING set. A move between tiers must have been declared; one within its tier declares itself (R163). -/
def pageMove (inst page : Nat) (dest : MoveTo) (s : State) : State :=
  let la := page * 65536
  let (key, e) := s.pageOf inst la
  match moveTarget s inst la e dest with
  | none => s
  | some (home, set, packed) =>
    if !e.valid || e.moving || e.home == .store || (e.rt && s.rtRunning inst) then s
    else
      let act := actFor s .mv (.page key)
      if act.isNone && dest != .sameTier then s
      else
        let s0 := match act with | some _ => s | none => declareAct .mv [.page key] none key s
        let res := Res.page key :: (partsOf s e.set ++ partsOf s set).map Res.part
        match actFor s0 .mv (.page key), freeFrame s0 set ({ e with packed := packed } : Pte).frames (if e.big && !packed then 32 else 1) with
        | some a, some f =>
          let a' := { a with res := res }
          if !mayStart s0.acts a' then s
          else
            let id := freeMoveId s0
            let rec_ : MoveRec := { id := id, inst := inst, page := page, home := home, set := set, frame := f, done := moveDone s inst la dest }
            { s0.setPte key { e with moving := true, moveId := id } with
              acts := s0.acts.map (fun x => if x.id == a.id then { a' with running := true } else x)
              moves := s0.moves ++ [rec_] }
        | _, _ => s

def execPageMove (inst : FnId) (page : Nat) (dest : MoveTo) (s : State) : Host.Outcome State Fault Refusal := .next (pageMove inst.toNat page dest s)

/-- Copy the stored lines of a page as they stand; an uncorrectable line is recorded and goes over poisoned (R162, R164). -/
def copyLines (inst key : Nat) (e e' : Pte) (ll0 : Nat) (finds : List LineFind) (s : State) : State :=
  forEach (fun i s =>
    match s.lineAt e (128 * i), s.lineAt e' (128 * i) with
    | some (p, l), some (q, m) =>
      let f := findAt finds i
      let s1 := if f = goodFind then s else (readStored inst key e (128 * i) (ll0 + i) { f with tagOk := true } s).2
      s1.setLine (lineKey q m) (s1.line (lineKey p l))
    | _, _ => s) (List.range (e.frames * 512)) s

/-- Blocks of a page as their source bytes, and whether each is good. -/
def pageBlocks (inst key : Nat) (e : Pte) (ll0 : Nat) (finds : List LineFind) (s : State) : List (Option Bytes) × State :=
  (List.range (e.bytes / 4096)).foldl (fun acc b =>
    if e.packed then
      let (r, s1) := readPacked inst key e ll0 b finds acc.2
      (acc.1 ++ [r], s1)
    else
      let (bs, bad, s1) := readStoredRun inst key e ll0 finds 32 (b * 4096) acc.2
      (acc.1 ++ [if bad then none else some bs], s1)) ([], s)

/-- Map and payloads of a PACKED page from its blocks, in FP8 coding where the content's format is not known (R173; log entry 23). -/
def packPage (blocks : List (Option Bytes)) : Bytes :=
  let r := blocks.foldl (fun (acc : Bytes × Bytes) b =>
    let (e, pay) := mapEntry 0 (b.getD (List.replicate 4096 0)) (256 + acc.2.length / 16)
    (acc.1 ++ leBytes 8 e, acc.2 ++ pay)) ([], [])
  sub r.1 0 4096 ++ r.2

/-- Write the stored bytes of a page as private lines under a fresh MAP; the lines of bad blocks are poisoned. -/
def storePage (e : Pte) (ll0 : Nat) (bs : Bytes) (bad : Nat → Bool) (s : State) : State :=
  forEach (fun i s =>
    match s.lineAt e (128 * i) with
    | some (p, l) =>
      let ln := encLine e.inst e.gen e.epoch (ll0 + i) e.map 1 (sub bs (128 * i) 128)
      s.setLine (lineKey p l) (if bad i then { ln with poison := 15 } else ln)
    | none => s) (List.range (cdiv bs.length 128)) s

/-- Copy between a packed and an unpacked form: decoded or coded anew, under a fresh MAP (R169, R172). -/
def recodePage (inst key : Nat) (e e0 : Pte) (ll0 : Nat) (finds : List LineFind) (s : State) : Pte × State :=
  let (blocks, s1) := pageBlocks inst key e ll0 finds s
  let (ep, m, s2) := takeMap inst s1
  let e' := { e0 with epoch := ep, map := m }
  if e'.packed then
    -- a bad block is coded as zeros and its map line is poisoned, so that no later read takes it for good
    (e', storePage e' ll0 (packPage blocks) (fun i => decide (i < 32) && (List.range 16).any (fun k => blocks.getD (16 * i + k) (some []) == none)) s2)
  else
    (e', storePage e' ll0 (blocks.flatMap (fun b => b.getD (List.replicate 4096 0))) (fun i => blocks.getD (i / 32) (some []) == none) s2)

/-- A region's pages all lie at home, and no move of them is declared or running. -/
def regionSettled (s : State) (inst : Nat) (r : Region) : Bool :=
  (List.range (if r.big then r.len / 32 else r.len)).all (fun i =>
    let key := pageKey inst (r.base + i * (if r.big then 2 ^ 21 else 65536))
    !(s.pte key).moving && (actFor s .mv (.page key)).isNone)

/-- PAGE_MOVE_COMPLETE, steps 3 to 5: the copy, one write that switches the entry, the source frame zeroed; BACK_DONE once the region is back. -/
def pageMoveComplete (id : Nat) (finds : List LineFind) (s : State) : State :=
  match s.moves.find? (fun m => m.id == id) with
  | none => s
  | some m =>
    let la := m.page * 65536
    let (key, e) := s.pageOf m.inst la
    if !e.valid || !e.moving || e.moveId != id then s
    else
      let packed := (m.home == .slow && e.packed) || (m.home == .slow && e.home == .fast && (match regionOf s m.inst la with | some r => r.offload | none => false))
      let e0 := { e with home := m.home, set := m.set, frame := m.frame, moving := false, moveId := 0, packed := packed }
      let ll0 := pageFirstLine la e
      if packed != e.packed && s.mapWaits m.inst then s
      else
      let (e', s1) := if packed = e.packed then (e0, copyLines m.inst key e e0 ll0 finds s) else recodePage m.inst key e e0 ll0 finds s
      let s2 := zeroPage e e.frames (s1.setPte key e')
      let s3 := { s2 with moves := s2.moves.filter (fun x => x.id != id) }
      let s4 := match actFor s3 .mv (.page key) with | some a => endAct a.id s3 | none => s3
      match m.done, regionOf s4 m.inst la with
      | some obj, some r => if regionSettled s4 m.inst r then (addObj m.inst obj 1 s4).1 else s4
      | _, _ => s4

def execPageMoveComplete (id : Nat) (finds : List LineFind) (s : State) : Host.Outcome State Fault Refusal := .next (pageMoveComplete id finds s)

/-! ## Re-keying (Table 7-4) -/

/-- The oldest live epoch: the one farthest behind the current, 255 followed by 1 (R181, R188). -/
def oldestEpoch (s : State) (inst : Nat) : Option Nat :=
  (liveEpochs s inst).foldl (fun (best : Option (Nat × Nat)) e =>
    let age := ((s.inst inst).epoch + 255 - e) % 255
    match best with | some (a, b) => if age > a then some (age, e) else some (a, b) | none => some (age, e)) none |>.map (·.2)

/-- REKEY_PAGE, steps 1 and 2: a marked page, or one of the oldest epoch while 128 are live (R188), takes a fresh MAP and a record. -/
def rekeyPage (inst page : Nat) (s : State) : State :=
  let (key, e) := s.pageOf inst (page * 65536)
  if !e.valid || e.base then s
  else
    let s0 := if (actFor s .rk (.page key)).isNone && decide ((liveEpochs s inst).length ≥ 128) && oldestEpoch s inst == some e.epoch then markRekey inst key s else s
    match actFor s0 .rk (.page key) with
    | some a => if a.running then ensureRekey inst key s0 else if mayStart s0.acts a then ensureRekey inst key (startAct a.id none s0) else s
    | none => s

def execRekeyPage (inst : FnId) (page : Nat) (s : State) : Host.Outcome State Fault Refusal := .next (rekeyPage inst.toNat page s)

/-- REKEY_COMPLETE, steps 3 and 4: every line under the record's epoch and MAP, then KEY_EPOCH, and the record cleared. -/
def rekeyComplete (inst page : Nat) (finds : List LineFind) (s : State) : State :=
  let (key, e) := s.pageOf inst (page * 65536)
  match s.rekeyOf e key, actFor s .rk (.page key) with
  | some r, some a =>
    if !a.running then s
    else
      let ll0 := pageFirstLine (page * 65536) e
      let s1 := forEach (fun i s => rekeyLine inst key e r (128 * i) (ll0 + i) (findAt finds i) s) (List.range (e.frames * 512)) s
      let s2 := s1.setPte key { e with epoch := r.epoch, map := r.map }
      endAct a.id { s2 with rekeys := s2.rekeys.filter (fun x => x != r) }
  | _, _ => s

def execRekeyComplete (inst : FnId) (page : Nat) (finds : List LineFind) (s : State) : Host.Outcome State Fault Refusal := .next (rekeyComplete inst.toNat page finds s)

/-- Ingests whose lines waited are tried again. -/
def retryIngests (inst : Nat) (s : State) : State := forEach (fun (p : Step) s => ingestSettle inst p.tag [] s) (s.inst inst).steps s

/-- LINE_REKEY_COMPLETE: the line a write waits for is re-keyed out of order (R187). -/
def lineRekey (inst line : Nat) (s : State) : State :=
  let la := line * 128
  let (key, e) := s.pageOf inst la
  match s.rekeyOf e key with
  | some r => retryIngests inst (rekeyLine inst key e r (la % e.bytes) line goodFind s)
  | none => s

def execLineRekeyComplete (inst : FnId) (line : Nat) (s : State) : Host.Outcome State Fault Refusal := .next (lineRekey inst.toNat line s)

/-! ## Scrub and repair (R189, R190) -/

/-- Nothing that runs on a part holds scrub off (Table 7-7). -/
def scrubFree (s : State) (part : Nat) : Bool :=
  s.acts.all (fun b => !(b.running && queues .sc b.kind && b.res.any (fun r => (Res.part part).overlap r)))

/-- A visit of patrol scrub to a line: the checks of Table 7-2 with their records; a line in no page belongs to nobody. -/
def scrubVisit (part : Nat) (f : LineFind) (s : State) : State :=
  if !scrubFree s part then s
  else match ownerOfLine s part f.line with
    | some (key, e, off) => (readStored e.inst key e off (keyAddr key / 128 + off / 128) f s).2
    | none =>
      let frame := frameOfLine f.line
      let s1 := if findCorrected f then raiseDev 8 0 (frameDetail part frame) (noteCorrections part f.line f s) else s
      if findBadWords f != 0 || f.mdata == .bad then sendToRetirement part frame s1 else s1

def execPatrolScrubVisit (part : Fin 28) (find : LineFind) (s : State) : Host.Outcome State Fault Refusal :=
  if find.line ≥ partLines part then .fault .beyondPart else .next (scrubVisit part find s)

/-- Move one page to other frames of its set. -/
def relocatePage (key : Nat) (s : State) : Option State :=
  let e := s.pte key
  match freeFrame s e.set e.frames (if e.big && !e.packed then 32 else 1) with
  | none => none
  | some f =>
    let e' := { e with frame := f }
    some (zeroPage e e.frames ((copyLines e.inst key e e' (keyAddr key / 128) [] s).setPte key e'))

def relocateAll : List Nat → State → Option State
  | [], s => some s
  | k :: ks, s => match relocatePage k s with | some s1 => relocateAll ks s1 | none => none

/-- Steer the failing row to a spare (R190). -/
def spareRow (part row : Nat) (s : State) : State :=
  let n := Tbl.get 0 s.sparesUsed part + 1
  let s1 := raiseDev 8 3 (part + row <<< 5) { s with sparesUsed := Tbl.set s.sparesUsed part n }
  if n = Config.spareRows part then raiseDev 8 4 part s1 else s1

/-- Retirement of a frame: its pages move away, it is never given out again, and its row is spared where the part has a spare (R190). It waits for the arbiter, for room, and for a real-time slot that runs on an RT page. -/
def retireFrame (part frame : Nat) (row : Option Nat) (s : State) : State :=
  match actFor s .fr (.frame part frame) with
  | none => s
  | some a =>
    let keys := pagesOnFrame s part frame
    if !(a.running || mayStart s.acts a) || keys.any (fun k => (s.pte k).rt && s.rtRunning (s.pte k).inst) || keys.any (fun k => (s.pte k).moving) then s
    else
      match relocateAll keys { s with retired := s.retired ++ [(part, frame)] } with
      | none => s
      | some s1 =>
        let s2 := endAct a.id (raiseDev 8 2 (frameDetail part frame) s1)
        match row with | some r => spareRow part r s2 | none => s2

def execFrameRetirement (part : Fin 28) (frame : Nat) (sparedRow : Option Nat) (s : State) : Host.Outcome State Fault Refusal :=
  if frame * 512 ≥ partLines part then .fault .beyondPart else .next (retireFrame part frame sparedRow s)

/-- CHANNEL_RECAL: interface errors declare the recalibration of one channel, which starts unless it must queue (R192, Table 15-6). -/
def execChannelRecal (part : Fin 28) (channel : BitVec 7) (s : State) : Host.Outcome State Fault Refusal :=
  let s1 := declareAct .pc [.channel part channel.toNat] none (part + channel.toNat <<< 5) (raiseDev 8 5 (part + channel.toNat <<< 5) s)
  .next (match findAct s1 s.nextAct with
    | some a => if mayStart s1.acts a then startAct a.id none s1 else s1
    | none => s1)

/-- A run of frames that waits for tenant scrub and touches a part's frame. -/
def scrubRun (s : State) (part frame : Nat) : Option ScrubRun :=
  s.scrub.find? (fun r =>
    match s.sets[r.set]? with
    | some ps => (List.range (r.count * 128)).any (fun g => match ps.locate (r.frame * 65536 + 512 * g) with | some (p, a) => p == part && a / 65536 == frame | none => false)
    | none => false)

/-- TENANT_SCRUB: the run of frames is written as ZERO and returned to the free pool (R391 step 6). -/
def execTenantScrub (part : Fin 28) (frame : Nat) (s : State) : Host.Outcome State Fault Refusal :=
  if frame * 512 ≥ partLines part then .fault .beyondPart
  else .next (match scrubRun s part frame with
    | some r => zeroPage { set := r.set, frame := r.frame } r.count { s with scrub := s.scrub.filter (fun x => x != r) }
    | none => s)

end Sys2Proof.Machine
end

