-- ==== Sys2Proof/Machine/Fabric.lean ====
section
/-! DEFINITION. Links, flows, collectives: the meanings of the fabric's events (10_fabric R255 to R279; 11_mapping R291, R296). Every frame row first runs the receiver's checks in the order of R261. -/

namespace Sys2Proof.Machine

/-! ## The receiver of a link (R261, R262, R264) -/

/-- A LINK_ACK: acknowledgement or NAK of the expected LSEQ, and every credit owed (log entry 17). -/
def sendLinkAck (port : Nat) (nak : Bool) (s : State) : State :=
  let p := s.port port
  let credits := (List.range 11).map (fun k => BitVec.ofNat 8 (min 255 (Tbl.get 0 p.owed k)))
  sendControl port 9 (leBytes 1 (b2n nak) ++ leBytes 2 (p.expLseq % 4096) ++ credits) (s.updPort port (fun p => { p with owed := [] }))

/-- A damaged or missing frame draws one NAK until the named frame arrives. -/
def damaged (port : Nat) (s : State) : State :=
  if (s.port port).nakSent then s else sendLinkAck port true (s.updPort port (fun p => { p with nakSent := true }))

/-- Whether a cumulative LACK, the next LSEQ expected, covers a kept frame. -/
def linkCovers (lack seq : Nat) : Bool :=
  let d := (lack + 4096 - seq % 4096) % 4096
  decide (1 ≤ d) && decide (d ≤ 2048)

/-- Frames that a LACK covers leave the replay buffer, and waiting frames may go. -/
def ackLink (port lack : Nat) (s : State) : State :=
  drainPort port (s.updPort port (fun p => { p with replay := p.replay.filter (fun k => !linkCovers lack k.seq) }))

def sat32 (v : BitVec 32) (n : Nat) : BitVec 32 := BitVec.ofNat 32 (min (2 ^ 32 - 1) (v.toNat + n))

def dropOther (port : Nat) (s : State) : State := s.updPort port (fun p => { p with dropOther := sat16 p.dropOther })
def dropTarget (port : Nat) (s : State) : State := s.updPort port (fun p => { p with dropTarget := sat16 p.dropTarget })

/-- The link's checks of a frame: cells, key, tag, LSEQ; true where it is the next frame of the stream. -/
def linkAccept (port : Nat) (f : RxFrame) (s : State) : Bool × State :=
  let p := s.port port
  let h := Hdr.parse f.hdr
  if p.mode != .sfl || !(p.st == .hailing || p.st == .attesting || p.st == .up) then (false, s)
  else
    let s1 := s.updPort port (fun p => { p with fecCorr := sat32 p.fecCorr f.corrected })
    if f.cellBad then (false, damaged port s1)
    else if p.st == .up && h.lkey != p.lkey && !p.keySwitch then (false, s1.updPort port (fun p => { p with dropKey := sat16 p.dropKey }))
    else if f.tagBad then (false, damaged port s1)
    else
      let s2 := ackLink port h.lack s1
      let d := (h.lseq + 4096 - p.expLseq % 4096) % 4096
      if d = 0 then (true, s2.updPort port (fun p => { p with expLseq := p.expLseq + 1, nakSent := false }))
      else if p.nakSent then (false, s2)
      else if d < 2048 then (false, damaged port s2)
      else (false, s2)

/-- A buffer is free again at once: its credit is owed. -/
def oweCredit (port pool : Nat) (s : State) : State := s.updPort port (fun p => { p with owed := Tbl.upd 0 p.owed pool (· + 1) })

def knownTypes : List Nat := [0, 1, 2, 3, 4, 5, 6, 8, 9, 0xA, 0xB]

/-- Header faults: reserved bits, TYPE, VC, CELLS, LEN (R257 to R259). -/
def frameFault (f : RxFrame) (h : Hdr) : Bool :=
  (f.hdr.toNat &&& hdrReserved) != 0 || !(knownTypes.contains h.typ) || h.cells == 0 || decide (h.cells > 8)
  || decide (h.len > 134 * h.cells - 48) || h.len != f.payload.length
  || (if h.typ ≥ 8 then h.vc != 0 else h.vc == 0 || decide (h.vc > 4))

/-- Forward a frame by its path, one VC up; at a port that is not UP it is dropped, and its source is told (R263, Table 10-2). -/
def forward (port pool : Nat) (h : Hdr) (payload : Bytes) (s : State) : State :=
  let out := pathPort h.path h.vc
  if out ≥ 96 || h.vc = 4 then oweCredit port pool (dropOther port s)
  else if !((s.port out).st == .up && (s.port out).mode == .sfl) then sendPathDown h (oweCredit port pool (dropOther port s))
  else
    let s1 := s.updPort port (fun p => { p with buffered := Tbl.upd 0 p.buffered pool (· + 1) })
    sendFrame out { h with vc := h.vc + 1 } payload (some (port, pool)) s1

/-- Receive a frame of the row's TYPE. A frame whose TYPE another row names has no effect here; one of no TYPE of Table 10-2 is dropped and counted. -/
def onFrame (port typ : Nat) (f : RxFrame) (local_ : Hdr → State → State) (s : State) : State :=
  let h := Hdr.parse f.hdr
  if h.typ != typ && knownTypes.contains h.typ then s
  else
    let (ok, s1) := linkAccept port f s
    if !ok then s1
    else
      let p := s1.port port
      let pool := (pickPool p.buffered h).getD 10
      if frameFault f h || (p.st != .up && !(h.typ == 8 || h.typ == 9 || h.typ == 0xB)) then oweCredit port pool (dropOther port s1)
      else if h.vc = 0 || h.dest = s1.sys.devId.toNat then local_ h (oweCredit port pool s1)
      else forward port pool h f.payload s1

/-! ## The destination of a flow (R272 to R274) -/

def State.dstOf (s : State) (flow : Nat) : Option FlowDst := (s.flowDst.find? (fun p => p.1 == flow)).map (·.2)

def updDst (flow : Nat) (g : FlowDst → FlowDst) (s : State) : State :=
  { s with flowDst := s.flowDst.map (fun p => if p.1 == flow then (p.1, g p.2) else p) }

/-- Answer on a flow: the expected SEQ, with a status: 0 OK, 1 NAK, 2 ERR_TARGET, 3 ERR_GONE. -/
def answer (flow status : Nat) (s : State) : State :=
  match s.dstOf flow with
  | some d => sendE2eAck d.src flow (b2n d.bubble) (d.expSeq % 2 ^ 24) d.epoch status (updDst flow (fun d => { d with unacked := 0 }) s)
  | none => s

/-- A frame of a flow: its entry, its EPOCH, its SEQ; an accepted one runs `act`, which says how it was answered. -/
def flowFrame (port : Nat) (h : Hdr) (act : FlowDst → State → Nat × State) (s : State) : State :=
  match s.dstOf h.flow with
  | none => dropOther port s
  | some d =>
    if !d.opened || d.src != h.src then dropOther port s
    else
      let de := (h.epoch + 16 - d.epoch) % 16
      if de > 7 then dropOther port s
      else
        let s1 := updDst h.flow (fun d => { d with epoch := h.epoch, port := port }) s
        let diff := (h.seq + 2 ^ 24 - d.expSeq % 2 ^ 24) % 2 ^ 24
        if diff = 0 then
          let (status, s2) := act d (updDst h.flow (fun d => { d with expSeq := d.expSeq + 1, unacked := d.unacked + 1 }) s1)
          if status != 0 then answer h.flow status s2
          else match s2.dstOf h.flow with
            | some d2 => if d2.unacked ≥ 16 then answer h.flow 0 s2 else s2
            | none => s2
        else if diff < 2 ^ 23 then answer h.flow 1 (dropOther port s1)
        else answer h.flow 0 (dropOther port s1)

/-- INSTANCE and GEN, then CLASS, of an accepted frame (R274). -/
def entryStatus (d : FlowDst) (h : Hdr) (s : State) : Nat :=
  if h.inst != d.fn || h.gen != (s.inst d.fn).gen.toNat || d.gen != (s.inst d.fn).gen.toNat then 3
  else if (h.cls == 1) != d.bubble then 2
  else if h.sig && s.ownsObj d.fn h.sync && (s.obj h.sync).kind != 3 && (s.obj h.sync).cls != d.bubble then 2
  else 0

/-- A destination region keeps to the reserved area's rules and to SRAM (R220, R274). -/
def areaOk (d : FlowDst) (a n : Nat) (s : State) : Bool :=
  decide (a + n ≤ sramBytes) &&
  (if d.bubble then decide (a + n ≤ s.areaStart d.fn) else decide (s.areaStart d.fn ≤ a) || s.rtRunning d.fn)

/-- A discarded frame is counted and answered (R274, R365). -/
def refuseFrame (port status inst : Nat) (s : State) : Nat × State :=
  (status, if status = 3 then (lateDiscard inst 2 s).updPort port (fun p => { p with dropGen := sat16 p.dropGen }) else dropTarget port s)

/-- The running work of a class takes an uncorrected-contained error. -/
def failRunning (inst : Nat) (bubble : Bool) (why : StopWhy) (s : State) : State :=
  forEach (fun (p : Step) s =>
    if (bubble && (match p.at_ with | .bubble _ => true | _ => false)) || (!bubble && p.runsRt) then failStep inst p.tag why s else s)
    (s.inst inst).steps s

/-- The signal a frame carries: outside the stall's range it is discarded and counted (R226); an addition that saturates fails the step (R222). -/
def frameSignal (port : Nat) (d : FlowDst) (obj : Nat) (s : State) : State :=
  if !s.ownsObj d.fn obj then dropTarget port s
  else
    let (s1, sat) := carried d.fn obj s
    if sat then failRunning d.fn d.bubble .device s1 else s1

/-- DATA: written whole or ledger-added, then its signal acts; a poisoned payload leaves its words poisoned (R274). -/
def dataLands (port : Nat) (h : Hdr) (payload : Bytes) (d : FlowDst) (s : State) : Nat × State :=
  let st := entryStatus d h s
  let a := h.dst * 64
  if st != 0 then refuseFrame port st d.fn s
  else if (reshardFrom s d.fn h.src d.bubble).isSome then (0, reshardData d.fn ((reshardFrom s d.fn h.src d.bubble).getD 0) h.src payload s)
  else if !areaOk d a payload.length s then refuseFrame port 2 d.fn s
  else if !(match s.stall d.fn with | some x => x.holds h.core | none => false) then refuseFrame port 2 d.fn s
  else
    let flags := h.lovf || h.lnf
    let s1 :=
      if h.poison then writeFor d.bubble h.core a (if h.oper = 1 then readFor d.bubble h.core a payload.length s else payload) true s
      else if h.oper = 1 then ledgerInto d.fn d.bubble h.core a payload flags s
      else markArrival d.fn d.bubble flags (writeFor d.bubble h.core a payload false s)
    (0, if h.sig then frameSignal port d h.sync s1 else s1)

/-- DATA_FRAME. -/
def execDataFrame (port : Fin 96) (f : RxFrame) (s : State) : Host.Outcome State Fault Refusal :=
  .next (onFrame port 0 f (fun h => flowFrame port h (dataLands port h f.payload)) s)

/-- The gap event of the cut a flow belongs to (R291). -/
def gapOf (s : State) (inst flow : Nat) : Option Nat :=
  match (s.inst inst).image, s.stall inst with
  | some im, some st =>
    match im.flows.find? (fun d => d.recv && d.flow == flow) with
    | some d => match im.cuts[d.cut]? with
      | some c => if c.pipe then some (st.syncBase + c.gap) else none
      | none => none
    | none => none
  | _, _ => none

/-- SIGNAL: its signal acts; a SIGNAL frame without SIG sets the gap event of its flow's cut (log entry 17). -/
def signalLands (port : Nat) (h : Hdr) (d : FlowDst) (s : State) : Nat × State :=
  let st := entryStatus d h s
  if st != 0 then refuseFrame port st d.fn s
  else if h.sig then (0, frameSignal port d h.sync s)
  else match gapOf s d.fn h.flow with
    | some o => (0, s.updObj o SyncObj.setEvent)
    | none => (0, s)

/-- SIGNAL_FRAME. -/
def execSignalFrame (port : Fin 96) (f : RxFrame) (s : State) : Host.Outcome State Fault Refusal :=
  .next (onFrame port 1 f (fun h => flowFrame port h (signalLands port h)) s)

/-! ## Collectives (R276 to R278) -/

/-- A collective fails on this device: COLL_FAILED, and the step ends with TIMEOUT_FABRIC. -/
def failColl (inst : Nat) (c : Coll) (s : State) : State :=
  failRunning inst c.bubble .fabric (raise inst 3 3 c.coll { s with colls := s.colls.filter (fun r => !(r.fn == inst && r.coll == c.coll)) })

/-- Coded data: whole blocks land behind what the member has brought; a block that fails its check lands poisoned. -/
def collCoded (inst : Nat) (c : Coll) (m : Nat) (payload : Bytes) (s : State) : State :=
  match runOf s inst c.coll with
  | none => s
  | some r =>
    let all := Tbl.get [] r.streams m ++ payload
    let (blocks, left) := takeBlocks (all.length / 8 + 1) all
    forEach (fun (b : Bytes × Bool) s =>
      match runOf s inst c.coll with
      | none => s
      | some r =>
        let have_ := Tbl.get 0 r.got m
        let bs := b.1.take (c.share - have_)
        let s1 := collPut inst c m (c.place m + have_) bs false s
        if b.2 then s1 else writeFor c.bubble c.core (c.dst + c.place m + have_) bs true s1)
      blocks (updRun inst c.coll (fun r => { r with streams := Tbl.set r.streams m left }) s)

/-- COLL data from a member: placed or reduced; a frame that disagrees with this device's descriptor fails the collective (R276). -/
def collLands (port : Nat) (h : Hdr) (payload : Bytes) (d : FlowDst) (s : State) : Nat × State :=
  let st := entryStatus d { h with sig := false } s
  if st != 0 then refuseFrame port st d.fn s
  else match collOf s d.fn h.coll with
    | none => refuseFrame port 2 d.fn s
    | some c =>
      match c.list.findIdx? (fun x => x.1 == h.src) with
      | none => refuseFrame port 2 d.fn s
      | some m =>
        if c.bubble != d.bubble || !areaOk d c.dst c.dstBytes s then refuseFrame port 2 d.fn s
        else
          let off := h.offset * 64
          let lo := c.place m
          let span := c.expects m
          if (h.oper == 1) != decide (c.kind < 2) || span = 0 || off < lo || (!c.compress && off + payload.length > lo + span) then
            (0, failColl d.fn c s)
          else
            let s1 := ensureColl d.fn c s
            if c.compress then (0, collCoded d.fn c m payload s1)
            else if h.poison then (0, updRun d.fn c.coll (fun r => { r with got := Tbl.upd 0 r.got m (· + payload.length) }) (writeFor c.bubble c.core (c.dst + off) payload true s1))
            else (0, markArrival d.fn d.bubble (h.lovf || h.lnf) (collPut d.fn c m off payload (h.lovf || h.lnf) s1))

/-- COLL_FRAME. -/
def execCollFrame (port : Fin 96) (f : RxFrame) (s : State) : Host.Outcome State Fault Refusal :=
  .next (onFrame port 2 f (fun h => flowFrame port h (collLands port h f.payload)) s)

/-- Every member's part of a collective is in DST. -/
def collFull (c : Coll) (r : CollRun) : Bool :=
  r.started && (List.range c.list.length).all (fun m => decide (Tbl.get 0 r.got m ≥ c.expects m))

/-- COLLECTIVE_COMPLETE: DST is complete and visible; 1 is added to DONE (R278). -/
def execCollectiveComplete (fn : FnId) (coll : BitVec 16) (s : State) : Host.Outcome State Fault Refusal :=
  let i := fn.toNat
  .next (match collOf s i coll.toNat, runOf s i coll.toNat with
    | some c, some r =>
      if !collFull c r then s
      else
        let (s1, sat) := addObj i c.done 1 { s with colls := s.colls.filter (fun x => !(x.fn == i && x.coll == c.coll)) }
        if sat then failRunning i c.bubble .device s1 else s1
    | _, _ => s)

/-- COLLECTIVE_TIMEOUT: its TIMEOUT has passed (R278). -/
def execCollectiveTimeout (fn : FnId) (coll : BitVec 16) (s : State) : Host.Outcome State Fault Refusal :=
  let i := fn.toNat
  .next (match collOf s i coll.toNat, runOf s i coll.toNat with
    | some c, some r => if s.now.toNat ≥ r.startedAt + c.timeout * 1000 then failColl i c s else s
    | _, _ => s)

/-! ## The source of a flow (R272, R273) -/

/-- Whether an answer that names the next SEQ covers a kept frame. -/
def flowCovers (next seq : Nat) : Bool :=
  let d := (next + 2 ^ 24 - seq % 2 ^ 24) % 2 ^ 24
  decide (1 ≤ d) && decide (d ≤ 2 ^ 23)

/-- Cores of a stall that hold on FENCE or END look again. -/
def settleStall (inst : Nat) (s : State) : State :=
  match s.stall inst with
  | some st => forEach settle st.cores s
  | none => s

/-- E2E_ACK: covered copies are freed; a NAK resends the rest; an error fails the transfer of the step that sent it (R272, R274). -/
def ackLands (h : Hdr) (payload : Bytes) (s : State) : State :=
  let key := flowKey h.src h.flow
  let f := s.src key
  if f.broken || !f.opened then s
  else
    let kept := f.retained.filter (fun k => !flowCovers h.seq k.seq)
    let s1 := s.updSrc key (fun f => { f with retained := kept, timeouts := if kept.length < f.retained.length then 0 else f.timeouts })
    let s2 := drainFlow key (countTags (pathPort f.path 0) s1)
    let status := num payload 0 1
    let s3 :=
      if status = 1 then resendAll key s2
      else if status ≥ 2 then failRunning f.fn f.bubble .fabric (raise f.fn 3 0 (h.flow + b2n (status == 3) <<< 20) s2)
      else s2
    settleStall f.fn s3

/-- E2E_ACK. -/
def execE2eAck (port : Fin 96) (f : RxFrame) (s : State) : Host.Outcome State Fault Refusal :=
  .next (onFrame port 4 f (fun h => ackLands h f.payload) s)

/-- PATH_DOWN: the flow reroutes under a new EPOCH; a report under an earlier EPOCH is stale (R273). -/
def execPathDown (port : Fin 96) (f : RxFrame) (s : State) : Host.Outcome State Fault Refusal :=
  .next (onFrame port 5 f (fun h s =>
    let key := flowKey (num f.payload 0 2) h.flow
    if (s.src key).opened && (s.src key).epoch == h.epoch then reroute key s else s) s)

/-- E2E_ACK_TIMER: the destination acknowledges at least every 1 µs (R272). -/
def execE2eAckTimer (flow : BitVec 20) (s : State) : Host.Outcome State Fault Refusal :=
  .next (match s.dstOf flow.toNat with
    | some d => if d.unacked > 0 then answer flow.toNat 0 s else s
    | none => s)

/-- FLOW_RESEND_TIMEOUT: resend on the same path; the second without progress fails the path (R272). -/
def execFlowResendTimeout (dest : BitVec 14) (flow : BitVec 20) (s : State) : Host.Outcome State Fault Refusal :=
  let key := flowKey dest.toNat flow.toNat
  let f := s.src key
  .next (if !f.opened || f.broken || f.fenced || f.retained.isEmpty then s
    else if f.timeouts ≥ 1 then reroute key s
    else resendAll key (s.updSrc key (fun f => { f with timeouts := f.timeouts + 1 })))

/-- A flow is broken: FLOW_BROKEN, its frames are gone, collectives that use it fail, and the steps that wait on it end with TIMEOUT_FABRIC (R273, R278). -/
def breakFlow (key : Nat) (s : State) : State :=
  let f := s.src key
  let s1 := countTags (pathPort f.path 0) (s.updSrc key (fun f => { f with broken := true, retained := [], queue := [] }))
  let s2 := raise f.fn 3 2 f.flow s1
  let s3 := forEach (fun (r : CollRun) s =>
    match collOf s r.fn r.coll with
    | some c => if r.fn == f.fn && c.list.any (fun x => x.1 == f.dest && x.2.1 == f.flow) then failColl r.fn c s else s
    | none => s) s2.colls s2
  failRunning f.fn f.bubble .fabric s3

/-- FLOW_NO_PATH_TIMEOUT: a fenced flow has found no valid path. -/
def execFlowNoPathTimeout (dest : BitVec 14) (flow : BitVec 20) (s : State) : Host.Outcome State Fault Refusal :=
  let key := flowKey dest.toNat flow.toNat
  let f := s.src key
  .next (if f.opened && !f.broken && f.fenced then breakFlow key s else s)

/-! ## Loss of a member (R275, R296) -/

/-- A job loses a member: JOB_LOST, its collectives fail, a verdict it awaits completes with FAILED. -/
def loseMember (inst job dev : Nat) (s : State) : State :=
  match s.jobOf inst job with
  | none => s
  | some j =>
    if j.lost.contains dev || !(j.members.any (fun e => e.device == dev)) then s
    else
      let s1 := raise inst 3 8 (job % 2 ^ 32) (s.updJob inst job (fun j => { j with
        lost := j.lost ++ [dev], st := if j.st == .jReshard then .jReshard else .jLost }))
      let s2 := forEach (fun (r : CollRun) s =>
        match collOf s r.fn r.coll with
        | some c => if r.fn == inst && c.list.any (fun x => x.1 == dev) then failColl inst c s else s
        | none => s) s1.colls s1
      let waits := (match s2.jobStep inst job with | some p => p.at_ == .verdict | none => false) || (match j.reshard with | some r => !r.waiting | none => false)
      if waits then applyVerdict inst job ((combine j.votes).1 ||| 8) s2 else s2

/-- The device that first finds a loss tells every member of each job that holds the device (R275). -/
def reportLoss (dev : Nat) (s : State) : State :=
  let held := s.insts.flatMap (fun n => (n.2.jobs.filter (fun j => j.members.any (fun e => e.device == dev) && !j.lost.contains dev)).map (fun j => (n.1, j)))
  if held.isEmpty then s
  else
    forEach (fun (x : Nat × Job) s => loseMember x.1 x.2.id dev (sendLoss x.2 dev s)) held (raiseDev 10 4 (dev % 2 ^ 14) s)

/-- LOSS: the job it names loses the device. -/
def execLoss (port : Fin 96) (f : RxFrame) (s : State) : Host.Outcome State Fault Refusal :=
  .next (onFrame port 6 f (fun _ s =>
    let job := num f.payload 0 4
    let dev := num f.payload 4 2
    let held := s.insts.filter (fun n => n.2.jobs.any (fun j => j.id == job && j.members.any (fun e => e.device == dev) && !j.lost.contains dev))
    if held.isEmpty then s else forEach (fun n s => loseMember n.1 job dev s) held (raiseDev 10 4 (dev % 2 ^ 14) s)) s)

/-- MEMBER_LOSS_TIMEOUT: no valid path to a member for 50 µs. -/
def execMemberLossTimeout (dev : BitVec 14) (s : State) : Host.Outcome State Fault Refusal :=
  .next (if (routeTo s dev.toNat).isSome || dev == s.sys.devId then s else reportLoss dev.toNat s)

/-! ## Bring-up (R267 to R270) -/

/-- Ports may train: fully operational, with their reference clock (R415, R424). -/
def State.linksRun (s : State) : Bool := s.sys.phase == .operational && !s.sys.fatal && s.sys.linkRefclkOk

/-- PORT_SIGNAL_DETECT: step 2 of Table 10-6. -/
def execPortSignalDetect (port : Fin 96) (s : State) : Host.Outcome State Fault Refusal :=
  let p := s.port port
  .next (if s.linksRun && p.mode == .sfl && (p.st == .down || p.st == .stopping) then s.updPort port (fun p => { p with st := .training }) else s)

/-- LINK_TRAINING_DONE: an SFL port starts hailing; a storage port is up. -/
def execLinkTrainingDone (port : Fin 96) (s : State) : Host.Outcome State Fault Refusal :=
  let p := s.port port
  .next (if !s.linksRun then s
    else if p.mode == .sfl && p.st == .training then s.updPort port (fun p => { p with st := .hailing, hailCount := 0, echo := 0 })
    else if p.mode == .storage && p.st == .down then s.updPort port (fun p => { p with st := .up })
    else s)

/-- A port is left REFUSED, with the reason (Table 15-6). -/
def refusePort (port reason : Nat) (s : State) : State :=
  raiseDev 10 2 (port + reason <<< 8) ((portDown port 0 s).updPort port (fun p => { p with st := .refused }))

/-- ATTESTATION_DONE: both checks of R268, then UP, with TOPO advertised. -/
def execAttestationDone (port : Fin 96) (identityOk : Bool) (digest : BitVec 384) (s : State) : Host.Outcome State Fault Refusal :=
  .next (if (s.port port).st != .attesting then s
    else if !identityOk then raiseDev 10 2 (port + 1 <<< 8) (s.updPort port (fun p => { p with st := .refused }))
    else if !(s.sys.linkPolicy.contains digest) then raiseDev 10 2 (port + 2 <<< 8) (s.updPort port (fun p => { p with st := .refused }))
    else
      ownTopoChange (raiseDev 10 1 port (drainPort port (s.updPort port (fun p => { p with st := .up, lkey := false, keySwitch := false, firstTx := 0 })))))

/-- An UP port goes DOWN for a reason; a port in bring-up starts over; OFF and REFUSED ports stay. -/
def loseLink (port reason : Nat) (s : State) : State :=
  let p := s.port port
  if p.st == .off || p.st == .refused || p.st == .down then s
  else if p.mode == .storage then s.updPort port (fun p => { p with st := .down, downs := sat16 p.downs })
  else portDown port reason s

/-- PORT_LOSS_OF_LOCK (R269). -/
def execPortLossOfLock (port : Fin 96) (s : State) : Host.Outcome State Fault Refusal := .next (loseLink port 1 s)

/-- PORT_SILENCE_TIMEOUT (R269): no valid frame for 10 µs on an UP port. -/
def execPortSilenceTimeout (port : Fin 96) (s : State) : Host.Outcome State Fault Refusal :=
  .next (if (s.port port).st == .up && (s.port port).mode == .sfl then portDown port 2 s else s)

/-- A device id of a hail that the topology table holds under another CERT (R270). -/
def idConflict (s : State) (dev : Nat) (cert : BitVec 256) : Bool :=
  dev != 0x3FFF && s.topo.any (fun t => t.dev == dev && t.cert != cert)

/-- HAIL: identity, round trip and STEP are checked; STOPPING takes an UP port DOWN and loses the peer (R267, R269, R275). -/
def hailLands (port : Nat) (bs : Bytes) (rtt : BitVec 16) (s : State) : State :=
  let dev := nfld (num bs 0 64) 45 32
  let cert := BitVec.ofNat 256 (num bs 32 32)
  if num bs 0 4 != 0x4841494C then dropOther port s
  else
    let p := s.port port
    let s1 := s.updPort port (fun p => { p with
      peerPort := BitVec.ofNat 7 (num bs 8 1), peerDev := BitVec.ofNat 14 dev, peerCert := cert, echo := BitVec.ofNat 8 (num bs 13 1) })
    if idConflict s dev cert then refusePort port 4 s1
    else if p.st == .hailing then
      let s2 := s1.updPort port (fun p => { p with rtt := rtt })
      if num bs 10 1 != Config.step then refusePort port 1 s2
      else if rtt.toNat > 960 then refusePort port 3 s2
      else s2.updPort port (fun p => { p with st := .attesting })
    else if p.st == .up then
      if num bs 9 1 % 8 = 7 then reportLoss dev ((portDown port 4 s1).updPort port (fun p => { p with st := .stopping }))
      else if p.peerDev.toNat != dev then ownTopoChange s1 else s1
    else s1

def execHail (port : Fin 96) (f : RxFrame) (rtt : BitVec 16) (s : State) : Host.Outcome State Fault Refusal :=
  .next (onFrame port 8 f (fun _ => hailLands port f.payload rtt) s)

/-- HAIL_TIMER: every 10 µs in HAILING and ATTESTING, every 1 ms while UP (R267). -/
def execHailTimer (port : Fin 96) (s : State) : Host.Outcome State Fault Refusal :=
  let p := s.port port
  .next (if p.mode == .sfl && (p.st == .hailing || p.st == .attesting || p.st == .up) then sendHail port p.st.code s else s)

/-- Count replays; more than 1000 within a second set REPLAY_HIGH (Table 15-6). -/
def countReplays (port n : Nat) (s : State) : State :=
  let p := s.port port
  let fresh : Bool := decide (s.now.toNat ≥ p.replayFrom + 1000000000)
  let c := if fresh then n else p.replayCount + n
  let s1 := s.updPort port (fun p => { p with
    replays := BitVec.ofNat 16 (min 65535 (p.replays.toNat + n)), replayFrom := if fresh then s.now.toNat else p.replayFrom, replayCount := c })
  if c > 1000 && (fresh || p.replayCount ≤ 1000) then raiseDev 10 5 port s1 else s1

/-- Go back to the named LSEQ: every kept frame from it on is sent again; a fourth failure of one frame takes the port DOWN (R262, R269). -/
def replayFrom (port lseq : Nat) (s : State) : State :=
  let p := s.port port
  let again := p.replay.filter (fun k => !linkCovers lseq k.seq)
  if again.any (fun k => k.tries ≥ 3 && k.seq % 4096 == lseq) then portDown port 3 s
  else
    let s1 := s.updPort port (fun p => { p with replay := p.replay.map (fun k => if linkCovers lseq k.seq then k else { k with tries := k.tries + 1 }) })
    forEach (fun (k : Kept) s => s.emit (.frame port k.hdr k.payload)) again (countReplays port again.length s1)

/-- LINK_ACK: acknowledged frames leave the replay buffer, credits return to their pools, a NAK replays (R262, R264). -/
def linkAckLands (port : Nat) (bs : Bytes) (s : State) : State :=
  let s1 := s.updPort port (fun p => { p with
    used := (List.range 11).foldl (fun t k => if num bs (3 + k) 1 = 0 then t else Tbl.upd 0 t k (· - num bs (3 + k) 1)) p.used })
  let lseq := num bs 1 2 % 4096
  let s2 := ackLink port lseq s1
  if num bs 0 1 = 1 then replayFrom port lseq s2 else drainPort port s2

def execLinkAck (port : Fin 96) (f : RxFrame) (s : State) : Host.Outcome State Fault Refusal :=
  .next (onFrame port 9 f (fun _ => linkAckLands port f.payload) s)

/-- LINK_ACK_TIMER: 1 µs with nothing else to send (R262). -/
def execLinkAckTimer (port : Fin 96) (s : State) : Host.Outcome State Fault Refusal :=
  let p := s.port port
  .next (if p.mode == .sfl && (p.st == .hailing || p.st == .attesting || p.st == .up) then sendLinkAck port false s else s)

/-- TOPO: the table takes the device's new adjacency and floods it on; routes follow (R270). -/
def topoLands (port : Nat) (bs : Bytes) (s : State) : State :=
  let dev := num bs 0 2
  let n := num bs 2 2
  if bs.length < 36 + 4 * n then dropOther port s
  else if dev = s.sys.devId.toNat || s.sys.devId = 0x3FFF then s
  else
    let t : TopoEnt := { dev := dev, cert := BitVec.ofNat 256 (num bs (4 + 4 * n) 32),
                         links := (List.range n).map (fun i => (num bs (4 + 4 * i) 1, num bs (5 + 4 * i) 2, num bs (7 + 4 * i) 1)) }
    if s.topo.contains t then s
    else
      let s1 := { s with topo := s.topo.filter (fun x => x.dev != dev) ++ [t] }
      let s2 := forEach (fun p s => if p.1 != port && p.2.st == .up && p.2.mode == .sfl then sendControl p.1 0xA bs s else s) s1.ports s1
      topoChanged dev s2

def execTopo (port : Fin 96) (f : RxFrame) (s : State) : Host.Outcome State Fault Refusal :=
  .next (onFrame port 0xA f (fun _ => topoLands port f.payload) s)

/-- SPDM_FRAME: the session's own messages; KEY_UPDATE announces a new link key generation and is confirmed, its acknowledgement ends the switch (R268; message codes of SPDM 1.3, log entry 14). -/
def spdmLands (port : Nat) (bs : Bytes) (s : State) : State :=
  if (s.port port).st != .up then s
  else if num bs 1 1 = 0xE9 then
    sendControl port 0xB [0x13, 0x69, 0, 0] (s.updPort port (fun p => { p with lkey := !p.lkey, keySwitch := false, firstTx := 0 }))
  else if num bs 1 1 = 0x69 then s.updPort port (fun p => { p with keySwitch := false })
  else s

def execSpdmFrame (port : Fin 96) (f : RxFrame) (s : State) : Host.Outcome State Fault Refusal :=
  .next (onFrame port 0xB f (fun _ => spdmLands port f.payload) s)

/-- LINK_KEY_UPDATE: a new generation is taken and announced; both are accepted until the peer confirms (R268). -/
def execLinkKeyUpdate (port : Fin 96) (s : State) : Host.Outcome State Fault Refusal :=
  let p := s.port port
  .next (if p.st == .up && p.mode == .sfl && !p.keySwitch then
      sendControl port 0xB [0x13, 0xE9, 1, 0] (s.updPort port (fun p => { p with lkey := !p.lkey, keySwitch := true, firstTx := 0 }))
    else s)

end Sys2Proof.Machine
end

