-- ==== Sys2Proof/Machine/Training.lean ====
section
/-! DEFINITION. The optimizer sweep, the verdict's frames, the commit's later steps and the difference stream: the meanings of fine-tuning's events (09_fine_tuning R236 to R254; 13_command_set R345). -/

namespace Sys2Proof.Machine

/-! ## Arithmetic of the sweep (R236) -/

/-- The scalars of a tensor, as FP32 codes. -/
structure Scalars where
  p1 : Conv
  p2 : Conv
  k1 : Conv
  k2 : Conv
  lr : Conv
  dk : Conv
  c1 : Conv
  c2 : Conv
deriving DecidableEq, Repr

/-- The value of a conversion's code in FP32. -/
def Conv.val (c : Conv) : Num := decode fp32 c.code

def one : Num := .fin false 1 0
def Num.sub (x y : Num) : Num := Num.add x y.neg

/-- `scalars`: each line one rounding of the exact expression. -/
def scalars (t : Tensor) (p1 p2 lr : Num) : Scalars :=
  let q1 := convert fp32 (p1.mul (f32 t.b1))
  let q2 := convert fp32 (p2.mul (f32 t.b2))
  let l := convert fp32 (lr.mul (f32 t.lrMult))
  { p1 := q1, p2 := q2
    k1 := divConv fp32 one (lessOne q1)
    k2 := divConv fp32 one (lessOne q2)
    lr := l
    dk := convert fp32 (Num.sub one (convert fp32 (l.val.mul (f32 t.wd))).val)
    c1 := convert fp32 (Num.sub one (f32 t.b1))
    c2 := convert fp32 (Num.sub one (f32 t.b2)) }
where
  /-- 1 − x, exact. -/
  lessOne (x : Conv) : Num := Num.sub one x.val

/-- An infinity or NaN among results in FP32. -/
def anyWild (cs : List Conv) : Bool := cs.any (fun c => !c.val.isFin)

/-- Master format. -/
def Tensor.mfmt (t : Tensor) : Fmt := if t.bf16M then bf16 else fp32

/-- What one element's update gives: new master, moments, and whether a value was not finite. -/
structure ElemOut where
  w : Conv
  m : Conv
  v : Conv
  wild : Bool
deriving DecidableEq, Repr

/-- `element` of R236. -/
def element (t : Tensor) (et : Int) (sc : Scalars) (gmul : Num) (led : BitVec 128) (w m v : Num) : ElemOut :=
  let g0 := convert fp32 (ledgerNum led et)
  let g := convert fp32 (g0.val.mul gmul)
  if t.sgd then
    let m1 := convert fp32 (((f32 t.b1).mul m).add g.val)
    let w1 := convert t.mfmt ((sc.dk.val.mul w).sub (sc.lr.val.mul m1.val))
    { w := w1, m := m1, v := ⟨0, false, false⟩, wild := anyWild [g0, g, m1] || !(decode t.mfmt w1.code).isFin }
  else
    let m1 := convert fp32 (((f32 t.b1).mul m).add (sc.c1.val.mul g.val))
    let v1 := convert fp32 (((f32 t.b2).mul v).add ((sc.c2.val.mul g.val).mul g.val))
    let a := convert fp32 (v1.val.mul sc.k2.val)
    let r := sqrtConv fp32 a.val
    let den := convert fp32 (r.val.add (f32 t.eps))
    let b := convert fp32 (m1.val.mul sc.k1.val)
    let upd := divConv fp32 b.val den.val
    let w1 := convert t.mfmt ((sc.dk.val.mul w).sub (sc.lr.val.mul upd.val))
    { w := w1, m := m1, v := v1, wild := anyWild [g0, g, m1, v1, a, r, den, b, upd] || !(decode t.mfmt w1.code).isFin }

/-! ## Reading and writing a training state -/

/-- Lines of an instance as the NMUs read them: data and whether poisoned. -/
def sweepLines (inst : Nat) (finds : List LineFind) : Nat → Nat → State → List (Bytes × Bool) × State
  | 0, _, s => ([], s)
  | n + 1, l, s =>
    match s.translate inst (l * 128) false with
    | .error _ => let (r, s1) := sweepLines inst finds n (l + 1) s; ((List.replicate 128 0, true) :: r, s1)
    | .ok (k, e) =>
      let (x, s1) := readLine inst k e (l * 128) (findAt finds l) s
      let (r, s2) := sweepLines inst finds n (l + 1) s1
      ((x.data, x.poison != 0) :: r, s2)

/-- An array of a state: its items of `k` bytes and which of them lie in a poisoned line. -/
def sweepArray (inst la k n : Nat) (finds : List LineFind) (s : State) : List Nat × List Bool × State :=
  let first := la / 128
  let (ls, s1) := sweepLines inst finds (cdiv (la % 128 + k * n) 128) first s
  let bytes := sub (ls.flatMap (·.1)) (la % 128) (k * n)
  ((chunks k n bytes).map leNat, (List.range n).map (fun i => ((ls[(la % 128 + k * i) / 128]?).map (·.2)).getD true), s1)

/-- Write the items of an array, line by line; a line that holds an item of a poisoned input is left (R238). -/
def sweepWrite (inst la k : Nat) (items : List Nat) (bad : List Bool) (s : State) : State :=
  let n := k * items.length
  let bytes := items.flatMap (leBytes k)
  forEach (fun j s =>
    let lo := if j = 0 then 0 else j * 128 - la % 128
    let hi := min n ((j + 1) * 128 - la % 128)
    if ((bad.drop (lo / k)).take ((hi - lo) / k)).any id then s
    else stateWrite inst (la + lo) (sub bytes lo (hi - lo)) s) (List.range (cdiv (la % 128 + n) 128)) s

def zipBad (a b : List Bool) : List Bool := (a.zip b).map (fun x => x.1 || x.2)

/-- The ledger of squares of a list of values at an exponent, and whether it saturated (R248). -/
def sumSquares (xs : List Num) (et : Int) : BitVec 128 × Bool :=
  xs.foldl (fun (acc : BitVec 128 × Bool) x =>
    let r := ledgerAdd acc.1 (x.mul x) et
    (r.word, acc.2 || r.ovf)) (0, false)

/-- What the sweep of one tensor leaves for the verdict: its results, the digest so far, wild values, poison. -/
structure SweepAcc where
  res : List SweepRes := []
  crc : Nat
  wild : Bool := false
  poisoned : Bool := false
deriving DecidableEq, Repr

/-- Sweep one tensor (R236 to R240). -/
def sweepTensor (inst : Nat) (j : Job) (p : Step) (finds : List LineFind) (i : Nat) (t : Tensor) (x : SweepAcc × State) : SweepAcc × State :=
  let (acc, s) := x
  let et := p.eTs.getD i t.eT
  let b := j.committed % 2
  let nb := 1 - b
  let n := t.elems
  let hdr := (stateRead inst t.state 128 s).1
  let (ls, lb, s1) := sweepArray inst (t.state + t.offLedger) 16 n finds s
  let (ws, wb, s2) := sweepArray inst (t.master b) t.msize n finds s1
  let (ms, mb, s3) := sweepArray inst (t.first b) 4 n finds s2
  let (vs, vb, s4) := if t.sgd then (List.replicate n 0, List.replicate n false, s3) else sweepArray inst (t.second b) 4 n finds s3
  let bad := zipBad (zipBad lb wb) (zipBad mb vb)
  let sc := scalars t (decode fp32 (num hdr 0 4)) (decode fp32 (num hdr 4 4)) (f32 p.lr)
  let outs := (List.range n).map (fun i =>
    element t et sc (f32 p.gmul) (BitVec.ofNat 128 (ls.getD i 0)) (decode t.mfmt (ws.getD i 0)) (decode fp32 (ms.getD i 0)) (decode fp32 (vs.getD i 0)))
  let s5 := sweepWrite inst (t.master nb) t.msize (outs.map (·.w.code)) bad s4
  let s6 := sweepWrite inst (t.first nb) 4 (outs.map (·.m.code)) bad s5
  let s7 := if t.sgd then s6 else sweepWrite inst (t.second nb) 4 (outs.map (·.v.code)) bad s6
  let new := outs.map (fun o => decode t.mfmt o.w.code)
  let old := ws.map (decode t.mfmt)
  let (gn, g1) := sumSquares (ls.map (fun l => ledgerNum (BitVec.ofNat 128 l) et)) (2 * et)
  let (wn, g2) := sumSquares new 0
  let (un, g3) := sumSquares ((new.zip old).map (fun y => Num.sub y.1 y.2)) 0
  let scWild := if t.sgd then anyWild [sc.p1, sc.lr, sc.dk] else anyWild [sc.p1, sc.p2, sc.k1, sc.k2, sc.lr, sc.dk, sc.c1, sc.c2]
  let r : SweepRes :=
    { p1 := BitVec.ofNat 32 sc.p1.code, p2 := BitVec.ofNat 32 sc.p2.code, amax := toF32 (amaxOf new), gn := gn, wn := wn, un := un, sat := g1 || g2 || g3 }
  let body := ls.flatMap (leBytes 16) ++ ws.flatMap (leBytes t.msize) ++ ms.flatMap (leBytes 4) ++ (if t.sgd then [] else vs.flatMap (leBytes 4))
  ({ res := acc.res ++ [r], crc := crc64Go acc.crc (leBytes 1 (unsigned 8 et) ++ body)
     wild := acc.wild || scWild || (outs.zip bad).any (fun y => y.1.wild && !y.2)
     poisoned := acc.poisoned || bad.any id }, s7)

def sweepAll (inst : Nat) (j : Job) (p : Step) (finds : List LineFind) : List Tensor → Nat → SweepAcc × State → SweepAcc × State
  | [], _, x => x
  | t :: ts, i, x => sweepAll inst j p finds ts (i + 1) (sweepTensor inst j p finds i t x)

/-- The digest's first 20 bytes (R240). -/
def digestHead (j : Job) (p : Step) : Bytes := leBytes 4 j.id ++ leBytes 8 j.committed ++ leBytes 4 p.lr.toNat ++ leBytes 4 p.gmul.toNat

/-- The fine-tuning step of an instance whose sub-steps have all ended. -/
def sweepReady (s : State) (inst : Nat) : Option (Step × Job) :=
  match (s.inst inst).image, (s.inst inst).steps.find? (fun p => p.kind == 1 && p.runsBubble) with
  | some im, some p =>
    match p.at_, im.program p.program, s.jobOf inst p.job with
    | .bubble k, some pr, some j => if p.cores.isEmpty && k ≥ im.lastSub pr && !p.failed then some (p, j) else none
    | _, _, _ => none
  | _, _ => none

/-- SWEEP_START: unless a snapshot still reads the pending bank (R254), the NMUs sweep every tensor into the pending banks. -/
def execSweepStart (fn : FnId) (finds : List LineFind) (s : State) : Host.Outcome State Fault Refusal :=
  let i := fn.toNat
  .next (match sweepReady s i with
    | none => s
    | some (p, j) =>
      if (match j.snapshot with | some x => x.bank != j.committed % 2 | none => false) then s
      else
        let (acc, s1) := sweepAll i j p finds j.tensors 0 ({ crc := crc64Go 0xFFFFFFFFFFFFFFFF (digestHead j p) }, s)
        let s2 := s1.updJob i j.id (fun j => { j with sweep := acc.res, digest := BitVec.ofNat 64 (acc.crc ^^^ 0xFFFFFFFFFFFFFFFF) })
        s2.updStep i p.tag (fun p => { p with
          at_ := .sweeping, nonfinite := p.nonfinite || acc.wild, failed := p.failed || acc.poisoned
          cause := if acc.poisoned then some (p.cause.getD .memory) else p.cause }))

/-- Sweeps are paused on a stack at level 3 of the stall's sets, and in safe mode (R191, R422). -/
def sweepPaused (s : State) (inst : Nat) : Bool :=
  !s.sys.forceSafeN ||
  match s.stall inst with
  | some st => (bitsOf 12 st.fastMask).any (fun k => decide (Tbl.get 0 s.stackLevel k ≥ 3))
  | none => true

/-- SWEEP_END: the device contributes its byte and digest (R241, R242). -/
def execSweepEnd (fn : FnId) (s : State) : Host.Outcome State Fault Refusal :=
  let i := fn.toNat
  .next (match (s.inst i).steps.find? (fun p => p.at_ == .sweeping) with
    | some p =>
      if sweepPaused s i then s
      else match s.jobOf i p.job with
        | some j => contribute i p.job p.contribution j.digest (s.updStep i p.tag (fun p => { p with at_ := .verdict }))
        | none => s
    | none => s)

/-! ## The verdict (R241, R242, R279) -/

/-- Groups with digests in a VERDICT payload (log entry 17). -/
def verdictGroups (bs : Bytes) : List (Nat × BitVec 64) :=
  (List.range (num bs 16 1)).map (fun k => (num bs (17 + 9 * k) 1, BitVec.ofNat 64 (num bs (18 + 9 * k) 8)))

/-- A contribution joins the votes; a result goes down the tree and is acted on. A message for another COMMITTED is stale. -/
def verdictMessage (inst : Nat) (bs : Bytes) (s : State) : State :=
  let job := num bs 0 4
  match s.jobOf inst job with
  | none => s
  | some j =>
    if num bs 4 8 != j.verdictNo then s
    else
      let member := num bs 12 2
      let byte := BitVec.ofNat 8 (num bs 15 1)
      if num bs 14 1 = 0 then
        if j.votes.any (fun v => v.member == member) then s
        else tryVerdict inst job (s.updJob inst job (fun j => { j with votes := j.votes ++ [{ member := member, byte := byte, groups := verdictGroups bs }] }))
      else
        let s1 := match s.jobStep inst job with
          | some p => (match p.at_ with | .bubble _ => stopCores p.cores .fabric s | _ => s)
          | none => s
        applyVerdict inst job byte (returnDown inst j byte s1)

/-- The instance that holds a job with a member: the receiver of a VERDICT frame that no flow carries (log entry 17). -/
def jobHolder (s : State) (job dev : Nat) : Option Nat :=
  (s.insts.find? (fun n => n.2.jobs.any (fun j => j.id == job && j.members.any (fun e => e.device == dev)))).map (·.1)

def verdictLands (port : Nat) (h : Hdr) (bs : Bytes) (s : State) : State :=
  if h.flow = 0 then
    match jobHolder s (num bs 0 4) h.src with
    | some i => verdictMessage i bs s
    | none => dropTarget port s
  else
    flowFrame port h (fun d s =>
      let st := entryStatus d { h with sig := false } s
      if st != 0 then refuseFrame port st d.fn s else (0, verdictMessage d.fn bs s)) s

/-- VERDICT_FRAME. -/
def execVerdictFrame (port : Fin 96) (f : RxFrame) (s : State) : Host.Outcome State Fault Refusal :=
  .next (onFrame port 3 f (fun h => verdictLands port h f.payload) s)

/-- VERDICT_TIMEOUT: pending banks are dropped, the step completes with TIMEOUT_FABRIC, and the device leaves the job (R242). -/
def execVerdictTimeout (fn : FnId) (job : BitVec 32) (s : State) : Host.Outcome State Fault Refusal :=
  let i := fn.toNat
  let id := job.toNat
  .next (match s.jobOf i id with
    | none => s
    | some j =>
      if !j.contributed || s.now.toNat < j.contribAt + j.timeoutUs * 1000 then s
      else
        let s1 := raise i 3 7 id (clearVotes i id s)
        let s2 := s1.updJob i id (fun j => { j with sweep := [], pendClips := [], st := .jLost, lost := j.lost ++ [s.sys.devId.toNat] })
        match j.reshard with
        | some r => finish i r.tag St.timeoutFabric 0 (s2.updJob i id (fun j => { j with reshard := none }))
        | none => match s2.jobStep i id with
          | some p => endStep i p.tag St.timeoutFabric j.committed s2
          | none => s2)

/-! ## Commit, step 3 on (Table 9-5) -/

/-- WORKING_COPY_CONVERTED: the working copies are converted, WORKING flips, and step 5 follows unless the window holds it. -/
def execWorkingCopyConverted (fn : FnId) (job : BitVec 32) (s : State) : Host.Outcome State Fault Refusal :=
  let i := fn.toNat
  .next (match s.jobStep i job.toNat with
    | some p =>
      match p.at_ with
      | .committing false => stepBoundary i (completeCommit i job.toNat ((convertWorking i job.toNat s).updStep i p.tag (fun p => { p with at_ := .committing true })))
      | _ => s
    | none => s)

/-- EXPORT_WINDOW_RESUME: a commit held at step 5 goes on (R252). -/
def execExportWindowResume (fn : FnId) (job : BitVec 32) (s : State) : Host.Outcome State Fault Refusal :=
  let i := fn.toNat
  .next (match s.jobStep i job.toNat with
    | some p =>
      match p.at_ with
      | .committing true => stepBoundary i (completeCommit i job.toNat s)
      | _ => s
    | none => s)

/-! ## The difference stream and shards (R251, R254, R345) -/

/-- RECORD_SET_DELIVERED: the set that has been written is visible; the notify word and EXPORT follow it, and the next set may go (R316, R345). -/
def execRecordSetDelivered (fn : FnId) (job : BitVec 32) (s : State) : Host.Outcome State Fault Refusal :=
  let i := fn.toNat
  let id := job.toNat
  .next (match (s.jobOf i id).bind (·.exp) with
    | none => s
    | some e =>
      match e.queue with
      | [] => s
      | (c, _) :: rest =>
        if e.delivered != c || s.rdmaOpen i (.recordSet id) || !(s.fn i).mayWrite then s
        else
          let s1 := setExportBit i (s.emit (.notify i e.spec.notify (BitVec.ofNat 64 c)))
          let s2 := s1.updJob i id (fun j => { j with exp := some { e with queue := rest } })
          exportPump i id (replaceExport i id s2))

/-- SHARD_SNAPSHOT_COMPLETE: the snapshot has been read; it goes to the host, or sealed to a storage target (R254, R377). -/
def execShardSnapshotComplete (fn : FnId) (job : BitVec 32) (s : State) : Host.Outcome State Fault Refusal :=
  let i := fn.toNat
  let id := job.toNat
  .next (match (s.jobOf i id).bind (·.snapshot) with
    | none => s
    | some x =>
      let s1 := s.updJob i id (fun j => { j with snapshot := none })
      let res := x.shard.length + x.step <<< 64
      if !x.storage then finish i x.tag St.done res (hostWrite i x.addr x.shard s1)
      else match (s.inst i).sealSecret with
        | none => finish i x.tag St.refusedState 0 s1
        | some key =>
          let (bs, s2) := sealBytes key 3 id x.step x.shard s1
          rdmaIssue i x.handle true (.shard x.tag x.shard.length x.step) 0 bs bs.length s2)

end Sys2Proof.Machine
end

