-- ==== Sys2Proof/Machine/Isolation.lean ====
section
/-! DEFINITION. Reports, sessions, secrets, TDISP, the removal of an instance and time alignment: the meanings of the isolation rows (14_isolation R363 to R394; 16_power_reset R425 to R427). -/

namespace Sys2Proof.Machine

/-! ## Measurement blocks (Table 14-2) -/

def TdiState.code : TdiState → Nat
  | .unlocked => 0 | .locked => 1 | .run => 2 | .error => 3

/-- A member map as Table 11-1 lays it out. -/
def mapBytes (m : List MapEnt) : Bytes := m.flatMap (fun e => leBytes 8 (e.device + e.flowBase <<< 14 + e.group <<< 34))

/-- Device configuration: step, enabled-core map, service states of the groups, parts out of service, port modes. -/
def configBytes (s : State) : Bytes :=
  leBytes 1 Config.step ++ (List.range 64).map (fun g => BitVec.ofNat 8 (b2n (s.group g).outOfService + 2 * b2n (s.group g).degraded))
  ++ leBytes 4 s.sys.failedParts.toNat ++ (List.range 96).map (fun p => BitVec.ofNat 8 (s.port p).mode.code)

/-- The set weights of a stall as 30 shares, a defaulted weight as 0xFFFF_FFFF (Table 13-8). -/
def shareBytes (st : Stall) : Bytes :=
  (List.range 30).flatMap (fun k => leBytes 4 (match Tbl.get none st.weights k with | some w => w | none => 0xFFFFFFFF))

/-- Number, generation, groups, quotas, stack-range mode and stack: the first 32 bytes of block 5. The manual does not print their order; log entry 24. -/
def instanceBytes (s : State) (i : Nat) : Bytes :=
  let n := s.inst i
  match n.stall with
  | none => sub (leBytes 1 i ++ leBytes 2 n.gen.toNat) 0 32
  | some st =>
    let ps := partsOf s st.fastSet
    sub (leBytes 1 i ++ leBytes 2 n.gen.toNat ++ leBytes 1 (if ps.length = 1 then 1 else 0) ++ leBytes 1 (ps.headD 0) ++ leBytes 8 st.groups.toNat
      ++ leBytes 2 st.syncCount ++ leBytes 3 st.flows ++ leBytes 4 st.fast ++ leBytes 4 st.slow ++ leBytes 3 st.cat ++ leBytes 2 st.hot) 0 32

/-- Block 7. Both consents of instance 0 always read 1 (R380). -/
def consentByte (i : Nat) (n : Inst) : Nat :=
  b2n (i == 0 || n.debug) + 2 * b2n (i == 0 || n.profile) + 4 * b2n n.sealSecret.isSome + 8 * b2n n.migKey.isSome + 16 * b2n n.frozen

/-- Everything that the blocks of an instance rest on, before any digest is taken: two equal strings give equal reports (R370). -/
def blockInputs (s : State) (i : Nat) : Bytes :=
  let n := s.inst i
  leBytes 4 s.fwVersion ++ configBytes s ++ leBytes 48 s.base.digest.toNat ++ instanceBytes s i
  ++ (match n.stall with | some st => shareBytes st | none => [])
  ++ (match n.image with | some im => leBytes 48 im.digest.toNat ++ mapBytes im.map | none => [])
  ++ leBytes 1 (consentByte i n) ++ leBytes 1 n.tdi.code ++ leBytes 1 n.stream

/-- The value of one block. -/
def blockValue (s : State) (i : Nat) : Nat → Bytes
  | 1 => leBytes 48 Config.romDigest.toNat
  | 2 => leBytes 48 (Config.patchDigest s.sys.patch.toNat).toNat
  | 3 => leBytes 48 (Config.sha384 (Config.coreMap ++ configBytes s)).toNat
  | 4 => leBytes 48 s.base.digest.toNat
  | 5 => instanceBytes s i ++ (match (s.inst i).stall with | some st => sub (leBytes 48 (Config.sha384 (shareBytes st)).toNat) 0 32 | none => List.replicate 32 0)
  | 6 => (match (s.inst i).image with | some im => leBytes 48 (Config.sha384 (leBytes 48 im.digest.toNat ++ mapBytes im.map)).toNat | none => List.replicate 48 0)
  | 7 => leBytes 1 (consentByte i (s.inst i))
  | 8 => leBytes 1 (s.inst i).tdi.code ++ leBytes 1 (s.inst i).stream
  | _ => []

/-- A block as the DMTF measurement record of SPDM: index, specification 1, sizes, value type 0 for a digest or 0x80 for raw (log entry 14). -/
def blockRecord (s : State) (i k : Nat) : Bytes :=
  let v := blockValue s i k
  leBytes 1 k ++ [1] ++ leBytes 2 (v.length + 3) ++ [if k ≤ 3 || k = 6 then BitVec.ofNat 8 (k - 1) else BitVec.ofNat 8 (0x80 + k - 1)] ++ leBytes 2 v.length ++ v

/-- Opaque data of a report: FW_VERSION and the device time (R370, Table 14-2). -/
def reportOpaque (s : State) : Bytes := leBytes 4 s.fwVersion ++ leBytes 8 s.now.toNat

/-- A signed MEASUREMENTS response over all blocks (R370). -/
def signedReport (s : State) (i slot : Nat) (nonce : Bytes) : Bytes :=
  let body := [1, 2, 3, 4, 5, 6, 7, 8].flatMap (blockRecord s i) ++ nonce ++ leBytes 2 (reportOpaque s).length ++ reportOpaque s
  body ++ Config.spdmSign slot body

/-- Make an instance's report anew with the device's own nonce, which is free (R370). -/
def makeReport (i slot : Nat) (s : State) : State :=
  let (r, s1) := s.draw
  s1.updInst i (fun n => { n with report := signedReport s i slot (leBytes 32 (r.toNat % 2 ^ 256)), reported := blockInputs s i })

/-- New reports follow every change of a block (R370): made with the next nanosecond. -/
def refreshReports (s : State) : State :=
  forEach (fun i s => if s.fnExists i && (s.inst i).reported != blockInputs s i then makeReport i 0 s else s) (List.range 64) s

/-! ## SPDM (R367 to R371) -/

/-- The responder answers: from step 4 of the cold start, while a Clerk presides (R367, R415). -/
def State.responds (s : State) (fn : Nat) : Bool :=
  s.fnExists fn && (s.sys.phase == .starting || s.sys.phase == .operational) && (s.sys.westClerk || s.sys.eastClerk)

/-- A message in the clear, or in a session that is open and under a key that it still accepts (R371). -/
def viaOk (n : Inst) : SpdmVia → Bool
  | .clear => true
  | .session id old => n.sessions.any (fun x => x.id == id && (!old || x.updating))

/-- Act on an SPDM message; an invalid one is dropped and counted, draws no response and changes nothing else (R371). -/
def onSpdm (fn : Nat) (via : SpdmVia) (act : State → State) (s : State) : State :=
  if !s.responds fn then s
  else if !viaOk (s.inst fn) via then raiseDevFor 14 2 fn fn s
  else act s

/-- GET_MEASUREMENTS: index 0 asks for the count, 0xFF for all blocks; all blocks with a signature make a new report (R370). -/
def execSpdmGetMeasurements (fn : FnId) (via : SpdmVia) (index : BitVec 8) (sign : Bool) (slot : BitVec 1) (nonce : BitVec 256) (s : State) : Host.Outcome State Fault Refusal :=
  let i := fn.toNat
  .next (onSpdm i via (fun s =>
    if index = 0xFF && sign then
      let r := signedReport s i slot.toNat (leBytes 32 nonce.toNat)
      (s.updInst i (fun n => { n with report := r, reported := blockInputs s i })).emit (.doe i r)
    else
      let recs := if index = 0xFF then [1, 2, 3, 4, 5, 6, 7, 8].flatMap (blockRecord s i)
        else if index = 0 then [8] else if index.toNat ≤ 8 then blockRecord s i index.toNat else []
      let body := recs ++ (if sign then leBytes 32 nonce.toNat else [])
      s.emit (.doe i (if sign then body ++ Config.spdmSign slot.toNat body else body))) s)

/-- GET_CERTIFICATE: the chain of slot 0, or of slot 1, which follows the patch set in force (R368). -/
def certOf (s : State) (slot : Nat) : Bytes := Config.certChain slot (if slot = 0 then 0 else s.sys.patch.toNat)

def execSpdmGetCertificate (fn : FnId) (via : SpdmVia) (slot : BitVec 1) (s : State) : Host.Outcome State Fault Refusal :=
  .next (onSpdm fn.toNat via (fun s => s.emit (.doe fn.toNat (certOf s slot.toNat))) s)

/-- CHALLENGE: signed with the named slot's key (R368). -/
def execSpdmChallenge (fn : FnId) (via : SpdmVia) (slot : BitVec 1) (nonce : BitVec 256) (s : State) : Host.Outcome State Fault Refusal :=
  .next (onSpdm fn.toNat via (fun s =>
    let body := leBytes 48 (Config.sha384 (certOf s slot.toNat)).toNat ++ leBytes 32 nonce.toNat
    s.emit (.doe fn.toNat (body ++ Config.spdmSign slot.toNat body))) s)

/-- KEY_EXCHANGE: one of the function's two sessions opens; where both are open, the answer is the error SessionLimitExceeded of SPDM (Table 14-1; log entry 14). -/
def execSpdmKeyExchange (fn : FnId) (slot : BitVec 1) (heartbeat : BitVec 8) (s : State) : Host.Outcome State Fault Refusal :=
  let i := fn.toNat
  .next (onSpdm i .clear (fun s =>
    match [1, 2].find? (fun k => (s.inst i).sessions.all (fun x => x.id != k)) with
    | none => s.emit (.doe i [0x13, 0x7F, 0x0A, 0])
    | some k =>
      let body := leBytes 2 k ++ leBytes 1 heartbeat.toNat
      (s.updInst i (fun n => { n with sessions := n.sessions ++ [{ id := k, slot := slot.toNat, heartbeat := heartbeat.toNat, keyGen := 0, updating := false }] })).emit
        (.doe i (body ++ Config.spdmSign slot.toNat body))) s)

/-- KEY_UPDATE: new keys, both accepted until the requester confirms the switch (R371). -/
def execSpdmKeyUpdate (fn : FnId) (via : SpdmVia) (confirm : Bool) (s : State) : Host.Outcome State Fault Refusal :=
  let i := fn.toNat
  .next (match via with
    | .clear => s
    | .session id _ => onSpdm i via (fun s =>
        (s.updInst i (fun n => { n with sessions := n.sessions.map (fun x =>
          if x.id == id then (if confirm then { x with updating := false } else { x with keyGen := x.keyGen + 1, updating := true }) else x) })).emit
          (.doe i [0x13, 0x69, if confirm then 3 else 1, 0])) s)

/-! ## Secrets (R372, Table 14-3) -/

/-- Only within a secured session, and for a locked or running TDI only within the one that locked it. -/
def secretsAllowed (n : Inst) : SpdmVia → Bool
  | .clear => false
  | .session id _ => !(n.tdi == .locked || n.tdi == .run) || n.lockSession == some id

/-- A vendor request: status 0 done, 1 refused. -/
def vendorRequest (fn : Nat) (via : SpdmVia) (f : Inst → Inst) (s : State) : State :=
  onSpdm fn via (fun s => if secretsAllowed (s.inst fn) via then (s.updInst fn f).emit (.doe fn [0]) else s.emit (.doe fn [1])) s

def execSetSealSecret (fn : FnId) (via : SpdmVia) (secret : BitVec 256) (s : State) : Host.Outcome State Fault Refusal :=
  .next (vendorRequest fn.toNat via (fun n => { n with sealSecret := some secret }) s)

def execSetMigrationKey (fn : FnId) (via : SpdmVia) (key : BitVec 256) (s : State) : Host.Outcome State Fault Refusal :=
  .next (vendorRequest fn.toNat via (fun n => { n with migKey := some key }) s)

/-- CLEAR_SECRETS: bit 0 seal, bit 1 migration; the destroyed secret is gone from the key engine. -/
def execClearSecrets (fn : FnId) (via : SpdmVia) (which : BitVec 8) (s : State) : Host.Outcome State Fault Refusal :=
  .next (vendorRequest fn.toNat via (fun n => { n with
    sealSecret := if which.getLsbD 0 then none else n.sealSecret, migKey := if which.getLsbD 1 then none else n.migKey }) s)

/-! ## TDISP (R373, R374) -/

/-- The TDI enters ERROR: waiting steps are refused, accepted and running ones fail with FAILED_DEVICE. -/
def tdiError (inst : Nat) (s : State) : State :=
  forEach (fun (p : Step) s => if p.waits then endStep inst p.tag St.refusedState 0 s else failStep inst p.tag .device s) (s.inst inst).steps
    (s.updInst inst (fun n => { n with tdi := .error }))

/-- The TDI interface report: one MMIO range, BAR0 of 16 KiB, none of it unlocked (layout: log entry 14). -/
def tdiReport : Bytes := leBytes 4 1 ++ leBytes 8 0 ++ leBytes 4 4 ++ leBytes 4 0

/-- Where a TDISP message leads, or nothing where it is refused. The PF has no TDI. -/
def tdispNext (s : State) (fn : Nat) (m : Tdisp) (via : SpdmVia) : Option (Inst → Inst) :=
  let n := s.inst fn
  match via with
  | .clear => match m with | .getState => some id | _ => none
  | .session id _ =>
    match m with
    | .getState => some (fun n => n)
    | .getReport => if n.tdi == .locked || n.tdi == .run then some (fun n => n) else none
    | .lock stream =>
      if n.tdi == .unlocked && stream < 64 && s.insts.all (fun x => x.1 == fn || x.2.tdi == .unlocked || x.2.stream != stream) then
        some (fun n => { n with tdi := .locked, stream := stream, lockSession := some id })
      else none
    | .start => if n.tdi == .locked && n.lockSession == some id then some (fun n => { n with tdi := .run }) else none
    | .stop => if n.tdi == .unlocked || n.lockSession == some id then some (fun n => { n with tdi := .unlocked, stream := 0, lockSession := none }) else none

/-- TDISP_REQUEST: answered with a status byte, 0 done or 1 refused, the state, and the report where it is asked for. STOP leads to CONFIG_UNLOCKED as PCIe TDISP states (log entry 14). -/
def execTdispRequest (fn : FnId) (m : Tdisp) (via : SpdmVia) (s : State) : Host.Outcome State Fault Refusal :=
  let i := fn.toNat
  .next (onSpdm i via (fun s =>
    match (if i = 0 then none else tdispNext s i m via) with
    | none => s.emit (.doe i [1, BitVec.ofNat 8 (s.inst i).tdi.code])
    | some f =>
      let s1 := s.updInst i f
      s1.emit (.doe i ([0, BitVec.ofNat 8 (s1.inst i).tdi.code] ++ (if m = .getReport then tdiReport else [])))) s)

/-- IDE_INTEGRITY_FAILURE: a selective stream fails its check, and the TDI bound to it enters ERROR. -/
def execIdeIntegrityFailure (fn : FnId) (s : State) : Host.Outcome State Fault Refusal :=
  let i := fn.toNat
  let n := s.inst i
  .next (if n.tdi == .locked || n.tdi == .run then tdiError i (raise i 2 4 n.stream s) else s)

/-! ## Removal of an instance (Table 14-7) -/

/-- Engines and ports that report a drain: DMA engines 0 to 31, then port p as 32 + p. -/
def drainers : List Nat := List.range 128

/-- Steps 1 to 5 of Table 14-7. Held completions and commands taken of the old generation go with them; the latter are counted among what step 3 drops. -/
def removeInst (inst : Nat) (tag : Option Nat) (keepStall : Bool) (s : State) : State :=
  let held := (s.fn inst).held.length
  let s1 := queueScrub inst (resetStall inst none (raiseOrWait inst s))
  let s2 := dropKeyed inst (sendAllLoss inst s1)
  let s3 := if keepStall then s2 else s2.updStall inst (fun st => { st with cat := 0, hot := 0 })
  (s3.updFn inst (fun f => { f with held := [], taken := [] })).updInst inst (fun n => { n with
    removal := some { tag := tag, fenceAt := s.now.toNat + 2000000, waiting := drainers, dropped := if tag.isSome then held else 0, keepStall := keepStall } })

/-- Step 6: the removal ends, by drain or by the fence; DESTROY completes, and the instance number may be given out again (R394). -/
def endRemoval (inst : Nat) (byFence : Bool) (s : State) : State :=
  match (s.inst inst).removal with
  | none => s
  | some r =>
    let s0 := if byFence then raiseDevFor 14 1 inst inst s else s
    let s1 := { s0 with flowDst := s0.flowDst.filter (fun f => !(f.2.fn == inst && f.2.gen != (s0.inst inst).gen.toNat)) }
    let s2 := s1.updInst inst (fun n => { n with removal := none, stall := if r.keepStall then n.stall else none })
    let s3 := followHeat inst s2
    match r.tag with
    | some t => finish 0 t St.done (b2n byFence + (r.dropped % 2 ^ 32) <<< 32) s3
    | none => s3

/-- An engine or port holds nothing of the old generation that it will still issue (R392). Link engines and DMA engines let go at revocation; a storage port waits for its requests to end. -/
def drained (s : State) (inst engine : Nat) : Bool :=
  decide (engine < 32) || !(s.rdmas.any (fun r => r.fn == inst && r.gen != (s.inst inst).gen.toNat && r.port + 32 == engine))

/-- ENGINE_DRAIN_REPORT. -/
def execEngineDrainReport (fn : FnId) (engine : Nat) (s : State) : Host.Outcome State Fault Refusal :=
  let i := fn.toNat
  .next (match (s.inst i).removal with
    | none => s
    | some r =>
      if !drained s i engine || (s.inst i).raiseWaits then s
      else
        let left := r.waiting.filter (· != engine)
        let s1 := s.updInst i (fun n => { n with removal := some { r with waiting := left } })
        if left.isEmpty then endRemoval i false s1 else s1)

/-- REMOVAL_FENCE_EXPIRY: 2 ms after step 2. -/
def execRemovalFenceExpiry (fn : FnId) (s : State) : Host.Outcome State Fault Refusal :=
  let i := fn.toNat
  .next (match (s.inst i).removal with
    | some r => if s.now.toNat ≥ r.fenceAt && !(s.inst i).raiseWaits then endRemoval i true s else s
    | none => s)

/-- GENERATION_RAISE_RESUME: nothing of the value to come remains (R366). -/
def execGenerationRaiseResume (fn : FnId) (s : State) : Host.Outcome State Fault Refusal :=
  let i := fn.toNat
  .next (if (s.inst i).raiseWaits && !s.stateOfGen i ((s.inst i).gen + 1).toNat then raiseGen i false s else s)

/-! ## Common time (R425 to R427) -/

/-- The time root: the lowest device id in the topology table, this device's own among them (R426). -/
def timeRoot (s : State) : Nat := s.topo.foldl (fun m t => min m t.dev) s.sys.devId.toNat

/-- Hops from a device to another over the links of the topology table, within `n`. -/
def hopsTo (s : State) (goal : Nat) : Nat → List Nat → Option Nat
  | 0, front => if front.contains goal then some 0 else none
  | n + 1, front =>
    if front.contains goal then some 0
    else (hopsTo s goal n (front.foldl (fun l d => (linksOf s d).foldl (fun l x => if l.contains x.2.1 then l else l ++ [x.2.1]) l) front)).map (· + 1)

/-- The UP neighbour this device aligns to: fewest hops to the root, then the lowest id (R426). -/
def timeParent (s : State) : Option Nat :=
  let root := timeRoot s
  (ownLinks s).foldl (fun (best : Option (Nat × Nat)) x =>
    match hopsTo s root 8 [x.2.1], best with
    | some h, some (bh, bd) => if h < bh || (h == bh && x.2.1 < bd) then some (h, x.2.1) else best
    | some h, none => some (h, x.2.1)
    | none, _ => best) none |>.map (·.2)

/-- TIME_ALIGN: a neighbour's request, answered with the time of arrival and of reply, code 0x10 of SPDM's vendor-defined messages. -/
def execTimeAlign (port : Fin 96) (t1 : BitVec 64) (s : State) : Host.Outcome State Fault Refusal :=
  let p := s.port port
  .next (if p.mode == .sfl && p.st == .up then
      sendControl port 0xB ([0x13, 0x7E, 0x10, 0] ++ leBytes 8 t1.toNat ++ leBytes 8 s.now.toNat ++ leBytes 8 s.now.toNat) s
    else s)

/-- No almanac is installed on the device (R427). -/
def State.noAlmanac (s : State) : Bool := s.insts.all (fun n => n.2.almanac.isNone && n.2.nextAlmanac.isNone)

/-- Offset of the exchange, rounded toward zero (R426). -/
def alignOf (t1 t2 t3 t4 : Nat) : Int := Int.tdiv (((t2 : Int) - t1) + ((t3 : Int) - t4)) 2

/-- TIME_ALIGN_TIMER: a device that is not its own root takes the offset of the exchange: it aligns while no almanac is installed, and reports it always. -/
def execTimeAlignTimer (t1 t2 t3 t4 : BitVec 64) (s : State) : Host.Outcome State Fault Refusal :=
  let off := alignOf t1.toNat t2.toNat t3.toNat t4.toNat
  .next (if s.sys.devId = 0x3FFF || timeRoot s = s.sys.devId.toNat || (timeParent s).isNone then s
    else
      let s1 := s.updSys (fun y => { y with alignOffset := off })
      if !s.noAlmanac then s1
      else if off ≥ 0 then { s1 with now := s1.now + BitVec.ofNat 64 off.toNat, sys := { s1.sys with aligned := true } }
      else s1.updSys (fun y => { y with aligned := true, heldBack := y.heldBack + (-off).toNat }))

end Sys2Proof.Machine
end

