-- ==== Sys2Proof/Machine/Registers.lean ====
section
/-! DEFINITION. BAR0: the register maps, reads, writes and shadows, the rings' registers and interrupts (12_host_interface R302 to R314, R324; 15_errors R397 to R401, R406; 08_almanac R212; 10_fabric R283). -/

namespace Sys2Proof.Machine

/-! ## Access -/

/-- A memory request reaches BAR0: the function exists, the link is up, Memory Space Enable is set in D0, no FLR runs, and a TDI in RUN sees the T bit on its own stream (R305, R374). -/
def State.barOpen (s : State) (fn : Nat) (tee : Tee) : Bool :=
  let f := s.fn fn
  let n := s.inst fn
  s.fnExists fn && s.sys.linkUp && (s.sys.phase == .starting || s.sys.phase == .operational) && f.mse && !f.d3hot && !f.flr
  && (n.tdi != .run || tee == some (BitVec.ofNat 6 n.stream))

/-- An access that R14 or R17 ignores is recorded with its offset and byte enables (R305). -/
def regIgnored (fn off be : Nat) (write : Bool) (s : State) : State := raise fn 2 0 (off % 65536 + (be % 16) <<< 16 + b2n write <<< 20) s

/-- Words of a 64-bit number. -/
def loWord (v : Nat) : Nat := v % 2 ^ 32
def hiWord (v : Nat) : Nat := v / 2 ^ 32 % 2 ^ 32

/-! ## Reading (Tables 12-4, 12-5, 15-2 to 15-4, 15-8, 8-7, 10-9) -/

/-- GROUPS of a class register. -/
def classWord (s : State) (tree c : Nat) : Nat :=
  s.causes.foldl (fun acc p => if p.1 / 512 = tree && p.2.bit && causeClass (p.1 / 32 % 16) (p.1 % 32) = c then acc ||| (1 <<< (p.1 / 32 % 16)) else acc) 0

/-- CAUSE of a group. -/
def causeWord (s : State) (tree g : Nat) : Nat :=
  (List.range (groupClasses g).length).foldl (fun acc b => if (Tbl.get {} s.causes (causeKey tree g b)).bit then acc ||| (1 <<< b) else acc) 0

/-- A word of a record. -/
def recordWord (c : Cause) : Nat → Nat
  | 0 => c.detail.toNat
  | 1 => c.count.toNat + b2n (decide (c.count.toNat ≥ 2)) <<< 16 + b2n c.valid <<< 17 + c.inst.toNat <<< 18
  | 2 => loWord c.time.toNat
  | _ => hiWord c.time.toNat

/-- A word of a group's region (Table 15-4). -/
def groupWord (s : State) (tree g r : Nat) : Nat :=
  if r = 0 then causeWord s tree g
  else if r < 0x10 || r ≥ 0x190 then 0
  else recordWord (Tbl.get {} s.causes (causeKey tree g ((r - 0x10) / 16))) ((r - 0x10) % 16 / 4)

/-- A word of a cause tree; `base` is 0x1000 or 0x4000. -/
def treeWord (s : State) (tree base first count off : Nat) : Nat :=
  if off < base + 0x18 then classWord s tree ((off - base) / 4 + 1)
  else if off < base + 0x200 then 0
  else
    let g := (off - base - 0x200) / 0x200
    if g < count then groupWord s tree (first + g) ((off - base) % 0x200) else 0

/-- The Porter window (Table 15-8). -/
def porterWord (s : State) (off : Nat) : Nat :=
  let p := s.sys.porter
  if off = 0x6004 then b2n p.busy + 2 * b2n p.done + 4 * b2n p.rejected + p.lastOp.toNat <<< 4 + p.elapsed.toNat <<< 16
  else if off = 0x6008 then
    b2n s.sys.westClerk + 2 * b2n s.sys.eastClerk + 4 * b2n (s.sys.token == some .east || s.sys.grantTo == some .west) + 8 * b2n s.sys.bridgeOk + 16 * b2n (s.sys.stoppedHalf == some .west)
  else if off = 0x6010 then p.result.length % 65536
  else if off ≥ 0x6100 then num p.result (off - 0x6100) 4
  else 0

/-- UP SFL ports. -/
def portsUp (s : State) : Nat := (s.ports.filter (fun p => p.2.st == .up && p.2.mode == .sfl)).length

/-- Fabric status (Table 12-5). -/
def fabricWord (s : State) (off : Nat) : Nat :=
  if off = 0x7000 then s.sys.devId.toNat + s.sys.square.toNat <<< 14 + s.sys.pos.toNat <<< 22
  else if off = 0x7004 then portsUp s % 128
  else if off = 0x7008 then s.sys.topoChanges.toNat
  else 0

/-- RATE and LOW of a group owned by a VF show only with its profiling consent (R212). -/
def State.rateShown (s : State) (g : Nat) : Bool := match s.ownerOf g with | some i => i == 0 || (s.inst i).profile | none => true

/-- Transit monitor registers (Table 8-7). -/
def monitorWord (s : State) (g w : Nat) : Nat :=
  let x := s.group g
  if w = 0 then (if s.rateShown g then x.rate.toNat + x.low.toNat <<< 16 else 0)
  else if w = 1 then x.mstate.toNat + (x.vreqMv g) <<< 16
  else if w = 2 then x.raises.toNat + x.faults.toNat <<< 16
  else guardRate + floorRate <<< 16

/-- State code of a port register: a storage port reads 1 or 5. -/
def portWord (s : State) (p w : Nat) : Nat :=
  let x := s.port p
  if w = 0 then x.mode.code + x.st.code <<< 2 + b2n x.lkey <<< 5 + x.peerPort.toNat <<< 8 + x.peerDev.toNat <<< 16
  else if w = 1 then x.rtt.toNat + x.tags.toNat <<< 16
  else if w = 2 then x.replays.toNat + x.downs.toNat <<< 16
  else if w = 3 then x.fecCorr.toNat
  else if w = 4 then x.dropGen.toNat + x.dropTarget.toNat <<< 16
  else if w = 5 then x.dropKey.toNat + x.dropOther.toNat <<< 16
  else 0

/-- The registers of the first 768 bytes (Table 12-4). -/
def commonWord (s : State) (fn off : Nat) : Nat :=
  let f := s.fn fn
  if off = 0 then 0x0096 + Config.step <<< 16 + fn <<< 24 + b2n (fn = 0) <<< 30
  else if off = 0x4 then s.fwVersion
  else if off = 0x8 then (s.inst fn).gen.toNat
  else if off = 0x10 then loWord s.now.toNat
  else if off = 0x14 then hiWord s.now.toNat
  else if off = 0x100 then s.summary fn
  else if off = 0x104 then f.sumEnable.toNat
  else if off = 0x108 then f.holdoff.toNat
  else if off = 0x10C then (if fn = 0 then 2 * f.attnEnable.toNat else 0)
  else if off = 0x200 then loWord f.cmdBase.toNat
  else if off = 0x204 then hiWord f.cmdBase.toNat
  else if off = 0x208 then f.cmdSize.toNat
  else if off = 0x20C then b2n f.cmdEnable + 2 * b2n (!f.cmdEnable && f.fetching == 0)
  else if off = 0x214 then f.cmdHead.toNat
  else if off = 0x220 then loWord f.cplBase.toNat
  else if off = 0x224 then hiWord f.cplBase.toNat
  else if off = 0x228 then f.cplSize.toNat
  else if off = 0x22C then b2n f.cplEnable
  else if off = 0x230 then f.cplHead.toNat
  else if off = 0x234 then f.cplTail.toNat + b2n f.cplPhase <<< 16
  else 0

/-- The word at a BAR0 offset (Table 12-3); write-only and RSVD words read 0. -/
def regWord (s : State) (fn off : Nat) : Nat :=
  if off < 0x300 then commonWord s fn off
  else if off < 0x1000 then 0
  else if off < 0x3000 then treeWord s fn 0x1000 0 6 off
  else if off < 0x3010 then ((s.fn fn).msixTable.toNat >>> (8 * (off - 0x3000))) % 2 ^ 32
  else if off = 0x3800 then b2n (s.fn fn).pba
  else if off < 0x4000 || fn ≠ 0 then 0
  else if off < 0x6000 then treeWord s devTree 0x4000 8 8 off
  else if off < 0x7000 then porterWord s off
  else if off < 0x8000 then fabricWord s off
  else if off < 0x8400 then monitorWord s ((off - 0x8000) / 16) (off % 16 / 4)
  else if 0xA000 ≤ off && off < 0xB800 then portWord s ((off - 0xA000) / 64) (off % 64 / 4)
  else 0

/-- Offset of a register of 64 bits: DEVICE_TIME, the ring bases, and TIME of a record. -/
def is64 (fn off : Nat) : Bool :=
  off == 0x10 || off == 0x200 || off == 0x220 ||
  ((decide (0x1200 ≤ off) && decide (off < 0x1E00) || (fn == 0 && decide (0x4200 ≤ off) && decide (off < 0x5200)))
    && decide (off % 0x200 ≥ 0x10) && decide (off % 0x200 < 0x190) && off % 16 == 8)

/-! ## Reads with a side effect -/

/-- Clear the 16-bit halves of a word whose bytes a read returns: a byte of a counter that is not read keeps its bits (R14, Table 0-3). -/
def keepBytes (v be lo : Nat) : Nat :=
  (List.range 4).foldl (fun acc k => if be.testBit k then acc else acc + ((v >>> (8 * k)) % 256) <<< (8 * k)) 0 >>> (8 * lo)

/-- An RC read clears the bytes it returns. RATE and LOW that a consent hides are not cleared. -/
def clearRead (off be : Nat) (s : State) : State :=
  let v := regWord s 0 off
  let a := keepBytes v be 0
  let h16 : BitVec 16 := BitVec.ofNat 16 (a / 65536)
  let l16 : BitVec 16 := BitVec.ofNat 16 a
  if off = 0x7008 then s.updSys (fun y => { y with topoChanges := BitVec.ofNat 32 a })
  else if 0x8000 ≤ off && off < 0x8400 then
    let g := (off - 0x8000) / 16
    if off % 16 = 0 && s.rateShown g then s.updGroup g (fun x => { x with low := h16 })
    else if off % 16 = 8 then s.updGroup g (fun x => { x with raises := l16, faults := h16 })
    else s
  else if 0xA000 ≤ off && off < 0xB800 then
    let p := (off - 0xA000) / 64
    let w := off % 64
    if w = 8 then s.updPort p (fun x => { x with replays := l16, downs := h16 })
    else if w = 12 then s.updPort p (fun x => { x with fecCorr := BitVec.ofNat 32 a })
    else if w = 16 then s.updPort p (fun x => { x with dropGen := l16, dropTarget := h16 })
    else if w = 20 then s.updPort p (fun x => { x with dropKey := l16, dropOther := h16 })
    else s
  else s

/-- Bytes that a read with byte enables returns; the others read 0 here. -/
def maskedWord (v be : Nat) : Nat := (List.range 4).foldl (fun acc k => if be.testBit k then acc + ((v >>> (8 * k)) % 256) <<< (8 * k) else acc) 0

/-- A read that BAR0 does not take completes as Unsupported Request. -/
def unsupportedRead (fn off : Nat) (s : State) : State := s.emit (.readDone fn off none)

/-- The value of a 4-byte read, with the read shadow as it leaves it (R304): a low half latches its high half; the high half of the latched register returns the shadow and empties it. -/
def shadowRead (fn off : Nat) (s : State) : Nat × State :=
  if is64 fn off then (regWord s fn off, s.updFn fn (fun f => { f with rdShadow := some (off, BitVec.ofNat 32 (regWord s fn (off + 4))) }))
  else match (s.fn fn).rdShadow with
    | some (r, v) => if r + 4 = off && is64 fn r then (v.toNat, s.updFn fn (fun f => { f with rdShadow := none })) else (regWord s fn off, s)
    | none => (regWord s fn off, s)

/-- A 4-byte read with byte enables: an RC register loses the bytes it returns (R14, R15). -/
def read32 (fn off be : Nat) (s : State) : Nat × State :=
  let (v, s1) := shadowRead fn off s
  (maskedWord v be, if fn = 0 then clearRead off be s1 else s1)

/-- A read of up to 8 bytes from a 4-byte aligned offset: one access where it is an aligned 8-byte read of a 64-bit register, which leaves the shadow alone, else 4-byte accesses in rising order (R303). -/
def wideRead (fn off be : Nat) (s : State) : Nat × State :=
  if be = 255 && off % 8 = 0 && is64 fn off then (regWord s fn off + regWord s fn (off + 4) * 2 ^ 32, s)
  else
    let (lo, s1) := if be % 16 = 0 then (0, s) else read32 fn off (be % 16) s
    let (hi, s2) := if be / 16 = 0 then (0, s1) else read32 fn (off + 4) (be / 16) s1
    (lo + hi * 2 ^ 32, s2)

/-- A read request of a function's BAR0, answered with its value (R305). -/
def barRead (fn off be : Nat) (tee : Tee) (s : State) : State :=
  if !s.barOpen fn tee then unsupportedRead fn off s
  else
    let (v, s1) := wideRead fn off be s
    s1.emit (.readDone fn off (some (BitVec.ofNat 64 v)))

/-- RC_REGISTER_READ: a read of up to 8 bytes. -/
def execRcRegisterRead (fn : FnId) (offset : BitVec 16) (be : BitVec 8) (tee : Tee) (s : State) : Host.Outcome State Fault Refusal :=
  .next (barRead fn.toNat offset.toNat be.toNat tee s)

/-- REG_LOW_HALF_READ: a 4-byte read, which latches the high half where the offset is a 64-bit register's low half (R304). -/
def execRegLowHalfRead (fn : FnId) (offset : BitVec 16) (tee : Tee) (s : State) : Host.Outcome State Fault Refusal :=
  .next (barRead fn.toNat offset.toNat 15 tee s)

/-- REG_HIGH_HALF_READ: a 4-byte read, which returns and empties the shadow of the same register, else the live high half (R304). -/
def execRegHighHalfRead (fn : FnId) (offset : BitVec 16) (tee : Tee) (s : State) : Host.Outcome State Fault Refusal :=
  .next (barRead fn.toNat offset.toNat 0xF tee s)

/-! ## The rings (R309 to R314) -/

/-- Codes that the family tables give (R327). -/
def familyCodes : Nat → Nat
  | 0x01 => 3 | 0x02 => 5 | 0x03 => 2 | 0x04 => 3 | 0x05 => 9 | 0x06 => 2 | 0x07 => 2 | 0x08 => 3 | 0x09 => 3 | 0x0A => 10 | 0x0B => 4 | 0x0C => 4
  | _ => 0

/-- Fetch what the doorbell names, once the device may: fully operational, the function able to issue requests and not being removed (R310, R415, Table 14-7 step 1). -/
def pumpRing (fn : Nat) (s : State) : State :=
  let f := s.fn fn
  let size := 2 ^ f.cmdSize.toNat
  let at_ := (f.cmdHead.toNat + f.fetching) % size
  let n := (f.doorbell.toNat + size - at_) % size
  if f.cmdEnable && f.mayWrite && s.sys.phase == .operational && !s.sys.fatal && (s.inst fn).removal.isNone && n != 0 then
    (s.updFn fn (fun f => { f with fetching := f.fetching + n })).emit (.cmdFetch fn at_ n)
  else s

/-- A write of CMD_DOORBELL (R310). -/
def writeDoorbell (fn off be v : Nat) (s : State) : State :=
  let f := s.fn fn
  let d := v % 65536
  if !f.cmdEnable || d ≥ 2 ^ f.cmdSize.toNat then regIgnored fn off be true s
  else pumpRing fn (s.updFn fn (fun f => { f with doorbell := BitVec.ofNat 16 d }))

/-- A write of CMD_ENABLE (R309, R311): setting it resets the indices. -/
def writeCmdEnable (fn off be v : Nat) (s : State) : State :=
  let f := s.fn fn
  if v % 2 = 0 then s.updFn fn (fun f => { f with cmdEnable := false })
  else if f.cmdSize = 0 then regIgnored fn off be true s
  else if f.cmdEnable then s
  else s.updFn fn (fun f => { f with cmdEnable := true, cmdHead := 0, doorbell := 0 })

/-- A write of CPL_ENABLE (R309, R314): setting it resets indices and phase, and held completions may go. -/
def writeCplEnable (fn off be v : Nat) (s : State) : State :=
  let f := s.fn fn
  if v % 2 = 0 then s.updFn fn (fun f => { f with cplEnable := false })
  else if f.cplSize = 0 then regIgnored fn off be true s
  else if f.cplEnable then s
  else releaseHeld fn (s.updFn fn (fun f => { f with cplEnable := true, cplHead := 0, cplTail := 0, cplPhase := true }))

/-- A write of CPL_HEAD (R314). -/
def writeCplHead (fn off be v : Nat) (s : State) : State :=
  let f := s.fn fn
  let h := v % 65536
  if f.cplSize = 0 || h ≥ 2 ^ f.cplSize.toNat then regIgnored fn off be true s
  else releaseHeld fn (s.updFn fn (fun f => { f with cplHead := BitVec.ofNat 16 h }))

/-- A write of a ring's SIZE: 0 or 6 to 16, and not while the ring is enabled (R309). -/
def sizeOk (v : Nat) : Bool := v == 0 || (decide (6 ≤ v) && decide (v ≤ 16))

/-- A 64-bit register takes both halves at once. Only the ring bases can be written (R309). -/
def write64 (fn off be v : Nat) (s : State) : State :=
  let f := s.fn fn
  if off = 0x200 then
    if f.cmdEnable || v % 4096 ≠ 0 then regIgnored fn off be true s else s.updFn fn (fun f => { f with cmdBase := BitVec.ofNat 64 v })
  else if off = 0x220 then
    if f.cplEnable || v % 4096 ≠ 0 then regIgnored fn off be true s else s.updFn fn (fun f => { f with cplBase := BitVec.ofNat 64 v })
  else s

/-- A 4-byte write of a low half is held (R304). -/
def writeLow (fn off v : Nat) (s : State) : State := s.updFn fn (fun f => { f with wrShadow := some (off, BitVec.ofNat 32 v) })

/-- A 4-byte write of a high half commits both halves, or combines with the register's low half. -/
def writeHigh (fn off be v : Nat) (s : State) : State :=
  match (s.fn fn).wrShadow with
  | some (r, lo) =>
    if r + 4 = off then write64 fn r be (lo.toNat + v % 2 ^ 32 * 2 ^ 32) (s.updFn fn (fun f => { f with wrShadow := none }))
    else write64 fn (off - 4) be (regWord s fn (off - 4) + v % 2 ^ 32 * 2 ^ 32) s
  | none => write64 fn (off - 4) be (regWord s fn (off - 4) + v % 2 ^ 32 * 2 ^ 32) s

/-! ## Summary and interrupts (R308, R324) -/

/-- RW1C of SUMMARY_STATUS; an enabled bit that is left set sends the message again. -/
def writeSummary (fn v : Nat) (s : State) : State :=
  let s1 := s.updFn fn (fun f => { f with
    sumCpl := f.sumCpl && !nbit v 0, sumExport := f.sumExport && !nbit v 7, sumMaint := f.sumMaint && !nbit v 8 })
  pinsFollow s (if s1.enabledSummary fn != 0 then sendMessage fn s1 else s1)

/-- SUMMARY_ENABLE: enabling a bit that is set sends the message. -/
def writeEnable (fn v : Nat) (s : State) : State :=
  let old := (s.fn fn).sumEnable.toNat
  let s1 := s.updFn fn (fun f => { f with sumEnable := BitVec.ofNat 9 v })
  let fresh := s1.enabledSummary fn &&& (511 - old)
  pinsFollow s (if fresh != 0 then sendMessage fn s1 else s1)

/-- A word of the MSI-X table; clearing the mask sends what the PBA holds (R324). -/
def writeMsix (fn k v : Nat) (s : State) : State :=
  let s1 := s.updFn fn (fun f => { f with msixTable := BitVec.ofNat 128 (f.msixTable.toNat - ((f.msixTable.toNat >>> (32 * k)) % 2 ^ 32) <<< (32 * k) + (v % 2 ^ 32) <<< (32 * k)) })
  if (s1.fn fn).pba && !(s1.fn fn).masked then sendMessage fn s1 else s1

/-! ## The Porter window (R406) -/

/-- A write of OP starts an operation, or is ignored with REJECTED. -/
def writePorter (v : Nat) (s : State) : State :=
  let op := v % 16
  s.updSys (fun y =>
    if y.porter.busy || op = 0 || op > 6 then { y with porter := { y.porter with rejected := true } }
    else { y with porter := { y.porter with busy := true, op := op, inst := BitVec.ofNat 6 (nfld v 13 8) } })

/-! ## A 4-byte write (R14, R303) -/

/-- The group and tree of a CAUSE register's offset. -/
def causeAt (fn off : Nat) : Option (Nat × Nat) :=
  if 0x1200 ≤ off && off < 0x1E00 && off % 0x200 = 0 then some (fn, (off - 0x1200) / 0x200)
  else if fn = 0 && 0x4200 ≤ off && off < 0x5200 && off % 0x200 = 0 then some (devTree, (off - 0x4200) / 0x200 + 8)
  else none

/-- A 4-byte write with byte enables `be` at an offset: partial enables are ignored and logged; RO and RSVD words ignore writes. -/
def write32 (fn off be v : Nat) (s : State) : State :=
  if be ≠ 15 then regIgnored fn off be true s
  else if is64 fn off then writeLow fn off v s
  else if off ≥ 4 && is64 fn (off - 4) then writeHigh fn off be v s
  else if off = 0x100 then writeSummary fn v s
  else if off = 0x104 then writeEnable fn v s
  else if off = 0x108 then s.updFn fn (fun f => { f with holdoff := BitVec.ofNat 10 v })
  else if off = 0x10C then (if fn = 0 then pinsFollow s (s.updFn 0 (fun f => { f with attnEnable := BitVec.ofNat 8 (v / 2) })) else s)
  else if off = 0x208 then
    (if (s.fn fn).cmdEnable || !sizeOk (v % 32) then regIgnored fn off be true s else s.updFn fn (fun f => { f with cmdSize := BitVec.ofNat 5 v }))
  else if off = 0x20C then writeCmdEnable fn off be v s
  else if off = 0x210 then writeDoorbell fn off be v s
  else if off = 0x228 then
    (if (s.fn fn).cplEnable || !sizeOk (v % 32) then regIgnored fn off be true s else s.updFn fn (fun f => { f with cplSize := BitVec.ofNat 5 v }))
  else if off = 0x22C then writeCplEnable fn off be v s
  else if off = 0x230 then writeCplHead fn off be v s
  else if 0x3000 ≤ off && off < 0x3010 then writeMsix fn ((off - 0x3000) / 4) v s
  else if fn = 0 && off = 0x6000 then writePorter v s
  else if fn = 0 && off = 0x6004 then
    s.updSys (fun y => { y with porter := { y.porter with done := y.porter.done && !nbit v 1, rejected := y.porter.rejected && !nbit v 2 } })
  else match causeAt fn off with
    | some (tree, g) => clearCauses tree g (v % 2 ^ 24) s
    | none => s

/-- A write that reaches BAR0, or an Unsupported Request, which changes nothing (R305). -/
def barWrite (fn : Nat) (tee : Tee) (act : State → State) (s : State) : State := if s.barOpen fn tee then act s else s

def execCmdDoorbell (fn : FnId) (value : BitVec 32) (be : BitVec 4) (tee : Tee) (s : State) : Host.Outcome State Fault Refusal :=
  .next (barWrite fn.toNat tee (write32 fn.toNat 0x210 be.toNat value.toNat) s)

def execCmdEnableWrite (fn : FnId) (value : BitVec 32) (be : BitVec 4) (tee : Tee) (s : State) : Host.Outcome State Fault Refusal :=
  .next (barWrite fn.toNat tee (write32 fn.toNat 0x20C be.toNat value.toNat) s)

def execCplEnableWrite (fn : FnId) (value : BitVec 32) (be : BitVec 4) (tee : Tee) (s : State) : Host.Outcome State Fault Refusal :=
  .next (barWrite fn.toNat tee (write32 fn.toNat 0x22C be.toNat value.toNat) s)

def execCplHeadWrite (fn : FnId) (value : BitVec 32) (be : BitVec 4) (tee : Tee) (s : State) : Host.Outcome State Fault Refusal :=
  .next (barWrite fn.toNat tee (write32 fn.toNat 0x230 be.toNat value.toNat) s)

def execSummaryStatusWrite (fn : FnId) (value : BitVec 32) (be : BitVec 4) (tee : Tee) (s : State) : Host.Outcome State Fault Refusal :=
  .next (barWrite fn.toNat tee (write32 fn.toNat 0x100 be.toNat value.toNat) s)

def execSummaryEnableWrite (fn : FnId) (value : BitVec 32) (be : BitVec 4) (tee : Tee) (s : State) : Host.Outcome State Fault Refusal :=
  .next (barWrite fn.toNat tee (write32 fn.toNat 0x104 be.toNat value.toNat) s)

def execCauseWrite (fn : FnId) (offset : BitVec 16) (value : BitVec 32) (be : BitVec 4) (tee : Tee) (s : State) : Host.Outcome State Fault Refusal :=
  .next (barWrite fn.toNat tee (write32 fn.toNat offset.toNat be.toNat value.toNat) s)

def execRegLowHalfWrite (fn : FnId) (offset : BitVec 16) (value : BitVec 32) (be : BitVec 4) (tee : Tee) (s : State) : Host.Outcome State Fault Refusal :=
  .next (barWrite fn.toNat tee (write32 fn.toNat offset.toNat be.toNat value.toNat) s)

def execRegHighHalfWrite (fn : FnId) (offset : BitVec 16) (value : BitVec 32) (be : BitVec 4) (tee : Tee) (s : State) : Host.Outcome State Fault Refusal :=
  .next (barWrite fn.toNat tee (write32 fn.toNat offset.toNat be.toNat value.toNat) s)

/-- REGISTER_WRITE of up to 8 bytes from a 4-byte aligned offset: one access where it is an aligned 8-byte write to a 64-bit register, else a sequence of 4-byte accesses in rising order (R303). -/
def wideWrite (fn off be v : Nat) (s : State) : State :=
  if be = 255 && off % 8 = 0 && is64 fn off then write64 fn off 15 v s
  else
    let s1 := if be % 16 = 0 then s else write32 fn off (be % 16) (loWord v) s
    if be / 16 = 0 then s1 else write32 fn (off + 4) (be / 16) (hiWord v) s1

def execRegisterWrite (fn : FnId) (offset : BitVec 16) (value : BitVec 64) (be : BitVec 8) (tee : Tee) (s : State) : Host.Outcome State Fault Refusal :=
  .next (barWrite fn.toNat tee (wideWrite fn.toNat offset.toNat be.toNat value.toNat) s)

/-- INTR_HOLDOFF_EXPIRY: a message that was due is sent (R324). -/
def execIntrHoldoffExpiry (fn : FnId) (s : State) : Host.Outcome State Fault Refusal :=
  let i := fn.toNat
  .next (if (s.fn i).msgDue then sendMessage i s else s)

/-- MSIX_UNMASK: the vector is enabled and unmasked, and sends the message that its PBA bit holds (log entry 25). -/
def execMsixUnmask (fn : FnId) (s : State) : Host.Outcome State Fault Refusal :=
  let i := fn.toNat
  .next (if !s.fnExists i then s
    else
      let s1 := pinsFollow s (s.updFn i (fun f => { f with msixEnable := true, msixFnMask := false, msixTable := f.msixTable &&& ~~~(1#128 <<< 96) }))
      if (s1.fn i).pba then sendMessage i s1 else s1)

end Sys2Proof.Machine
end

