-- ==== Sys2Proof/Machine/Host.lean ====
section
/-! DEFINITION. Command fetch, host reads, and what happens when the host withdraws, resets a function or loses the link (12_host_interface R298 to R301, R310, R311, R318 to R323). -/

namespace Sys2Proof.Machine

/-! ## Command fetch (R310 to R312, R327) -/

/-- A final completion of a command; MAINT's sets MAINT (R346). -/
def finishCmd (fn family tag status result : Nat) (s : State) : State :=
  if family = 0x0A && fn = 0 then finishMaint tag status result s else finish fn tag status result s

/-- Take one entry: CMD_HEAD advances past it; an unknown code completes at once with BAD_COMMAND (R327). -/
def takeEntry (fn : Nat) (e : Entry) (s : State) : State :=
  let s1 := s.updFn fn (fun f => { f with
    cmdHead := BitVec.ofNat 16 ((f.cmdHead.toNat + 1) % 2 ^ f.cmdSize.toNat), fetching := f.fetching - 1 })
  let family := fld e 15 8
  if fld e 7 0 = 0 || fld e 7 0 > familyCodes family then finishCmd fn family (fld e 63 32) St.badCommand 0 s1
  else s1.updFn fn (fun f => { f with taken := f.taken ++ [e] })

/-- COMMAND_FETCH_RETURN: entries of an outstanding fetch; those of a function that may not issue requests are dropped (R321). -/
def execCommandFetchReturn (fn : FnId) (entries : List Entry) (s : State) : Host.Outcome State Fault Refusal :=
  let i := fn.toNat
  .next (if (s.fn i).fetching < entries.length || !(s.fn i).mayWrite then s else forEach (takeEntry i) entries s)

/-! ## Host reads (R319 to R321) -/

/-- A transfer of a step ends with ABORTED_HOST; its other reads are dropped when they arrive, and their tags stay out of use until then. -/
def abortTransfer (fn tag : Nat) (s : State) : State :=
  failStep fn tag .host (raise fn 2 1 (tag % 2 ^ 32) { s with dmaReads := s.dmaReads.filter (fun r => !(r.fn == fn && r.use == .ingest tag)) })

/-- A tag whose read has ended is free again. -/
def freeReadTag (tag : Nat) (s : State) : State :=
  { s with tagsBusy := s.tagsBusy.filter (· != tag), dmaReads := s.dmaReads.filter (fun r => r.tag != tag) }

/-- The read of a tag ends, with its data or without: a late one is discarded and counted (R365), one of an old engine generation dropped (R320). -/
def readEnds (tag : Nat) (data : Option Bytes) (finds : List LineFind) (s : State) : State :=
  match s.dmaReads.find? (fun r => r.tag == tag) with
  | none => freeReadTag tag s
  | some r =>
    let s1 := freeReadTag tag s
    if r.gen != (s.inst r.fn).gen.toNat then lateDiscard r.fn 1 s1
    else if r.engGen != Tbl.get 0 s.dmaGen r.engine then s1
    else match r.use, data with
      | .ingest t, some bs => if bs.length = r.len then ingestPiece r.fn t r.offset bs finds s1 else abortTransfer r.fn t s1
      | .ingest t, none => abortTransfer r.fn t s1

/-- HOST_READ_COMPLETION: EP or a status other than Successful ends the transfer (R319). -/
def execHostReadCompletion (tag : BitVec 14) (status : RcStatus) (data : Bytes) (finds : List LineFind) (s : State) : Host.Outcome State Fault Refusal :=
  .next (readEnds tag.toNat (if status = .successful then some data else none) finds s)

/-- COMPLETION_TIMEOUT (R319). -/
def execCompletionTimeout (tag : BitVec 14) (s : State) : Host.Outcome State Fault Refusal :=
  .next (readEnds tag.toNat none [] s)

/-! ## Bus Master Enable and D3hot (R300, R321) -/

/-- Steps whose rows are still being read. -/
def readingSteps (s : State) (fn : Nat) : List Nat :=
  ((s.inst fn).steps.filter (fun p => s.dmaReads.any (fun r => r.fn == fn && r.use == .ingest p.tag))).map (·.tag)

/-- No new request; arriving completions are dropped, transfers end, fetches are forgotten. -/
def withdraw (fn : Nat) (s : State) : State :=
  forEach (abortTransfer fn) (readingSteps s fn)
    (({ s with dmaReads := s.dmaReads.filter (fun r => r.fn != fn) }).updFn fn (fun f => { f with fetching := 0 }))

/-- A function may issue requests again: held completions and interrupts, exports and fetches go on. -/
def goOn (fn : Nat) (s : State) : State :=
  let s1 := releaseHeld fn s
  let s2 := if (s1.fn fn).pba && !(s1.fn fn).masked then sendMessage fn s1 else s1
  pumpRing fn (forEach (fun (j : Job) s => exportPump fn j.id s) (s2.inst fn).jobs s2)

def execBusMasterDisable (fn : FnId) (s : State) : Host.Outcome State Fault Refusal :=
  let i := fn.toNat
  .next (if s.fnExists i && (s.fn i).bme then withdraw i (s.updFn i (fun f => { f with bme := false })) else s)

def execBusMasterEnable (fn : FnId) (s : State) : Host.Outcome State Fault Refusal :=
  let i := fn.toNat
  .next (if s.fnExists i && s.sys.linkUp && !(s.fn i).flr then
      (let s1 := s.updFn i (fun f => { f with bme := true })
       if (s1.fn i).mayWrite then goOn i s1 else s1)
    else s)

/-- D3HOT_ENTRY acts as clearing Bus Master Enable and Memory Space Enable; the function keeps its state (R300). -/
def execD3hotEntry (fn : FnId) (s : State) : Host.Outcome State Fault Refusal :=
  let i := fn.toNat
  .next (if s.fnExists i && !(s.fn i).d3hot then withdraw i (s.updFn i (fun f => { f with d3hot := true })) else s)

/-- D0_RETURN: the function resumes its state. -/
def execD0Return (fn : FnId) (s : State) : Host.Outcome State Fault Refusal :=
  let i := fn.toNat
  .next (if s.fnExists i && (s.fn i).d3hot then
      (let s1 := s.updFn i (fun f => { f with d3hot := false })
       if (s1.fn i).mayWrite then goOn i s1 else s1)
    else s)

/-! ## Function resets (R322, R323) -/

/-- Steps 1 to 4 of Table 12-8. A TDI returns to CONFIG_UNLOCKED (R373). -/
def startFlr (fn : Nat) (s : State) : State :=
  let s0 := match (s.inst fn).freezing with | some t => finish 0 t St.abortedReset 0 s | none => s
  let s1 := s0.updFn fn (fun f => { f with flr := true, fetching := 0 })
  (removeInst fn none true s1).updInst fn (fun n => { n with tdi := .unlocked, stream := 0, lockSession := none })

/-- FLR: Initiate FLR on a VF. -/
def execFlr (fn : FnId) (s : State) : Host.Outcome State Fault Refusal :=
  let i := fn.toNat
  .next (if i != 0 && s.fnExists i && s.sys.linkUp && !(s.fn i).flr then startFlr i s else s)

/-- VFs that exist. -/
def State.vfs (s : State) : List Nat := (List.range 64).filter (fun i => i != 0 && s.fnExists i)

/-- A VF is removed with its function: Table 14-7 without a command. -/
def removeVf (i : Nat) (s : State) : State :=
  (removeInst i none false s).updFn i (fun _ => {})

/-- VF Enable is cleared: every VF's instance is removed. The TDIs go with their functions. -/
def clearVfs (error : Bool) (s : State) : State :=
  let vs := s.vfs
  (forEach (fun i s => (removeVf i s).updInst i (fun n => { n with tdi := if error then .error else .unlocked, stream := 0, lockSession := none })) vs s).updSys
    (fun y => { y with vfEnable := false, numVFs := 0 })

def execVfEnableClear (s : State) : Host.Outcome State Fault Refusal := .next (if s.sys.vfEnable then clearVfs false s else s)

/-- VF_ENABLE_SET: VFs 1 to NumVFs exist, with VF Memory Space Enable (log entry 25). -/
def execVfEnableSet (numVFs : BitVec 6) (s : State) : Host.Outcome State Fault Refusal :=
  .next (if s.sys.vfEnable || !s.sys.linkUp || numVFs = 0 then s
    else
      let s1 := s.updSys (fun y => { y with vfEnable := true, numVFs := numVFs })
      forEach (fun i s => (resetFn i s).updFn i (fun f => { f with mse := true })) s1.vfs s1)

/-- The PF's own commands in progress end with its generation: nothing answers to their TAGs any more (R205, R323). -/
def dropPfCommands (s : State) : State :=
  let s1 := { s with
    acts := s.acts.map (fun (a : Act) => { a with tag := none })
    base := { s.base with load := none, repair := false, arrived := [] }
    padded := s.padded.filter (fun p => p.2.1 != 0) }
  forEach (fun i s => s.updInst i (fun n => { n with freezing := none, removal := n.removal.map (fun r => { r with tag := none }) })) s1.instNums s1

/-- PF_FLR: instance 0 as a VF's, and every VF removed, its TDI in ERROR (R323, R373). -/
def execPfFlr (s : State) : Host.Outcome State Fault Refusal :=
  .next (if s.sys.linkUp && !(s.fn 0).flr && s.fnExists 0 then startFlr 0 (clearVfs true (dropPfCommands s)) else s)

/-- FLR_COMPLETE: registers at their reset values and rings disabled; the stall goes on with no image. -/
def finishFlr (fn : Nat) (s : State) : State :=
  let s1 := (resetFn fn s).updFn fn (fun f => { f with mse := s.sys.linkUp })
  pinsFollow s (resetCauses fn true (s1.updStall fn (fun st => { st with inReset := false })))

def execFlrComplete (fn : FnId) (s : State) : Host.Outcome State Fault Refusal :=
  let i := fn.toNat
  .next (if (s.fn i).flr && !(s.inst i).raiseWaits then finishFlr i s else s)

/-! ## The link (R298, R299, R205) -/

/-- PCIE_LINK_UP: configuration and BAR0 requests are answered, with the PF's Memory Space Enable set (R416; log entry 25). -/
def execPcieLinkUp (rate : BitVec 3) (width : BitVec 5) (s : State) : Host.Outcome State Fault Refusal :=
  .next (if s.sys.linkUp || !s.sys.perstN || !s.sys.pcieRefclkOk || s.sys.pcieLoop || !(s.sys.phase == .starting || s.sys.phase == .operational) then s
    else (s.updSys (fun y => { y with linkUp := true, linkRate := rate, linkWidth := width })).updFn 0 (fun f => { f with mse := true }))

/-- The link is lost: LINK_DOWN; nothing of what is outstanding will be written (R205). Its loss takes the functions' Bus Master Enable with it (log entry 25). -/
def linkLost (s : State) : State :=
  if !s.sys.linkUp then s
  else
    let fs := (List.range 64).filter (fun i => s.fnExists i)
    let s1 := raiseDev 13 2 0 s
    let s2 := forEach (fun i s => (withdraw i (s.updInst i (fun n => { n with steps := n.steps.map (fun p => { p with muted := true }) }))).updFn i (fun f => { f with
      bme := false, held := [], taken := [] })) fs s1
    s2.updSys (fun y => { y with linkUp := false })

def execPcieLinkDown (s : State) : Host.Outcome State Fault Refusal := .next (linkLost s)

/-- LINK_RETRAIN: new figures for admission, and LINK_RETRAINED (R299). -/
def execLinkRetrain (rate : BitVec 3) (width : BitVec 5) (s : State) : Host.Outcome State Fault Refusal :=
  .next (if s.sys.linkUp then raiseDev 13 3 (rate.toNat + width.toNat <<< 4) (s.updSys (fun y => { y with linkRate := rate, linkWidth := width })) else s)

end Sys2Proof.Machine
end

