-- ==== Sys2Proof/Machine/Command.lean ====
section
/-! DEFINITION. What every command of the rings has in common: its fields, the order of its checks, its host buffers (13_command_set R327 to R334, R349; 14_isolation R373, R382, R386). The order of refusals is the manual's where it gives one, and otherwise log entry 27. -/

namespace Sys2Proof.Machine

/-! ## Fields of an entry (Table 12-6, Table 13-2) -/

def eFamily (e : Entry) : Nat := fld e 15 8
def eTag (e : Entry) : Nat := fld e 63 32
def eAddr (e : Entry) : Nat := fld e 191 128
def eBytes (e : Entry) : Nat := fld e 223 192
def eObj (e : Entry) : Nat := fld e 255 224
def eAddr2 (e : Entry) : Nat := fld e 319 256
def eBytes2 (e : Entry) : Nat := fld e 351 320

/-- The common positions as bit ranges. -/
def buf1 : List (Nat × Nat) := [(191, 128), (223, 192)]
def buf2 : List (Nat × Nat) := [(319, 256), (351, 320)]
def objBits : List (Nat × Nat) := [(255, 224)]

/-- Every bit outside the header's fields and the named ones is 0 (R18, R331). -/
def onlyFields (e : Entry) (fields : List (Nat × Nat)) : Bool :=
  e.toNat &&& (fields.foldl (fun m f => m ||| maskOf f.1 f.2) (maskOf 15 0 ||| maskOf 63 32)) == e.toNat

/-- Host buffers are 64-byte aligned (Table 13-2). -/
def addrsOk (e : Entry) : Bool := eAddr e % 64 == 0 && eAddr2 e % 64 == 0

/-! ## Endings -/

/-- The final completion of a ring's command. -/
def answerCmd (fn : Nat) (e : Entry) (status result : Nat) (s : State) : State := finishCmd fn (eFamily e) (eTag e) status result s

def refuseCmd (fn : Nat) (e : Entry) (status : Nat) (s : State) : State := answerCmd fn e status 0 s

/-- NOT_AVAILABLE, padded to the family's bound (R329). -/
def notHere (fn : Nat) (e : Entry) (s : State) : State := notAvailable fn (eTag e) (eFamily e) s

/-- A read or write of a host buffer fails: HOST_ABORT and ABORTED_HOST (R319, R332). -/
def hostAbort (fn : Nat) (e : Entry) (s : State) : State := refuseCmd fn e St.abortedHost (raise fn 2 1 (eTag e % 2 ^ 32) s)

/-! ## The order of checks -/

/-- What a row states of its command, judged on the state it meets. -/
structure Rules where
  /-- Named bits beyond the header. -/
  fields : List (Nat × Nat)
  /-- Issued by the PF alone (Table 13-1). -/
  pf : Bool := false
  /-- Needs a stall of the issuing function (Table 13-1, R328). -/
  stall : Bool := false
  /-- Acts on a frozen instance as well (R386). -/
  frozen : Bool := false
  /-- An earlier command on the same object has not ended, or the object's removal or reset runs (R330). -/
  busy : Bool := false
  /-- Names an object of another instance (R333, R382). -/
  foreign : Bool := false
  /-- Names an object that does not exist. -/
  missing : Bool := false
  /-- An encoding that its table does not define (R18). -/
  bad : Bool := false

/-- Why a command does not act: a status, NOT_AVAILABLE among them; nothing where it acts. -/
def whyNot (fn : Nat) (e : Entry) (r : Rules) (s : State) : Option Nat :=
  let n := s.inst fn
  if r.pf && fn != 0 then some St.badCommand
  else if r.foreign then some St.notAvailable
  else if n.tdi == .error && eFamily e != 1 then some St.refusedState
  else if n.frozen && !r.frozen then some St.refusedState
  else if r.stall && n.stall.isNone then some (if fn = 0 then St.badCommand else St.refusedState)
  else if r.missing then some St.notAvailable
  else if !onlyFields e r.fields || !addrsOk e || r.bad then some St.badCommand
  else none

/-- The command leaves the ring's queue of taken entries. -/
def takeOff (fn : Nat) (e : Entry) (s : State) : State := s.updFn fn (fun f => { f with taken := f.taken.erase e })

/-- Run a command: one that is not in the function's ring has no effect, one whose object is busy waits (R330), a refused one changes no state, and any other acts. -/
def runCmd (fn : Nat) (e : Entry) (r : Rules) (act : State → State) (s : State) : State :=
  if !((s.fn fn).taken.contains e) || r.busy then s
  else
    let s1 := takeOff fn e s
    match whyNot fn e r s with
    | some st => if st = St.notAvailable then notHere fn e s1 else refuseCmd fn e st s1
    | none => act s1

/-! ## Host buffers (R332) -/

/-- Act on the bytes of a buffer, once they are here. -/
def withBuf (fn : Nat) (e : Entry) (n : Nat) (buf : Buf) (act : Bytes → State → State) (s : State) : State :=
  if !(s.fn fn).mayWrite then hostAbort fn e s
  else match buf with
    | none => hostAbort fn e s
    | some bs => act (sub bs 0 n) s

/-- Write a command's output buffer and complete it: REFUSED_FIT before anything is written where the buffer is too short. -/
def intoBuf (fn : Nat) (e : Entry) (bs : Bytes) (result : Nat) (s : State) : State :=
  if bs.length > eBytes e then refuseCmd fn e St.refusedFit s
  else if !(s.fn fn).mayWrite then hostAbort fn e s
  else answerCmd fn e St.done result (hostWrite fn (eAddr e) bs s)

/-! ## Objects -/

/-- An instance that an earlier command, a removal, a reset or a raise still holds. -/
def State.instBusy (s : State) (i : Nat) : Bool :=
  let n := s.inst i
  n.removal.isSome || n.loading.isSome || n.freezing.isSome || n.raiseWaits || (s.fn i).flr
  || s.rdmas.any (fun r => match r.use with | .package j _ => j == i | _ => false)

/-- The owner that an adapter id carries (R333). -/
def ownerBits (id : Nat) : Nat := nfld id 31 26

/-- A region handle in a buffer of its length, whose queue pair is open and given to the commanding instance (R334). -/
def handleOpen (s : State) (inst : Nat) (h : Bytes) : Bool := (qpOf s inst (hPort h) (hQpn h)).isSome

end Sys2Proof.Machine
end

