-- ==== Sys2Proof/Machine/ImageForm.lean ====
section
/-! DEFINITION. The Viltal image as bytes: its sections read into the tables of State, the checks of stage 1 of R360, and relocation (13_command_set R350 to R360; 11_mapping R284, R285, R287; 10_fabric R276). -/

namespace Sys2Proof.Machine

/-- A number has no bit set outside the named ranges. -/
def onlyBits (v : Nat) (fs : List (Nat × Nat)) : Bool := v &&& (fs.foldl (fun m f => m ||| maskOf f.1 f.2) 0) == v

/-! ## Member maps (Table 11-1, R284) -/

def mapEnt (v : Nat) : MapEnt := { device := nfld v 13 0, flowBase := nfld v 33 14, group := nfld v 41 34 }

def parseMap (bs : Bytes) : List MapEnt := (List.range (bs.length / 8)).map (fun i => mapEnt (num bs (8 * i) 8))

/-- No entry's device is listed again. -/
def distinct : List Nat → Bool
  | [] => true
  | x :: xs => !xs.contains x && distinct xs

/-- The rules of R284 for a map of this device. -/
def mapOk (dev : Nat) (bs : Bytes) : Bool :=
  let m := parseMap bs
  bs.length % 8 == 0 && decide (1 ≤ m.length) && decide (m.length ≤ 12288)
  && (List.range m.length).all (fun i => decide (num bs (8 * i) 8 < 2 ^ 42))
  && m.all (fun e => decide (e.device ≤ 12287)) && distinct (m.map (·.device)) && m.any (fun e => e.device == dev)

/-- Index of this device in a map. -/
def selfIn (dev : Nat) (m : List MapEnt) : Nat := (m.findIdx? (fun e => e.device == dev)).getD 0

/-! ## Header and directory (Tables 13-15 to 13-17) -/

structure SecDir where
  typ : Nat
  entry : Nat
  count : Nat
  off : Nat
  len : Nat
deriving DecidableEq, Repr

def imageHdr (bs : Bytes) : Nat := num bs 0 128
def dirWord (bs : Bytes) (i : Nat) : Nat := num bs (128 + 32 * i) 32

def secDir (v : Nat) : SecDir := { typ := nfld v 15 0, entry := nfld v 31 16, count := nfld v 63 32, off := nfld v 127 64, len := nfld v 191 128 }

def imageSecs (bs : Bytes) : List SecDir := (List.range (nfld (imageHdr bs) 79 72)).map (fun i => secDir (dirWord bs i))

/-- ENTRY_BYTES of a section type; nothing where the type is not defined. -/
def entryBytes (t : Nat) : Option Nat := [96, 16, 32, 32, 16, 16, 16, 32, 64, 16, 32, 16, 1][t - 1]?.filter (fun _ => t != 0)

def rtKeepOf (bs : Bytes) : Nat := nfld (imageHdr bs) 210 192

/-- First byte of the reserved area under a header's RT_KEEP. -/
def areaOf (bs : Bytes) : Nat := sramBytes - rtKeepOf bs

def headerOk (bs : Bytes) : Bool :=
  let h := imageHdr bs
  let keep := rtKeepOf bs
  let smap := nfld h 242 224
  let ea := nfld h 274 256
  let el := nfld h 294 275
  decide (128 ≤ bs.length) && decide (bs.length ≤ 2 ^ 30)
  && nfld h 31 0 == 0x56494C54 && nfld h 47 32 == 1 && nfld h 63 48 == 0x0096
  && decide (nfld h 71 64 ≤ Config.step) && decide (1 ≤ nfld h 79 72) && decide (nfld h 79 72 ≤ 16)
  && nfld h 191 128 == bs.length && nfld h 127 96 == crc32c (bs.drop 128)
  && onlyBits h [(79, 0), (127, 96), (191, 128), (210, 192), (242, 224), (274, 256), (294, 275)]
  && keep % 4096 == 0 && decide (keep ≤ 262144)
  && smap % 64 == 0 && (if keep = 0 then smap == 0 else decide (areaOf bs ≤ smap) && decide (smap < sramBytes))
  && ea % 64 == 0 && el % 128 == 0 && decide (el ≤ 262144) && decide (ea + el ≤ sramBytes) && (el != 0 || ea == 0)

def secOk (bs : Bytes) (n : Nat) (v : Nat) : Bool :=
  let d := secDir v
  entryBytes d.typ == some d.entry && d.len == d.count * d.entry && d.off % 64 == 0
  && decide (128 + 32 * n ≤ d.off) && decide (d.off + d.len ≤ bs.length) && decide (v < 2 ^ 192)

/-- No two ranges of a list overlap. -/
def apart : List (Nat × Nat) → Bool
  | [] => true
  | r :: rs => rs.all (fun q => !overlaps r.1 r.2 q.1 q.2) && apart rs

def dirOk (bs : Bytes) : Bool :=
  let ds := imageSecs bs
  decide (128 + 32 * ds.length ≤ bs.length) && (List.range ds.length).all (fun i => secOk bs ds.length (dirWord bs i))
  && distinct (ds.map (·.typ)) && [1, 2, 3, 4, 11].all (fun t => ds.any (fun d => d.typ == t))
  && apart ((ds.filter (fun d => d.len != 0)).map (fun d => (d.off, d.len)))

/-- The entries of a section as numbers; an absent section holds none. -/
def entriesOf (bs : Bytes) (t : Nat) : List Nat :=
  match (imageSecs bs).find? (fun d => d.typ == t) with
  | some d => (List.range d.count).map (fun i => num bs (d.off + d.entry * i) d.entry)
  | none => []

def dataOf (bs : Bytes) : Bytes :=
  match (imageSecs bs).find? (fun d => d.typ == 13) with
  | some d => sub bs d.off d.len
  | none => []

/-! ## Entries -/

/-- Table 13-18. -/
def progEnt (v : Nat) : Program :=
  { index := nfld v 7 0, cls := nbit v 8, kind := nfld v 10 9, firstTask := nfld v 31 16, tasks := nfld v 47 32, firstLayer := nfld v 63 48,
    layers := nfld v 79 64, inRow := nfld v 95 80, outRow := nfld v 111 96, thresh := nfld v 121 112, budget := nfld v 125 122,
    base := nfld v 159 128, perRow := nfld v 191 160, perTicket := nfld v 223 192, perSlice := nfld v 255 224, f := nfld v 271 256,
    wBase := nfld v 319 288, wRow := nfld v 351 320, fuTicket := nfld v 383 352, fuRow := nfld v 415 384,
    tktAddr := nfld v 434 416, batchAddr := nfld v 453 435, maxRows := nfld v 476 456, inRegion := nfld v 559 512, outRegion := nfld v 623 576 }

def progBits : List (Nat × Nat) := [(10, 0), (125, 16), (271, 128), (453, 288), (476, 456), (559, 512), (623, 576)]

/-- Table 13-19. -/
def taskEnt (v : Nat) : TaskEnt := { program := nfld v 7 0, substep := nfld v 23 8, cores := nfld v 36 24, entry := nfld v 82 64 }
def taskBits : List (Nat × Nat) := [(36, 0), (82, 64)]

/-- Table 13-20. -/
def regionEnt (v : Nat) : Region :=
  { base := nfld v 47 0, len := nfld v 95 64, big := nbit v 96, slow := nbit v 97, rt := nbit v 98, offload := nbit v 99, recompute := nbit v 100,
    packed := nbit v 101, spill := nbit v 102, outTrig := nfld v 141 128, backTrig := nfld v 157 144, backDone := nfld v 173 160 }
def regionBits : List (Nat × Nat) := [(47, 0), (102, 64), (141, 128), (157, 144), (173, 160)]

/-- Table 13-21. -/
def preloadEnt (v : Nat) : Preload :=
  { firstCore := nfld v 11 0, cores := nfld v 24 12, bubble := nbit v 25, program := nfld v 39 32, sram := nfld v 82 64, len := nfld v 115 96, data := nfld v 191 128 }
def preloadBits : List (Nat × Nat) := [(25, 0), (39, 32), (82, 64), (115, 96), (191, 128)]

/-- Table 13-22. -/
def relocEnt (v : Nat) : Reloc := { unit := nfld v 63 0, lsb := nfld v 70 64, width := nfld v 76 71, kind := nfld v 79 77, arg := nfld v 111 96 }
def relocBits : List (Nat × Nat) := [(79, 0), (111, 96)]

/-- Table 13-23. -/
def syncEnt (v : Nat) : SyncDecl := { number := nfld v 13 0, kind := nfld v 15 14, bubble := nbit v 16, members := nfld v 63 32, initial := nfld v 95 64 }
def syncBits : List (Nat × Nat) := [(16, 0), (95, 32)]

/-- Table 13-24. -/
def flowEnt (v : Nat) : FlowDecl := { flow := nfld v 19 0, recv := nbit v 20, bubble := nbit v 21, peer := nfld v 35 22, rate := nfld v 63 40, cut := nfld v 79 64 }
def flowBits : List (Nat × Nat) := [(35, 0), (79, 40)]

/-- Table 13-25, with the member numbers that LIST names. -/
def cutMembers (v : Nat) : Nat := nfld v 45 32
def cutList (v : Nat) : Nat := nfld v 127 64
def cutEnt (data : Bytes) (v : Nat) : Cut :=
  { cls := nfld v 1 0, pipe := nbit v 2, gap := nfld v 29 16, members := (List.range (cutMembers v)).map (fun i => num data (cutList v + 2 * i) 2) }
def cutBits : List (Nat × Nat) := [(2, 0), (29, 16), (45, 32), (127, 64)]

/-- Table 10-7 and R359, with the member list that LIST names: member, logical flow, permute target. -/
def collMembers (v : Nat) : Nat := nfld v 29 16
def collList (v : Nat) : Nat := nfld v 303 256
def collEnt (data : Bytes) (v : Nat) : Coll :=
  { kind := nfld v 2 0, bubble := nbit v 3, compress := nbit v 4, fmt := nfld v 7 5, eT := signed 8 (nfld v 15 8), members := collMembers v,
    index := nfld v 45 32, coll := nfld v 61 46, core := nfld v 75 64, src := nfld v 94 76, dst := nfld v 113 95, len := nfld v 137 114,
    trigger := nfld v 151 138, thresh := nfld v 183 152, done := nfld v 197 184, timeout := nfld v 229 198, cut := nfld v 245 230,
    list := (List.range (collMembers v)).map (fun i => let m := num data (collList v + 8 * i) 8; (nfld m 13 0, nfld m 33 14, nfld m 47 34)),
    listAddr := collList v }
def collBits : List (Nat × Nat) := [(29, 0), (61, 32), (245, 64), (303, 256)]

/-- Table 13-26. -/
def tileEnt (v : Nat) : TileEnt := { prog := nfld v 18 0, args := nfld v 37 19, core := nfld v 49 38, bubble := nbit v 50, program := nfld v 58 51 }

/-- Table 13-27. -/
def layerEnt (v : Nat) : Layer := { tC := nfld v 31 0, tS := nfld v 63 32, weights := nfld v 111 64, bytes := nfld v 191 128, scaled := nbit v 192, cnt := nfld v 207 200 }
def layerBits : List (Nat × Nat) := [(111, 0), (192, 128), (207, 200)]

/-- Table 13-28. -/
def counterEnt (v : Nat) : Counter := { cnt := nfld v 7 0, kind := nbit v 8, layer := nfld v 31 16, tensor := nfld v 63 32 }
def counterBits : List (Nat × Nat) := [(8, 0), (63, 16)]

/-- The image as its bytes give it, before relocation. -/
def parseImage (bs : Bytes) (map : List MapEnt) (self : Nat) : Image :=
  let h := imageHdr bs
  let data := dataOf bs
  { rtKeep := rtKeepOf bs, stallMap := nfld h 242 224, expertAddr := nfld h 274 256, expertLen := nfld h 294 275,
    programs := (entriesOf bs 1).map progEnt, tasks := (entriesOf bs 2).map taskEnt, regions := (entriesOf bs 3).map regionEnt,
    preloads := (entriesOf bs 4).map preloadEnt, relocs := (entriesOf bs 5).map relocEnt, syncs := (entriesOf bs 6).map syncEnt,
    flows := (entriesOf bs 7).map flowEnt, cuts := (entriesOf bs 8).map (cutEnt data), colls := (entriesOf bs 9).map (collEnt data),
    tileprogs := (entriesOf bs 10).map tileEnt, layers := (entriesOf bs 11).map layerEnt, counters := (entriesOf bs 12).map counterEnt,
    data := data, map := map, raw := bs, self := self, digest := Config.sha384 bs }

/-! ## Stage 1 of R360 -/

/-- Reserved bits of every entry, and lists that lie in DATA. -/
def rawOk (bs : Bytes) : Bool :=
  let n := (dataOf bs).length
  (entriesOf bs 1).all (fun v => onlyBits v progBits) && (entriesOf bs 2).all (fun v => onlyBits v taskBits)
  && (entriesOf bs 3).all (fun v => onlyBits v regionBits) && (entriesOf bs 4).all (fun v => onlyBits v preloadBits)
  && (entriesOf bs 5).all (fun v => onlyBits v relocBits) && (entriesOf bs 6).all (fun v => onlyBits v syncBits)
  && (entriesOf bs 7).all (fun v => onlyBits v flowBits)
  && (entriesOf bs 8).all (fun v => onlyBits v cutBits && decide (cutList v + 2 * cutMembers v ≤ n))
  && (entriesOf bs 9).all (fun v => onlyBits v collBits && decide (collList v + 8 * collMembers v ≤ n)
      && (List.range (collMembers v)).all (fun i => decide (num (dataOf bs) (collList v + 8 * i) 8 < 2 ^ 48)))
  && (entriesOf bs 10).all (fun v => decide (v < 2 ^ 59)) && (entriesOf bs 11).all (fun v => onlyBits v layerBits)
  && (entriesOf bs 12).all (fun v => onlyBits v counterBits)

/-- The declaration of an object; of two for one number, the later record stands. -/
def Image.decl (im : Image) (n : Nat) : Option SyncDecl := im.syncs.reverse.find? (fun d => d.number == n)

/-- A relative number names a declared object of a kind and class (R227, R354, R358). -/
def Image.names (im : Image) (n kind : Nat) (bubble : Bool) : Bool :=
  match im.decl n with | some d => d.kind == kind && d.bubble == bubble | none => false

/-- Regions that cover a byte range, or nothing where some byte has none. -/
def coverGo (rs : List Region) (stop : Nat) : Nat → Nat → Option (List Region)
  | 0, a => if a ≥ stop then some [] else none
  | k + 1, a =>
    if a ≥ stop then some []
    else match rs.find? (fun r => decide (r.base ≤ a) && decide (a < r.base + r.len * 65536)) with
      | some r => (coverGo rs stop k (r.base + r.len * 65536)).map (r :: ·)
      | none => none

def Image.cover (im : Image) (a n : Nat) : Option (List Region) := coverGo im.regions (a + n) im.regions.length a

/-- Rows of a program lie in RT regions of the fast tier, or in regions without RT, by its class (R352). -/
def Image.rowsOk (im : Image) (p : Program) (a width : Nat) : Bool :=
  match im.cover a (p.maxRows * width) with
  | some rs => rs.all (fun r => if p.cls then !r.rt else r.rt && !r.slow)
  | none => false

/-- Array steps of a program at R166's bound: MAX_ROWS rows, 1024 tickets, 3 × MAX_ROWS further slices. -/
def Program.most (p : Program) : Nat := p.base + p.perRow * p.maxRows + p.perTicket * 1024 + p.perSlice * (3 * p.maxRows)

/-- Sub-steps start at 0 and never skip (R353). -/
def noGaps : Nat → List Nat → Bool
  | _, [] => true
  | n, x :: xs => (x == n || x == n + 1) && noGaps x xs

/-- A program entry (R352, R353, R166). -/
def Image.progOk (im : Image) (p : Program) : Bool :=
  let ts := (im.tasks.drop p.firstTask).take p.tasks
  let ls := (im.layers.drop p.firstLayer).take p.layers
  let cost := [p.base, p.perRow, p.perTicket, p.perSlice, p.f, p.wBase, p.wRow, p.fuTicket, p.fuRow]
  decide (1 ≤ p.index) && (if p.cls then p.kind == 1 || p.kind == 2 else p.kind == 0)
  && decide (1 ≤ p.tasks) && decide (p.tasks ≤ 4096) && decide (p.firstTask + p.tasks ≤ im.tasks.length)
  && decide (1 ≤ p.layers) && decide (p.firstLayer + p.layers ≤ im.layers.length)
  && decide (1 ≤ p.inRow) && decide (1 ≤ p.outRow) && decide (p.thresh ≤ 1000) && (!p.cls || cost.all (· == 0))
  && p.tktAddr % 64 == 0 && p.batchAddr % 64 == 0 && decide (1 ≤ p.maxRows) && decide (p.maxRows ≤ 1048576)
  && p.inRegion % 128 == 0 && p.outRegion % 128 == 0
  && ts.all (fun t => t.program == p.index) && (ts.head?.map (·.substep)) == some 0 && noGaps 0 (ts.map (·.substep))
  && (p.cls || ts.all (fun t => t.substep == 0))
  && (p.inRegion == 0 || im.rowsOk p p.inRegion p.inRow) && im.rowsOk p p.outRegion p.outRow
  && (p.cls || decide ((ls.map (·.tC)).foldl (· + ·) 0 ≤ p.most))

/-- Every task belongs to the one program that lists it (R353). -/
def Image.tasksOk (im : Image) : Bool :=
  (List.range im.tasks.length).all (fun i =>
    match im.tasks[i]? with
    | some t => decide (1 ≤ t.cores) && decide (t.cores ≤ 4096) && t.entry % 16 == 0
        && (match im.program t.program with | some p => decide (p.firstTask ≤ i) && decide (i < p.firstTask + p.tasks) | none => false)
    | none => true)

/-- A region entry (R153, R292, R354, R453). -/
def Image.regionOk (im : Image) (r : Region) : Bool :=
  let moves := r.offload || r.recompute
  r.base % (if r.big then 2 ^ 21 else 65536) == 0 && decide (1 ≤ r.len) && (!r.big || r.len % 32 == 0)
  && decide (r.base + r.len * 65536 ≤ adapterWindow)
  && (!(r.rt || r.spill) || !r.slow) && (!r.packed || r.slow) && (!r.spill || !r.big) && !(r.rt && moves)
  && (if moves then im.names r.outTrig 0 true else r.outTrig == 0)
  && (if r.offload then im.names r.backTrig 0 true && im.names r.backDone 0 true else r.backTrig == 0 && r.backDone == 0)

/-- One SPILL region where a program is bubble, at most one elsewhere; no overlap (R354). -/
def Image.layoutOk (im : Image) : Bool :=
  let n := (im.regions.filter (·.spill)).length
  im.regions.all im.regionOk && decide (n ≤ 1) && (!im.programs.any (·.cls) || n == 1)
  && apart (im.regions.map (fun r => (r.base, r.len * 65536)))

/-- Names a bubble program of the image where the class asks for one, and 0 elsewhere. -/
def Image.classProgOk (im : Image) (bubble : Bool) (program : Nat) : Bool :=
  if bubble then (match im.program program with | some p => p.cls | none => false) else program == 0

def Preload.meets (r q : Preload) : Bool :=
  r.bubble == q.bubble && r.program == q.program && overlaps r.firstCore r.cores q.firstCore q.cores && overlaps r.sram r.len q.sram q.len

def noMeet : List Preload → Bool
  | [] => true
  | r :: rs => rs.all (fun q => !r.meets q) && noMeet rs

/-- Preload records (R355). -/
def Image.preloadsOk (im : Image) : Bool :=
  let top := sramBytes - im.rtKeep
  im.preloads.all (fun r => decide (1 ≤ r.cores) && decide (r.cores ≤ 4096) && im.classProgOk r.bubble r.program
    && r.sram % 64 == 0 && r.len % 64 == 0 && decide (64 ≤ r.len) && decide (r.len ≤ sramBytes) && decide (r.data + r.len ≤ im.data.length)
    && (if r.bubble then decide (r.sram + r.len ≤ top) else decide (top ≤ r.sram) && decide (r.sram + r.len ≤ sramBytes)))
  && noMeet im.preloads

/-- Sync declarations (Table 13-23). -/
def Image.syncsOk (im : Image) : Bool :=
  im.syncs.all (fun d => decide (d.kind ≤ 2) && ((d.kind == 1) == (d.members != 0)) && (d.kind != 1 || d.initial == 0) && (d.kind != 2 || decide (d.initial ≤ 1)))

/-- Members of a cut by its index. -/
def Image.inCut (im : Image) (cut m : Nat) : Bool := match im.cuts[cut]? with | some c => c.members.contains m | none => false

/-- Cuts (Table 13-25). -/
def Image.cutsOk (im : Image) : Bool :=
  im.cuts.all (fun c => decide (c.cls ≤ 2) && decide (2 ≤ c.members.length) && decide (c.members.length ≤ 12288)
    && c.members.all (fun m => decide (m < im.map.length)) && (if c.pipe then im.names c.gap 2 false else c.gap == 0))

/-- Flow declarations, each inside its cut (R287, R358). -/
def Image.flowsOk (im : Image) : Bool :=
  im.flows.all (fun f => decide (f.peer < im.map.length) && f.peer != im.self && im.inCut f.cut f.peer && im.inCut f.cut im.self
    && (if f.bubble then f.rate == 0 else decide (1 ≤ f.rate) && decide (f.rate ≤ 80000)))

/-- A collective (R276, R277, R287, R359). -/
def Image.collOk (im : Image) (c : Coll) : Bool :=
  decide (c.kind ≤ 4) && (!c.compress || (decide (2 ≤ c.kind) && (c.fmt == 2 || c.fmt == 3))) && (c.compress || c.fmt == 0) && (decide (c.kind < 2) || c.eT == 0)
  && decide (2 ≤ c.members) && decide (c.members ≤ 12288) && decide (c.index < c.members)
  && ((c.list[c.index]?).map (·.1)) == some im.self
  && c.src % 64 == 0 && c.dst % 64 == 0 && c.len % 64 == 0 && (!(c.kind == 1 || c.kind == 3) || c.len % (64 * c.members) == 0)
  && decide (c.src + c.len ≤ sramBytes) && decide (c.dst + c.dstBytes ≤ sramBytes)
  && decide (1 ≤ c.thresh) && decide (1 ≤ c.timeout) && im.names c.trigger 0 c.bubble && im.names c.done 0 c.bubble
  && c.list.all (fun e => decide (e.1 < im.map.length) && im.inCut c.cut e.1 && (c.kind != 4 || decide (e.2.2 < im.map.length))
      && (e.1 == im.self || im.flows.any (fun f => !f.recv && f.peer == e.1 && f.flow == e.2.1 && f.bubble == c.bubble)))

def Image.collsOk (im : Image) : Bool := im.colls.all im.collOk && distinct (im.colls.map (·.coll))

/-- Bytes of a relative core's SRAM as the records of a class and program hold them; nothing where one is not covered (R359). -/
def Image.preloaded (im : Image) (core : Nat) (bubble : Bool) (program a n : Nat) : Option Bytes :=
  let rs := im.preloads.filter (fun r => r.bubble == bubble && r.program == program && decide (r.firstCore ≤ core) && decide (core < r.firstCore + r.cores))
  (List.range n).mapM (fun i => (rs.find? (fun r => decide (r.sram ≤ a + i) && decide (a + i < r.sram + r.len))).bind (fun r => im.data[r.data + (a + i - r.sram)]?))

/-- A tile program entry, checked by R130 (R359). -/
def Image.tileOk (im : Image) (t : TileEnt) : Bool :=
  t.prog % 64 == 0 && t.args % 64 == 0 && im.classProgOk t.bubble t.program
  && (match im.preloaded t.core t.bubble t.program t.prog 16, im.preloaded t.core t.bubble t.program t.args argBytes with
    | some h, some args =>
      match progHdr (leNat h) with
      | some (count, tail) =>
        match im.preloaded t.core t.bubble t.program (t.prog + 16) (4 * count) with
        | some ws => Machine.progOk none 0 ((chunks 4 count ws).map (fun w => BitVec.ofNat 32 (leNat w))) tail args
        | none => false
      | none => false
    | _, _ => false)

/-- Layer records: T_C is not 0 (R166), the weights lie in one half of the logical range. -/
def Image.layersOk (im : Image) : Bool :=
  im.layers.all (fun l => l.tC != 0 && (l.scaled || l.cnt == 0) && decide (l.weights + l.bytes ≤ (if l.weights < baseWindow then baseWindow else 2 * baseWindow)))

def Image.countersOk (im : Image) : Bool := im.counters.all (fun c => c.kind || c.tensor == 0xFFFFFFFF)

/-- The records of a preload list that hold a field. -/
def Image.holders (im : Image) (r : Reloc) : List Preload :=
  let lo := r.unit + r.lsb / 8
  let hi := r.unit + (r.lsb + r.width - 1) / 8
  im.preloads.filter (fun q => decide (q.data ≤ lo) && decide (hi < q.data + q.len))

def relocField (data : Bytes) (r : Reloc) : Nat := (num data r.unit 16 >>> r.lsb) % 2 ^ r.width

/-- Relocation entries (R356, R227). -/
def Image.relocsOk (im : Image) : Bool :=
  im.relocs.all (fun r => r.unit % 16 == 0 && decide (r.unit + 16 ≤ im.data.length) && decide (1 ≤ r.width) && decide (r.width ≤ 48)
    && decide (r.lsb + r.width ≤ 128) && decide (r.kind ≤ 4)
    && (match r.kind with
      | 3 => decide (r.arg < im.map.length)
      | 4 => !(im.holders r).isEmpty && (im.holders r).all (·.bubble)
      | k => r.arg == 0 && (k != 2 || decide (relocField im.data r < im.map.length))
          && (k != 1 || (match im.decl (relocField im.data r) with | some d => (im.holders r).all (fun q => q.bubble == d.bubble) | none => true))))

/-- The checks of stage 1 on the parsed image, but for values that do not fit their fields. -/
def Image.formOk (im : Image) : Bool :=
  distinct (im.programs.map (·.index)) && im.programs.all im.progOk && im.tasksOk && im.layoutOk && im.preloadsOk && im.syncsOk && im.cutsOk
  && im.flowsOk && im.collsOk && im.tileprogs.all im.tileOk && im.layersOk && im.countersOk && im.relocsOk

/-! ## Relocation (R197, R285, R356, R359) -/

/-- Relocated value of a field, or nothing where its number lies beyond the stall. -/
def relocValue (st : Stall) (im : Image) (r : Reloc) (v : Nat) : Option Nat :=
  match r.kind with
  | 0 => st.coreAt v
  | 1 => if v < st.syncCount then some (st.syncBase + v) else none
  | 2 => (im.map[v]?).map (·.device)
  | _ => (im.map[r.arg]?).map (fun e => e.flowBase + v)

/-- Every value that has one fits its field (R356). -/
def Image.valuesFit (im : Image) (st : Stall) : Bool :=
  im.relocs.all (fun r => r.kind == 4 || (match relocValue st im r (relocField im.data r) with | some v => decide (v < 2 ^ r.width) | none => true))

/-- Every relative core and sync number lies within the stall (R356, stage 3). -/
def Image.withinStall (im : Image) (st : Stall) : Bool :=
  let cores := st.cores.length
  im.relocs.all (fun r => r.kind == 4 || (relocValue st im r (relocField im.data r)).isSome)
  && im.syncs.all (fun d => decide (d.number < st.syncCount)) && im.preloads.all (fun r => decide (r.firstCore + r.cores ≤ cores))
  && im.colls.all (fun c => decide (c.core < cores)) && im.tileprogs.all (fun t => decide (t.core < cores))

def memberDev (im : Image) (m : Nat) : Nat := match im.map[m]? with | some e => e.device | none => 0x3FFF
def memberFlow (im : Image) (m f : Nat) : Nat := match im.map[m]? with | some e => e.flowBase + f | none => 0

/-- The image with every relative number replaced; the member lists of collectives lie one after another from a logical address (R359). -/
def relocate (st : Stall) (listBase : Nat) (im : Image) : Image :=
  let obj := fun (n : Nat) => st.syncBase + n
  let data := im.relocs.foldl (fun bs r => if r.kind = 4 then bs else match relocValue st im r (relocField im.data r) with
    | some v => setField bs r.unit r.lsb r.width v
    | none => bs) im.data
  { im with
    data := data
    regions := im.regions.map (fun r => { r with
      outTrig := if r.offload || r.recompute then obj r.outTrig else 0
      backTrig := if r.offload then obj r.backTrig else 0
      backDone := if r.offload then obj r.backDone else 0 })
    flows := im.flows.map (fun f => { f with flow := memberFlow im (if f.recv then im.self else f.peer) f.flow })
    colls := (im.colls.foldl (fun (acc : List Coll × Nat) c =>
      (acc.1 ++ [{ c with
        core := (st.coreAt c.core).getD 0
        trigger := obj c.trigger
        done := obj c.done
        cut := 0
        list := c.list.map (fun e => (memberDev im e.1, memberFlow im e.1 e.2.1, memberDev im e.2.2))
        listAddr := acc.2 }], acc.2 + 8 * c.members)) ([], listBase)).1 }

end Sys2Proof.Machine
end

