-- ==== Sys2Proof/Machine/Instances.lean ====
section
/-! DEFINITION. SESSION, INSTANCE and TELEMETRY: the meanings of their commands (13_command_set R340, R341, R346 to R348; 08_almanac R196, R211, R218; 06_memory_tiers R156 to R159, R451; 14_isolation R380, R381, R391). -/

namespace Sys2Proof.Machine

/-! ## SESSION (Table 13-7) -/

/-- REPORT: the instance's last report, made anew where a block has changed (R370). -/
def execSessionReport (fn : FnId) (e : Entry) (s : State) : Host.Outcome State Fault Refusal :=
  let i := fn.toNat
  .next (runCmd i e { fields := buf1, frozen := true } (fun s =>
    let s1 := if (s.inst i).reported = blockInputs s i then s else makeReport i 0 s
    intoBuf i e (s1.inst i).report (s1.inst i).report.length s1) s)

/-- LINK_POLICY: the measurement digests accepted of neighbours (R268). -/
def execLinkPolicy (fn : FnId) (e : Entry) (buf : Buf) (s : State) : Host.Outcome State Fault Refusal :=
  let i := fn.toNat
  let n := eBytes e
  .next (runCmd i e { fields := buf1, pf := true, frozen := true, bad := n == 0 || n % 48 != 0 } (fun s =>
    if n > 64 * 48 then refuseCmd i e St.refusedFit s
    else withBuf i e n buf (fun bs s =>
      answerCmd i e St.done 0 (s.updSys (fun y => { y with linkPolicy := (chunks 48 (n / 48) bs).map (fun d => BitVec.ofNat 384 (leNat d)) }))) s) s)

/-- CONSENT: DEBUG and PROFILE of the function's own instance; for instance 0 both always read 1 (R380, R381). -/
def execConsent (fn : FnId) (e : Entry) (s : State) : Host.Outcome State Fault Refusal :=
  let i := fn.toNat
  .next (runCmd i e { fields := objBits ++ [(353, 352)], frozen := true, foreign := eObj e != i, busy := s.instBusy i } (fun s =>
    if i = 0 then answerCmd i e St.done 3 s
    else answerCmd i e St.done (fld e 353 352) (s.updInst i (fun n => { n with debug := bit e 352, profile := bit e 353 }))) s)

/-! ## Placement (log entry 16) -/

/-- The lowest aligned run of `n` below `hi` that overlaps none of the used runs. -/
def fitGo (used : List (Nat × Nat)) (n al hi : Nat) : Nat → Nat → Option Nat
  | 0, _ => none
  | k + 1, a =>
    let a := cdiv a al * al
    if a + n > hi then none
    else match used.find? (fun u => decide (a < u.1 + u.2) && decide (u.1 < a + n)) with
      | some u => fitGo used n al hi k (u.1 + u.2)
      | none => some a

def fitRun (used : List (Nat × Nat)) (n al lo hi : Nat) : Option Nat := fitGo used n al hi (used.length + 1) lo

/-- Other instances' stalls. -/
def otherStalls (s : State) (i : Nat) : List Stall := s.insts.filterMap (fun p => if p.1 = i then none else p.2.stall)

def allStalls (s : State) : List Stall := s.insts.filterMap (fun p => p.2.stall)

/-- A set that a stall, a page, a frame awaiting scrub, a move or the base model still uses. -/
def setInUse (s : State) (k : Nat) : Bool :=
  (allStalls s).any (fun st => st.fastSet == k || st.slowSet == k)
  || s.pages.any (fun p => p.2.valid && p.2.home != .store && p.2.set == k) || s.scrub.any (fun r => r.set == k) || s.moves.any (fun m => m.set == k)
  || s.base.fastSet == some k || s.base.slowSet == some k

/-- Ranges of a part that live sets own, and its retired frames (R157, R190). -/
def partUsed (s : State) (p : Nat) : List (Nat × Nat) :=
  (List.range s.sets.length).filterMap (fun k =>
    match s.sets[k]? with
    | some ps => if ps.parts.contains p && setInUse s k then some (ps.base, ps.size / ps.parts.length) else none
    | none => none)
  ++ (s.retired.filter (fun r => r.1 == p)).map (fun r => (r.2 * 65536, 65536))

/-- A set of given parts and bytes: the same local range in every member, the size a multiple of 512 × n (R157). -/
def placeSet (s : State) (parts : List Nat) (bytes : Nat) : Option PartSet :=
  let n := parts.length
  if n = 0 then none
  else
    let size := cdiv bytes (512 * n) * (512 * n)
    let hi := (parts.map partBytes).foldl min (partBytes 12)
    (fitRun (parts.flatMap (partUsed s)) (size / n) 65536 0 hi).map (fun b => { parts := parts, base := b, size := size })

/-- Enter a set in the lowest place that no live set holds. -/
def addSet (ps : PartSet) (s : State) : Nat × State :=
  match (List.range s.sets.length).find? (fun k => !setInUse s k) with
  | some k => (k, { s with sets := s.sets.set k ps })
  | none => (s.sets.length, { s with sets := s.sets ++ [ps] })

/-! ## CREATE and RESIZE (Table 13-8) -/

/-- The fields of CREATE and RESIZE. -/
structure Ask where
  groups : BitVec 64
  syncs : Nat
  flows : Nat
  fast : Nat
  slow : Nat
  cat : Nat
  hot : Nat
  fastMask : Nat
  slowMask : Nat
deriving DecidableEq, Repr

def askOf (e : Entry) : Ask :=
  { groups := BitVec.ofNat 64 (fld e 415 352), syncs := fld e 429 416, flows := fld e 467 448, fast := fld e 511 480, slow := fld e 543 512,
    cat := fld e 560 544, hot := fld e 589 576, fastMask := fld e 651 640, slowMask := fld e 671 656 }

def askFields : List (Nat × Nat) :=
  objBits ++ [(415, 352), (429, 416), (467, 448), (511, 480), (543, 512), (560, 544), (589, 576), (651, 640), (671, 656)]

/-- Some group of a mask lies on a die: 0 West, 1 East (R20). -/
def onDie (groups : BitVec 64) (d : Nat) : Bool := (groups.toNat >>> (32 * d)) % 2 ^ 32 != 0

/-- Parts in service of the dies that hold a group: the default masks (R451). -/
def defaultMask (s : State) (groups : BitVec 64) (perDie first : Nat) : Nat :=
  (List.range (2 * perDie)).foldl (fun m k => if onDie groups (k / perDie) && !s.sys.failedParts.getLsbD (first + k) then m ||| (1 <<< k) else m) 0

def Ask.fastOf (a : Ask) (s : State) : Nat := if a.fastMask = 0 then defaultMask s a.groups 6 0 else a.fastMask
def Ask.slowOf (a : Ask) (s : State) : Nat := if a.slowMask = 0 then defaultMask s a.groups 8 12 else a.slowMask

def slowParts (mask : Nat) : List Nat := (bitsOf 16 mask).map (· + 12)

/-- A group may be given out: in no stall, in service, under no group test, its Clerk's half running (R95, R196, R430). -/
def groupFree (s : State) (g : Nat) : Bool :=
  (s.ownerOf g).isNone && !(s.group g).outOfService && s.acts.all (fun (a : Act) => !(a.kind == .cg && a.res.contains (.group g)))
  && s.sys.stoppedHalf != some (if g < 32 then .west else .east)

/-- Weights on every part and direction, with a stall in an instance's place, sum to at most 1 (R159, R211). -/
def weightsFit (s : State) (i : Nat) (st : Stall) : Bool :=
  (List.range 30).all (fun k => decide (((otherStalls s i).map (fun x => x.weight k)).foldl (· + ·) 0 + st.weight k ≤ 65536))

/-- Every member of the stall's sets has a weight, and is in service (R451). -/
def membersOk (s : State) (st : Stall) : Bool :=
  (bitsOf 12 st.fastMask ++ slowParts st.slowMask).all (fun p => st.weight p != 0 && !s.sys.failedParts.getLsbD p)

/-- Catalogue and hot-set quotas of all stalls (R113). -/
def quotasFit (s : State) (i : Nat) (a : Ask) : Bool :=
  decide (((otherStalls s i).map (·.cat)).foldl (· + ·) 0 + a.cat ≤ 65536) && decide (((otherStalls s i).map (·.hot)).foldl (· + ·) 0 + a.hot ≤ 8192)

/-- First ids for a request: kept where the count stays, else the lowest free range. -/
def rangeFor (old : Option (Nat × Nat)) (used : List (Nat × Nat)) (n lo hi : Nat) : Option Nat :=
  match old with
  | some (b, m) => if m = n then some b else if n = 0 then some 0 else fitRun used n 1 lo hi
  | none => if n = 0 then some 0 else fitRun used n 1 lo hi

/-- The set for a mask and quota: kept where parts and size stay, else a new one. -/
def setFor (s : State) (old : Option Nat) (parts : List Nat) (bytes : Nat) : Option (Nat × State) :=
  let keep : Bool := match old.bind (fun k => s.sets[k]?) with
    | some ps => ps.parts == parts && ps.size == cdiv bytes (512 * parts.length) * (512 * parts.length)
    | none => false
  if keep then old.map (fun k => (k, s)) else (placeSet s parts bytes).map (fun ps => addSet ps s)

/-- The stall that a request gives an instance, with its sets entered; nothing where something does not fit. -/
def planStall (s : State) (i : Nat) (a : Ask) : Option (Stall × State) :=
  let old := s.stall i
  let fm := a.fastOf s
  let sm := a.slowOf s
  let own := fun (g : Nat) => match old with | some st => st.groups.getLsbD g | none => false
  if !(bitsOf 64 a.groups.toNat).all (fun g => own g || groupFree s g) || !quotasFit s i a then none
  else
    let syncs := (otherStalls s i).map (fun st => (st.syncBase, st.syncCount))
    let flows := (otherStalls s i).map (fun st => (st.flowBase, st.flows))
    match rangeFor (old.map (fun st => (st.syncBase, st.syncCount))) syncs a.syncs 1 16384, rangeFor (old.map (fun st => (st.flowBase, st.flows))) flows a.flows 1 1048576 with
    | some sb, some fb =>
      let st0 : Stall := { groups := a.groups, syncBase := sb, syncCount := a.syncs, flowBase := fb, flows := a.flows, fast := a.fast, slow := a.slow, cat := a.cat, hot := a.hot, fastMask := fm, slowMask := sm, fastSet := 0, slowSet := 0, weights := (old.map (·.weights)).getD [], inReset := (old.map (·.inReset)).getD false }
      if !weightsFit s i st0 || !membersOk s st0 then none
      else
        -- the old sets stand until their pages have moved; sets without pages make room
        let inUse := fun (k : Nat) => s.pages.any (fun p => p.2.valid && p.2.set == k)
        let s0 : State := match old with
          | some o => if inUse o.fastSet || inUse o.slowSet then s else s.updInst i (fun n => { n with stall := none })
          | none => s
        match setFor s0 (old.map (·.fastSet)) (bitsOf 12 fm) (a.fast * 65536) with
        | none => none
        | some (k, s1) =>
          -- the slow-tier set is chosen while the fast-tier set holds its place
          match setFor (s1.updInst i (fun n => { n with stall := some { st0 with fastSet := k, slowSet := (old.map (·.slowSet)).getD k } })) (old.map (·.slowSet)) (slowParts sm) (a.slow * 65536) with
          | none => none
          | some (m, s2) => some ({ st0 with fastSet := k, slowSet := m }, s2)
    | _, _ => none

/-- RESULT of CREATE and RESIZE. -/
def Stall.ranges (st : Stall) : Nat := st.syncBase + st.flowBase <<< 14

/-- Cores of a group list. -/
def coresOf (gs : List Nat) : List Nat := gs.flatMap (fun g => (List.range 64).map (fun k => g * 64 + k))

/-- CREATE: a stall for an instance under a new generation (R196, R363). -/
def createStall (i : Nat) (e : Entry) (s : State) : State :=
  let o := eObj e
  let a := askOf e
  if (s.stall o).isSome || !s.fnExists o || s.sys.testState then refuseCmd i e St.refusedState s
  else match planStall s o a with
    | none => refuseCmd i e St.refusedFit s
    | some (st, s1) =>
      let s2 := raiseOrWait o (clearCores st.cores (dropObjects st s1))
      answerCmd i e St.done st.ranges (followHeat o (s2.updInst o (fun n => { n with stall := some st })))

def execInstanceCreate (fn : FnId) (e : Entry) (s : State) : Host.Outcome State Fault Refusal :=
  let i := fn.toNat
  .next (runCmd i e { fields := askFields, pf := true, bad := decide (eObj e ≥ 64) || (askOf e).groups == 0, busy := s.instBusy (eObj e) } (createStall i e) s)

/-- A bubble slot of the tables of an instance stays longer than 2 × T_susp (R218). -/
def suspendFits (s : State) (i : Nat) (st : Stall) : Bool :=
  let slots := (match (s.inst i).almanac with | some t => t.slots | none => []) ++ (match (s.inst i).nextAlmanac with | some t => t.slots | none => [])
  slots.all (fun sl => !sl.bubble || outlasts s st sl.length)

/-- Move the pages of an instance from one set to another (R163, R451); nothing where one finds no room. -/
def moveSet (i old new : Nat) : List (Nat × Pte) → State → Option State
  | [], s => some s
  | (k, e) :: ps, s =>
    if !(e.valid && e.home != .store && e.set == old && !e.base && e.inst == i) then moveSet i old new ps s
    else match freeFrame s new e.frames (if e.big && !e.packed then 32 else 1) with
      | none => none
      | some f =>
        let e' := { e with set := new, frame := f }
        moveSet i old new ps (zeroPage e e.frames ((copyLines i k e e' (keyAddr k / 128) [] s).setPte k e'))

/-- Residents beyond a smaller share or quota go back to their homes. -/
def trimResidents (i : Nat) (st : Stall) (s : State) : State :=
  forEach (fun (a : Adapter) s =>
    match a.slot with
    | some k => if k ≥ st.hot || decide (s.fixedUnits i + s.adapterUnits i > st.fast) then evict i a.id s else s
    | none => s) (s.inst i).adapters s

/-- The request changes nothing of a stall but its groups (R341). -/
def sameButGroups (s : State) (st : Stall) (a : Ask) : Bool :=
  a.syncs == st.syncCount && a.flows == st.flows && a.fast == st.fast && a.slow == st.slow && a.cat == st.cat && a.hot == st.hot
  && (a.fastMask == st.fastMask || (a.fastMask == 0 && st.fastMask == ({ a with groups := st.groups } : Ask).fastOf s))
  && (a.slowMask == st.slowMask || (a.slowMask == 0 && st.slowMask == ({ a with groups := st.groups } : Ask).slowOf s))

/-- The request replaces groups that left service by as many free ones, and nothing else (R214, R341). -/
def onlyReplaces (s : State) (st : Stall) (a : Ask) : Bool :=
  let gone := st.groupList.filter (fun g => !a.groups.getLsbD g)
  let new := (bitsOf 64 a.groups.toNat).filter (fun g => !st.groups.getLsbD g)
  sameButGroups s st a && gone.all (fun g => (s.group g).outOfService) && gone.length == new.length && new.all (groupFree s)

def tdiHolds (n : Inst) : Bool := n.tdi == .locked || n.tdi == .run

/-- The new groups under a loaded image: the image is relocated anew from what was read (log entry 28). -/
def swapGroups (relocate : Stall → Image → State → Image) (o : Nat) (st : Stall) (a : Ask) (s : State) : State :=
  let st' := { st with groups := a.groups }
  let fresh := (bitsOf 64 a.groups.toNat).filter (fun g => !st.groups.getLsbD g)
  let s1 := clearCores (coresOf fresh) (s.updInst o (fun n => { n with stall := some st' }))
  let s2 := s1.updInst o (fun n => { n with image := n.image.map (fun im => relocate st' im s1) })
  followHeat o (writeArea o s2)

/-- SHARES: set weights, or back to the default (R159). -/
def sharesStall (i : Nat) (e : Entry) (bs : Bytes) (s : State) : State :=
  let o := eObj e
  let shares := (List.range 30).map (fun k => num bs (4 * k) 4)
  if num bs 120 8 != 0 || shares.any (fun v => decide (v > 65536) && v != 0xFFFFFFFF) then refuseCmd i e St.badCommand s
  else match s.stall o with
    | none => refuseCmd i e St.refusedState s
    | some st =>
      let st' := { st with weights := (List.range 30).foldl (fun t k => Tbl.set t k (if shares.getD k 0 = 0xFFFFFFFF then none else some (shares.getD k 0))) st.weights }
      if tdiHolds (s.inst o) then refuseCmd i e St.refusedState s
      else if !weightsFit s o st' || !membersOk s st' then refuseCmd i e St.refusedFit s
      else if !suspendFits s o st' || !(match (s.inst o).image with | some im => s.imageStreams o st' im | none => true) then refuseCmd i e St.refusedState s
      else answerCmd i e St.done 0 (s.updInst o (fun n => { n with stall := some st' }))

def execInstanceShares (fn : FnId) (e : Entry) (buf : Buf) (s : State) : Host.Outcome State Fault Refusal :=
  let i := fn.toNat
  .next (runCmd i e { fields := objBits ++ buf1, pf := true, bad := decide (eObj e ≥ 64) || eBytes e != 128, busy := s.instBusy (eObj e) } (fun s =>
    if (s.stall (eObj e)).isNone then refuseCmd i e St.refusedState s else withBuf i e 128 buf (sharesStall i e) s) s)

/-- DESTROY: Table 14-7; instance 0 is never removed (R391). -/
def execInstanceDestroy (fn : FnId) (e : Entry) (s : State) : Host.Outcome State Fault Refusal :=
  let i := fn.toNat
  let o := eObj e
  .next (runCmd i e { fields := objBits, pf := true, bad := decide (o ≥ 64), missing := decide (o < 64) && !s.fnExists o, busy := s.instBusy o } (fun s =>
    if o = 0 then refuseCmd i e St.refusedState s
    else (removeInst o (some (eTag e)) false s).updInst o (fun n => { n with tdi := if tdiHolds n then .error else n.tdi })) s)

/-- QUERY: the ranges of a stall (Table 13-8). -/
def queryResult (s : State) (o : Nat) : Nat :=
  match s.stall o with
  | none => 0
  | some st =>
    let ps := partsOf s st.fastSet
    st.groups.toNat + st.syncBase <<< 64 + st.syncCount <<< 78 + st.flowBase <<< 92 + 1 <<< 112
      + (if ps.length = 1 then 1 <<< 113 + ps.headD 0 <<< 114 else 0)

def execInstanceQuery (fn : FnId) (e : Entry) (s : State) : Host.Outcome State Fault Refusal :=
  let i := fn.toNat
  let o := eObj e
  .next (runCmd i e { fields := objBits, frozen := true, foreign := i != 0 && o != i, missing := decide (o ≥ 64) || !s.fnExists o, busy := i == 0 && s.instBusy o }
    (fun s => answerCmd i e St.done (queryResult s o) s) s)

/-! ## TELEMETRY (Table 13-13, R347, R348) -/

/-- Whether a function may see an instance's counters (R347). -/
def hiddenFrom (s : State) (i o : Nat) : Bool := o != i && (i != 0 || decide (o ≥ 64) || !(s.inst o).profile)

def telemetryRules (s : State) (i : Nat) (e : Entry) : Rules := { fields := objBits ++ buf1, frozen := true, foreign := hiddenFrom s i (eObj e) }

/-- Table 3-2. -/
def coreRecord (c : Core) : Bytes := leBytes 8 c.steps.toNat ++ leBytes 8 c.rows.toNat ++ leBytes 8 c.waitSteps.toNat ++ leBytes 8 c.gapSteps.toNat

/-- Table 8-7. -/
def groupRecord (s : State) (g : Nat) : Bytes :=
  let x := s.group g
  leBytes 4 (x.rate.toNat + x.low.toNat <<< 16) ++ leBytes 4 (x.mstate.toNat + (x.vreqMv g) <<< 16)
    ++ leBytes 4 (x.raises.toNat + x.faults.toNat <<< 16) ++ leBytes 4 (guardRate + floorRate <<< 16)

def execTelemetryCores (fn : FnId) (e : Entry) (s : State) : Host.Outcome State Fault Refusal :=
  let i := fn.toNat
  .next (runCmd i e (telemetryRules s i e) (fun s =>
    let cs := match s.stall (eObj e) with | some st => st.cores | none => []
    intoBuf i e (cs.flatMap (fun c => coreRecord (s.core c))) cs.length s) s)

def execTelemetryGroups (fn : FnId) (e : Entry) (s : State) : Host.Outcome State Fault Refusal :=
  let i := fn.toNat
  .next (runCmd i e (telemetryRules s i e) (fun s =>
    let gs := match s.stall (eObj e) with | some st => st.groupList | none => []
    intoBuf i e (gs.flatMap (groupRecord s)) gs.length s) s)

/-- CLIPS: the pairs of the image's counter map, in its order, committed counts only (R57). -/
def execTelemetryClips (fn : FnId) (e : Entry) (s : State) : Host.Outcome State Fault Refusal :=
  let i := fn.toNat
  .next (runCmd i e (telemetryRules s i e) (fun s =>
    let n := s.inst (eObj e)
    let cs := match n.image with | some im => im.counters | none => []
    intoBuf i e (cs.flatMap (fun c => let p := Tbl.get (0, 0) n.clips c.cnt; leBytes 8 p.1 ++ leBytes 8 p.2)) cs.length s) s)

/-- ENERGY: what the reference run of the group measured (R37, R348; log entry 10). -/
def execTelemetryEnergy (fn : FnId) (e : Entry) (eArray eFull : BitVec 32) (mv tenths : BitVec 16) (s : State) : Host.Outcome State Fault Refusal :=
  let i := fn.toNat
  .next (runCmd i e { fields := [(357, 352)], pf := true, frozen := true } (fun s =>
    if (s.ownerOf (fld e 357 352)).isSome then refuseCmd i e St.refusedState s
    else answerCmd i e St.done (eArray.toNat + eFull.toNat <<< 32 + mv.toNat <<< 64 + tenths.toNat <<< 80) s) s)

end Sys2Proof.Machine
end

