-- ==== Sys2Proof/Machine/StepCmds.lean ====
section
/-! DEFINITION. ALMANAC, STEP, SYNC and EXPORT: the meanings of their commands (08_almanac R199 to R202, R210, R225, R226; 09_fine_tuning R251 to R254; 13_command_set R336 to R339, R344, R345). -/

namespace Sys2Proof.Machine

/-! ## ALMANAC (Tables 8-2, 8-3, 13-12) -/

def slotOf (w : Nat) : Slot := { offset := nfld w 31 0, length := nfld w 63 32, bubble := nbit w 64, program := nfld w 79 72, bound := nfld w 127 96 }

/-- One slot's own fields (Table 8-3), with the LENGTH of the slot that follows it. -/
def slotOk (w next : Nat) : Bool :=
  let sl := slotOf w
  w &&& (maskOf 71 65 + maskOf 95 80) == 0 && decide (sl.length ≥ 10000)
  && (if sl.bubble then sl.program == 0 && sl.bound == 0
      else sl.program != 0 && decide (sl.length + 2000 ≤ sl.bound) && decide (sl.bound ≤ sl.length + next))

/-- The slots tile the cycle (R200). -/
def tiles (cycle : Nat) : List Slot → Nat → Bool
  | [], at_ => at_ == cycle
  | sl :: r, at_ => sl.offset == at_ && tiles cycle r (at_ + sl.length)

/-- A table whose layout holds (R199, R200 check 1). -/
def parseTable (bs : Bytes) : Option Almanac :=
  let h := num bs 0 16
  let n := nfld h 38 32
  let ws := (List.range n).map (fun k => num bs (16 + 16 * k) 16)
  let slots := ws.map slotOf
  let cycle := nfld h 31 0
  let ok : Bool := bs.length == 16 + 16 * n && decide (1 ≤ n) && decide (n ≤ 64) && h &&& maskOf 63 39 == 0
    && decide (250000 ≤ cycle) && decide (cycle ≤ 64000000) && tiles cycle slots 0
    && (List.range n).all (fun k => slotOk (ws.getD k 0) (slots.getD ((k + 1) % n) { offset := 0, length := 0, bubble := false, program := 0, bound := 0 }).length)
  if ok then some { cycle := cycle, start := nfld h 127 64, slots := slots, tag := none } else none

/-- Some SFL port is UP. -/
def someSflUp (s : State) : Bool := s.ports.any (fun p => p.2.mode == .sfl && p.2.st == .up)

/-- A device that must align before it takes a table (R427). -/
def unaligned (s : State) : Bool := someSflUp s && s.sys.devId != 0x3FFF && timeRoot s != s.sys.devId.toNat && !s.sys.aligned

/-- A slot of a table names a program of the other class, or none of the image's (R200 check 2). -/
def wrongClass (im : Image) (t : Almanac) : Bool :=
  t.slots.any (fun sl => !sl.bubble && (match im.program sl.program with | some p => p.cls | none => true))

/-- SET: the checks of R200 in their order, then the wait of R202. -/
def setAlmanac (i : Nat) (e : Entry) (bs : Bytes) (s : State) : State :=
  match parseTable bs, s.stall i with
  | some t, some st =>
    match (s.inst i).image with
    | none => refuseCmd i e St.refusedState s
    | some im =>
      if wrongClass im t then refuseCmd i e St.badCommand s
      else if t.slots.any (fun sl => sl.bubble && !outlasts s st sl.length) then refuseCmd i e St.refusedFit s
      else if unaligned s then refuseCmd i e St.refusedState s
      else
        let start := if t.start = 0 then (s.now.toNat / t.cycle + 1) * t.cycle else t.start
        s.updInst i (fun n => { n with nextAlmanac := some { t with start := start, tag := some (eTag e) } })
  | _, _ => refuseCmd i e St.badCommand s

def execAlmanacSet (fn : FnId) (e : Entry) (table : Buf) (s : State) : Host.Outcome State Fault Refusal :=
  let i := fn.toNat
  let n := eBytes e
  .next (runCmd i e { fields := buf1, stall := true, bad := decide (n < 32) || decide (n > 1040), busy := (s.inst i).nextAlmanac.isSome }
    (withBuf i e n table (setAlmanac i e)) s)

def execAlmanacQuery (fn : FnId) (e : Entry) (s : State) : Host.Outcome State Fault Refusal :=
  let i := fn.toNat
  .next (runCmd i e { fields := [], stall := true } (fun s =>
    answerCmd i e St.done (match (s.inst i).almanac with | some t => t.start + t.cycle <<< 64 + t.slots.length <<< 96 | none => 0) s) s)

/-! ## STEP RUN (Tables 13-5, 13-6) -/

def stepFields : List (Nat × Nat) :=
  objBits ++ buf1 ++ buf2 ++ [(359, 352), (361, 360), (362, 362), (363, 363), (415, 384), (479, 416), (511, 480), (525, 512), (575, 544), (639, 576), (703, 640), (735, 704)]

/-- The entry as a step that has not read its lists. -/
def stepOfEntry (e : Entry) : Step :=
  { tag := eTag e, kind := fld e 361 360, program := fld e 359 352, job := eObj e, inFabric := bit e 363, inAddr := eAddr e, outAddr := eAddr2 e,
    normAddr := fld e 703 640, inSync := fld e 525 512, inThresh := fld e 575 544, rows := fld e 415 384, runs := [], sort := bit e 362, lr := 0, gmul := 0, eTs := [] }

def listCount (e : Entry) : Nat := fld e 511 480
def listBytes (e : Entry) : Nat := (if bit e 362 then 4 else 8) * listCount e

/-- The entry breaks Table 13-5, R337 or R338, as far as the image tells; nothing of it where no image is loaded. -/
def stepBad (s : State) (i : Nat) (e : Entry) : Bool :=
  let p := stepOfEntry e
  p.kind == 3 || p.rows == 0 || decide (p.rows > 1048576)
  || fld e 479 416 % 64 != 0 || fld e 639 576 % 64 != 0
  || (if p.sort then listCount e != p.rows else listCount e == 0 || decide (listCount e > p.rows))
  || (p.kind != 1 && (eObj e != 0 || fld e 639 576 != 0 || p.normAddr != 0 || fld e 735 704 != 0))
  || (p.inFabric && (p.inAddr != 0 || eBytes e != 0 || p.inThresh == 0 || !s.usableObj i p.inSync (p.kind != 0) 0))
  || (!p.inFabric && (p.inSync != 0 || p.inThresh != 0))
  || (match (s.inst i).image with
      | none => false
      | some im => match im.program p.program with
        | none => true
        | some pr => pr.kind != p.kind || eBytes2 e != p.rows * pr.outRow || (!p.inFabric && (pr.inRegion == 0 || eBytes e != p.rows * pr.inRow)))
  || (p.kind == 1 && (s.jobOf i p.job).isNone && (s.inst i).image.isSome)

/-- The adapter list as runs in host order (R337). -/
def parseRuns (sort : Bool) (bs : Bytes) : Nat → Nat → List (Nat × Nat)
  | 0, _ => []
  | n + 1, k => (if sort then (num bs (4 * k) 4, 1) else (num bs (8 * k) 4, num bs (8 * k + 4) 4)) :: parseRuns sort bs n (k + 1)

/-- An id that names nothing of this instance (R333). -/
def idMissing (s : State) (i id : Nat) : Bool := id != 0xFFFFFFFF && (ownerBits id != i || id % 2 ^ 26 == 2 ^ 26 - 1 || (s.adapterOf i id).isNone)

/-- The list breaks R337 or R99. -/
def runsBad (p : Step) (runs : List (Nat × Nat)) : Bool :=
  !p.sort && (runs.any (fun r => r.2 == 0) || (runs.map (·.2)).foldl (· + ·) 0 != p.rows
    || (runs.filter (fun r => r.1 != 0xFFFFFFFF)).any (fun r => decide ((runs.filter (fun q => q.1 == r.1)).length > 1)))

/-- Pages the step's adapters need together (R453). -/
def stepUnits (s : State) (i : Nat) (p : Step) : Nat := ((p.adapters.filterMap (fun id => s.adapterOf i id)).map Adapter.pages).foldl (· + ·) 0

/-- The admission refusals that come within the fixed bound (R97, R210, R296, R352, R453, R214). -/
def stepRefusal (s : State) (i : Nat) (st : Stall) (pr : Program) (p : Step) : Option Nat :=
  let n := s.inst i
  if n.freezing.isSome then some St.refusedState
  else if p.rows > pr.maxRows then some St.refusedFit
  else if p.adapters.length > 1024 then some St.refusedFit
  else if p.adapters.length > st.hot then some St.refusedQuota
  else if s.fixedUnits i + stepUnits s i p > st.fast then some St.refusedQuota
  else if s.stallFaulted st then some St.refusedState
  else if p.kind != 0 then none
  else match (match n.nextAlmanac with | some t => some t | none => n.almanac) with
    | none => some St.refusedState
    | some t =>
      if !(t.slots.any (fun sl => !sl.bubble && sl.program == p.program)) then some St.refusedState
      else if !s.fitsTable i p t then some St.refusedFit
      else none

/-- The step joins the instance's ring order; a step whose adapters are not all resident is PARKED (R116). -/
def enterStep (i : Nat) (p : Step) (s : State) : State :=
  let s0 := forEach (fun id s => s.updAdapter i id (fun a => { a with early := false })) p.adapters s
  let s1 := s0.updInst i (fun n => { n with steps := n.steps ++ [p] })
  if s1.allResident i p then s1 else park i p.tag s1

/-- e_t of every tensor: from the parameter block where STEPSET is 1, else the table's (R337). -/
def stepEts (par : Bytes) : List Tensor → Nat → List Int
  | [], _ => []
  | t :: ts, k => if t.stepSet then signed 8 (num par (8 + k) 1) :: stepEts par ts (k + 1) else t.eT :: stepEts par ts k

/-- The lists are here: ownership, then their layout, then the refusals of admission. -/
def submitStep (i : Nat) (e : Entry) (p0 : Step) (bs par : Bytes) (s : State) : State :=
  let runs := parseRuns p0.sort bs (listCount e) 0
  let ets := match s.jobOf i p0.job with | some j => if p0.kind = 1 then stepEts par j.tensors 0 else [] | none => []
  let p := { p0 with runs := runs, lr := BitVec.ofNat 32 (num par 0 4), gmul := BitVec.ofNat 32 (num par 4 4), eTs := ets }
  if runs.any (fun r => idMissing s i r.1) then notHere i e s
  else if runsBad p runs then refuseCmd i e St.badCommand s
  else match s.stall i, s.progOf i p.program with
    | some st, some pr =>
      match stepRefusal s i st pr p with
      | some status => refuseCmd i e status s
      | none => enterStep i p s
    | _, _ => refuseCmd i e St.refusedState s

/-- Bytes of the parameter block of a fine-tuning step. -/
def paramBytes (s : State) (i : Nat) (p : Step) : Nat :=
  if p.kind != 1 then 0 else match s.jobOf i p.job with | some j => 8 + (j.tensors.filter (·.stepSet)).length | none => 0

/-- RUN. A job that is LOST refuses its steps (R296); a norm buffer too short is REFUSED_FIT (R332). -/
def execStepRun (fn : FnId) (e : Entry) (list param : Buf) (s : State) : Host.Outcome State Fault Refusal :=
  let i := fn.toNat
  .next (runCmd i e { fields := stepFields, stall := true, bad := stepBad s i e } (fun s =>
    let p := stepOfEntry e
    let job : Option Job := if p.kind = 1 then s.jobOf i p.job else none
    let lost : Bool := match job with | some j => j.st == .jLost | none => false
    let short : Bool := match job with | some j => decide (fld e 735 704 < 64 * (layerKeys j.tensors).length) | none => false
    if (s.inst i).image.isNone then refuseCmd i e St.refusedState s
    else if lost then refuseCmd i e St.refusedState s
    else if short then refuseCmd i e St.refusedFit s
    else withBuf i e (listBytes e) list (fun bs s =>
      if paramBytes s i p = 0 then submitStep i e p bs [] s
      else withBuf i e (paramBytes s i p) param (submitStep i e p bs) s) s) s)

/-- CANCEL: a step that is neither accepted nor begun ends with ABORTED_HOST (R339). -/
def execStepCancel (fn : FnId) (e : Entry) (s : State) : Host.Outcome State Fault Refusal :=
  let i := fn.toNat
  .next (runCmd i e { fields := objBits, stall := true } (fun s =>
    match s.stepOf i (eObj e) with
    | some p =>
      if p.waits then answerCmd i e St.done 1 (startFetches i (endStep i p.tag St.abortedHost 0 s)) else answerCmd i e St.done 0 s
    | none => answerCmd i e St.done 0 s) s)

/-! ## SYNC -/

/-- The record of Table 8-9 of an object of an instance's range. -/
def objRecord (s : State) (i o : Nat) : Nat :=
  let x := s.obj o
  if x.kind = 3 then 3 + i <<< 8 + (s.inst i).gen.toNat <<< 96
  else x.kind.toNat + b2n x.cls <<< 2 + x.inst.toNat <<< 8 + x.phase.toNat <<< 16 + x.count.toNat <<< 32 + x.members.toNat <<< 64 + x.gen.toNat <<< 96

def syncRules (s : State) (i : Nat) (e : Entry) : Rules := { fields := objBits, stall := true, foreign := !s.ownsObj i (eObj e) }

def execSyncRead (fn : FnId) (e : Entry) (s : State) : Host.Outcome State Fault Refusal :=
  let i := fn.toNat
  .next (runCmd i e (syncRules s i e) (fun s => answerCmd i e St.done (objRecord s i (eObj e)) s) s)

/-- SIGNAL acts by the object's kind (R222 to R226); VALUE is as in the SIGNAL descriptor (log entry 29). -/
def execSyncSignal (fn : FnId) (e : Entry) (s : State) : Host.Outcome State Fault Refusal :=
  let i := fn.toNat
  let o := eObj e
  let kind := fld e 353 352
  let v := fld e 415 384
  .next (runCmd i e { fields := objBits ++ [(353, 352), (415, 384)], stall := true, foreign := !s.ownsObj i o
                      bad := kind == 3 || (kind == 0) != (v != 0) || (s.obj o).kind.toNat != kind }
    (fun s => answerCmd i e St.done 0 (signalKind i o kind v s).1) s)

/-- RESET: back to the declared initial state (R225). -/
def execSyncReset (fn : FnId) (e : Entry) (s : State) : Host.Outcome State Fault Refusal :=
  let i := fn.toNat
  .next (runCmd i e (syncRules s i e) (fun s => answerCmd i e St.done 0 (s.updObj (eObj e) SyncObj.renew)) s)

/-! ## EXPORT (R251, R252, R254, R345) -/

/-- An export's SET once its buffers are known. -/
def startExport (i : Nat) (e : Entry) (handle : Bytes) (s : State) : State :=
  let o := eObj e
  let spec : ExportSpec := { tag := eTag e, mode := fld e 353 352, storage := bit e 354, addr := eAddr e, handle := handle, slots := fld e 367 360, slotBytes := fld e 415 384, notify := eAddr2 e }
  match s.jobOf i o with
  | none => s
  | some j =>
    match j.exp with
    | none =>
      if spec.mode = 0 then answerCmd i e St.done 0 s
      else s.updJob i o (fun j => { j with exp := some { spec := spec, acked := j.committed, queue := [], delivered := j.committed, stopped := false, next := none } })
    | some x =>
      -- a SET that waits to replace is itself replaced, and completes
      let s1 := match x.next with | some n => finish i n.tag St.done 0 s | none => s
      let s2 := s1.updJob i o (fun j => { j with exp := some { x with next := some spec } })
      let writing := s2.rdmaOpen i (.recordSet o) || (match x.queue with | (c, _) :: _ => x.delivered == c && !x.stopped | [] => false)
      if writing then s2
      else match s2.jobStep i o with
        | some p => (match p.at_ with
          | .committing true => completeCommit i o (exportPump i o (replaceExport i o s2))
          | _ => exportPump i o (replaceExport i o s2))
        | none => exportPump i o (replaceExport i o s2)

/-- SET: MODE 0 ends the export; a storage target needs the seal secret and an open queue pair (R334, R377). -/
def execExportSet (fn : FnId) (e : Entry) (handle : Buf) (s : State) : Host.Outcome State Fault Refusal :=
  let i := fn.toNat
  let o := eObj e
  let mode := fld e 353 352
  let storage := bit e 354
  .next (runCmd i e { fields := objBits ++ buf1 ++ [(319, 256), (353, 352), (354, 354), (367, 360), (415, 384)], stall := true, missing := (s.jobOf i o).isNone
                      bad := mode == 3 || (mode != 0 && (decide (fld e 367 360 < 2) || decide (fld e 367 360 > 64) || (storage && eBytes e != 64))) }
    (fun s =>
      match s.jobOf i o with
      | none => notHere i e s
      | some j =>
        if mode = 0 then startExport i e [] s
        else if fld e 415 384 < recordSetMax mode j.tensors || (!storage && eBytes e < fld e 367 360 * fld e 415 384) then refuseCmd i e St.refusedFit s
        else if !storage then startExport i e [] s
        else if (s.inst i).sealSecret.isNone then refuseCmd i e St.refusedState s
        else withBuf i e 64 handle (fun h s => if handleOpen s i h then startExport i e h s else notHere i e s) s) s)

/-- ACK: slots up to COMMITTED are free, and the next set may go (R345). -/
def execExportAck (fn : FnId) (e : Entry) (s : State) : Host.Outcome State Fault Refusal :=
  let i := fn.toNat
  let o := eObj e
  .next (runCmd i e { fields := objBits ++ [(415, 352)], stall := true, missing := (s.jobOf i o).isNone || ((s.jobOf i o).bind (·.exp)).isNone } (fun s =>
    let s1 := s.updJob i o (fun j => { j with exp := j.exp.map (fun x => { x with acked := max x.acked (min (fld e 415 352) j.committed) }) })
    exportPump i o (answerCmd i e St.done 0 s1)) s)

/-- Row-major bytes of a rank-minor array without padding: A is rank × K, B is N × rank (R254). -/
def rowMajor (t : Tensor) (k : Nat) (bs : Bytes) : Bytes :=
  if t.kindB then (List.range t.len).flatMap (fun q => (List.range t.rank).flatMap (fun c => sub bs ((q * t.rp + c) * k) k))
  else (List.range t.rank).flatMap (fun c => (List.range t.len).flatMap (fun q => sub bs ((q * t.rp + c) * k) k))

/-- The arrays of a tensor in a shard: number, data type, bytes. -/
def shardArrays (i : Nat) (j : Job) (t : Tensor) (s : State) : List (Nat × Nat × Bytes) :=
  let b := j.committed % 2
  (0, if t.bf16M then 2 else 1, rowMajor t t.msize (stateRead i (t.master b) (t.msize * t.elems) s).1)
    :: (1, 1, rowMajor t 4 (stateRead i (t.first b) (4 * t.elems) s).1)
    :: (if t.sgd then [] else [(2, 1, rowMajor t 4 (stateRead i (t.second b) (4 * t.elems) s).1)])

/-- One index entry (Table 9-10). -/
def shardIndex (t : Tensor) (array dtype data bytes : Nat) : Bytes :=
  let d0 := if t.kindB then t.glen else t.rank
  let d1 := if t.kindB then t.rank else t.glen
  let o0 := if t.kindB then t.off else 0
  let o1 := if t.kindB then 0 else t.off
  let h0 := if t.kindB then t.len else t.rank
  let h1 := if t.kindB then t.rank else t.len
  leBytes 64 (t.adapter + t.layer <<< 32 + b2n t.kindB <<< 48 + array <<< 56 + dtype <<< 64 + d0 <<< 96 + d1 <<< 128 + o0 <<< 160 + o1 <<< 192
    + h0 <<< 224 + h1 <<< 256 + data <<< 288 + bytes <<< 352)

/-- Tensors one after another, each from a multiple of 64 bytes: index entries and data. -/
def shardBody : List (Tensor × Nat × Nat × Bytes) → Nat → Bytes × Bytes
  | [], _ => ([], [])
  | (t, a, d, bs) :: r, off =>
    let pad := cdiv bs.length 64 * 64
    let (ix, dt) := shardBody r (off + pad)
    (shardIndex t a d off bs.length ++ ix, (if r.isEmpty then bs else sub bs 0 pad) ++ dt)

/-- The K40 shard of named adapters (Tables 9-9 and 9-10). -/
def shardOf (i : Nat) (j : Job) (ids : List Nat) (shard shards : Nat) (s : State) : Bytes :=
  let all := (j.tensors.filter (fun t => ids.contains t.adapter)).flatMap (fun t => (shardArrays i j t s).map (fun x => (t, x)))
  let dataOff := 128 + 64 * all.length
  let (ix, dt) := shardBody all dataOff
  let body := ix ++ dt
  leBytes 128 (0x4B405348 + 3 <<< 32 + shard <<< 48 + shards <<< 64 + all.length <<< 96 + 128 <<< 128 + dataOff <<< 192
    + (128 + body.length) <<< 256 + (j.committed % 2 ^ 64) <<< 320 + j.id <<< 384 + crc32c body <<< 416) ++ body

/-- The snapshot is taken: it reads the current bank until its completion (R254). -/
def startShard (i : Nat) (e : Entry) (handle ids : Bytes) (s : State) : State :=
  match s.jobOf i (eObj e) with
  | none => s
  | some j =>
    let names := (chunks 4 (eBytes2 e / 4) ids).map leNat
    if names.any (fun id => !(j.tensors.any (fun t => t.adapter == id))) then notHere i e s
    else
      let bs := shardOf i j names (fld e 399 384) (fld e 415 400) s
      if !bit e 354 && bs.length > eBytes e then refuseCmd i e St.refusedFit s
      else s.updJob i j.id (fun j => { j with snapshot := some { tag := eTag e, bank := j.committed % 2, shard := bs, addr := eAddr e, storage := bit e 354, handle := handle, step := j.committed } })

/-- A shard of the instance is on its way to storage. -/
def shardOpen (s : State) (i : Nat) : Bool := s.rdmas.any (fun r => r.fn == i && (match r.use with | .shard .. => true | _ => false))

/-- SHARD: one snapshot of a job at a time (R330). -/
def execExportShard (fn : FnId) (e : Entry) (handle ids : Buf) (s : State) : Host.Outcome State Fault Refusal :=
  let i := fn.toNat
  let storage := bit e 354
  let job := s.jobOf i (eObj e)
  .next (runCmd i e { fields := objBits ++ buf1 ++ buf2 ++ [(354, 354), (399, 384), (415, 400)], stall := true, missing := job.isNone
                      busy := (job.bind (·.snapshot)).isSome || shardOpen s i
                      bad := eBytes2 e % 4 != 0 || eBytes2 e == 0 || (storage && eBytes e != 64) || decide (fld e 399 384 ≥ fld e 415 400) }
    (fun s =>
      if storage && (s.inst i).sealSecret.isNone then refuseCmd i e St.refusedState s
      else withBuf i e (eBytes2 e) ids (fun bs s =>
        if !storage then startShard i e [] bs s
        else withBuf i e 64 handle (fun h s => if handleOpen s i h then startShard i e h bs s else notHere i e s) s) s) s)

end Sys2Proof.Machine
end

