-- ==== Sys2Proof/Machine/Images.lean ====
section
/-! DEFINITION. IMAGE LOAD and UNLOAD, the opening of flows, INSTANCE RESIZE (13_command_set R341, R342, R360; 11_mapping R286 to R288; 06_memory_tiers R153, R166; 10_fabric R265, R271; 04_adapter_path R453). -/

namespace Sys2Proof.Machine

/-! ## Stages 2 and 3 of R360 -/

/-- Slow-tier units of an image; PACKED pages count the frames they may take (R173). -/
def slowUnits (im : Image) : Nat :=
  ((im.regions.filter (·.slow)).map (fun r => if r.packed then (if r.big then r.len / 32 * 33 else 2 * r.len) else r.len)).foldl (· + ·) 0

/-- Fast-tier units of pinned residents, which an image cannot take (R453). -/
def State.pinnedUnits (s : State) (i : Nat) : Nat :=
  (((s.inst i).adapters.filter (fun a => a.slot.isSome && s.pinned i a.id)).map Adapter.pages).foldl (· + ·) 0

def quotaOk (s : State) (i : Nat) (st : Stall) (im : Image) : Bool :=
  decide (imageUnits im + s.fixedUnits i + s.pinnedUnits i ≤ st.fast) && decide (slowUnits im ≤ st.slow)

/-- Cores that the tasks of one sub-step take together (R198, R353). -/
def subCores (im : Image) (p : Program) (sub : Nat) : Nat := ((im.tasksOf p sub).map (·.cores)).foldl (· + ·) 0

/-- Ticket array and batch list lie where R352 wants them. -/
def areaHolds (im : Image) (p : Program) : Bool :=
  let top := sramBytes - im.rtKeep
  let lo := if p.cls then 0 else top
  let hi := if p.cls then top else sramBytes
  decide (lo ≤ p.tktAddr) && decide (p.tktAddr + 2 * p.maxRows ≤ hi) && decide (lo ≤ p.batchAddr) && decide (p.batchAddr + 16400 ≤ hi)

/-- Privileged cuts keep to one square under a member map (R287). -/
def squaresIn (im : Image) (map : List MapEnt) : Bool :=
  im.cuts.all (fun c => c.cls == 0 || (match c.members.filterMap (fun m => (map[m]?).map (fun e => e.device / 48)) with
    | q :: qs => qs.all (· == q)
    | [] => true))

def squaresOk (im : Image) : Bool := squaresIn im im.map

/-- The capacities of stage 3 that do not depend on where pages lie (R198, R218, R271, R287, R352, R356). -/
def capacityOk (s : State) (st : Stall) (im : Image) : Bool :=
  let cores := st.cores.length
  im.withinStall st
  && im.programs.all (fun p => (List.range (im.lastSub p + 1)).all (fun k => decide (subCores im p k ≤ cores)) && areaHolds im p)
  && decide ((im.syncs.filter (fun d => !d.bubble)).length ≤ st.syncCount) && decide ((im.syncs.filter (·.bubble)).length ≤ st.syncCount)
  && (!im.programs.any (·.cls) || im.regions.any (fun r => r.spill && decide (528384 * cores ≤ r.len * 65536)))
  && (im.rtKeep == 0 || decide (im.stallMap + 2 * cores + 2 ≤ sramBytes))
  && decide (s.flowSrc.length + s.flowDst.length + im.flows.length ≤ 65536) && squaresOk im

/-- Residents go back to their homes, least recently used first, until an image or job finds its quota (R453). -/
def makeRoom (i : Nat) (st : Stall) (need : Nat) : Nat → State → State
  | 0, s => s
  | n + 1, s =>
    if s.fixedUnits i + s.adapterUnits i + need ≤ st.fast then s
    else
      let next := match evictable s i [] with
        | some a => some a
        | none => (s.inst i).adapters.find? (fun a => a.slot.isSome && a.fetching && !s.pinned i a.id)
      match next with
      | some a => makeRoom i st need n (evict i a.id { s with rdmas := s.rdmas.filter (fun r => !(r.fn == i && !r.write && r.use == .adapter a.id)) })
      | none => s

/-- Map the pages of a range that nothing maps yet. -/
def mapFree (inst set : Nat) (e0 : Pte) : Nat → Nat → State → Option State
  | 0, _, s => some s
  | n + 1, la, s =>
    if (s.pageOf inst la).2.valid then mapFree inst set e0 n (la + e0.bytes) s
    else match mapPage inst la set e0 s with
      | some s1 => mapFree inst set e0 n (la + e0.bytes) s1
      | none => none

def Region.pages (r : Region) : Nat := if r.big then r.len / 32 else r.len

def mapRegion (i : Nat) (st : Stall) (r : Region) (s : State) : Option State :=
  mapFree i (if r.slow then st.slowSet else st.fastSet)
    { home := if r.slow then .slow else .fast, big := r.big, packed := r.packed, rt := r.rt, write := true } r.pages r.base s

/-- Every region has its place (R153); nothing where a set has no room. -/
def placeImage (i : Nat) (st : Stall) (im : Image) (s : State) : Option State :=
  im.regions.foldl (fun (o : Option State) r => o.bind (mapRegion i st r)) (some (makeRoom i st (imageUnits im) (s.inst i).adapters.length s))

/-- Place an image and check R165 on the placement made (R166). -/
def placedWell (i : Nat) (st : Stall) (im : Image) (s : State) : Option State :=
  match placeImage i st im s with
  | some s1 => if s1.imageStreams i st im then some s1 else none
  | none => none

/-- Stages 1 to 3: the relocated image, or the status of the first check that fails. -/
def checkImage (s : State) (i : Nat) (st : Stall) (bs : Bytes) (map : List MapEnt) : Except Nat Image :=
  if !headerOk bs then .error St.badImage
  else if !dirOk bs then .error St.badImage
  else if !rawOk bs then .error St.badImage
  else
    let im := parseImage bs map (selfIn s.sys.devId.toNat map)
    if !im.formOk || !im.valuesFit st then .error St.badImage
    else if !quotaOk s i st im then .error St.refusedQuota
    else if !capacityOk s st im || (placedWell i st im s).isNone then .error St.refusedFit
    else .ok (relocate st (s.draw.1.extractLsb' 0 48).toNat im)

/-! ## Stages 4 and 5 -/

/-- The image's objects in their declared initial state (R357, Table 8-9). -/
def declareObjects (i : Nat) (st : Stall) (im : Image) (s : State) : State :=
  forEach (fun (d : SyncDecl) s =>
    let o : SyncObj := { kind := BitVec.ofNat 2 d.kind, cls := d.bubble, inst := BitVec.ofNat 6 i, gen := (s.inst i).gen, phase := 0, count := BitVec.ofNat 32 d.initial, members := BitVec.ofNat 32 d.members, initial := BitVec.ofNat 32 d.initial }
    { s with sync := Tbl.set s.sync (st.syncBase + d.number) o }) im.syncs (dropObjects st s)

/-- End a load that waits, with its completion (IMAGE, 0x03). -/
def endLoad (i tag status result : Nat) (s : State) : State :=
  finishCmd i 3 tag status result (s.updInst i (fun n => { n with loading := none }))

/-- Close an instance's flows: their entries, their frames that wait, their reservations, their collectives. -/
def closeFlows (i : Nat) (s : State) : State :=
  let s1 := releaseRates i (dropQueued i s)
  { s1 with flowSrc := s1.flowSrc.filter (fun f => f.2.fn != i), flowDst := s1.flowDst.filter (fun f => f.2.fn != i), colls := s1.colls.filter (fun c => c.fn != i) }

/-- A load that fails at its flows leaves none of them open and changes no state (R286). -/
def failLoad (i tag status : Nat) (s : State) : State := endLoad i tag status 0 (closeFlows i s)

/-- The image is loaded: regions, objects, clip counters from 0, stall map and real-time preload; the load completes. -/
def installImage (i tag : Nat) (st : Stall) (im : Image) (s : State) : State :=
  match placedWell i st im s with
  | none => failLoad i tag St.refusedFit s
  | some s1 =>
    let s2 := (declareObjects i st im s1).updInst i (fun n => { n with image := some im, clips := [], stepClips := [] })
    startFetches i (endLoad i tag St.done (im.programs.length + im.flows.length <<< 32) (writeArea i s2))

/-- Checks, then the wait for the peers of its flows, or the end at once. -/
def loadImage (i tag : Nat) (bs : Bytes) (map : List MapEnt) (s : State) : State :=
  match s.stall i with
  | none => endLoad i tag St.refusedState 0 s
  | some st =>
    match checkImage s i st bs map with
    | .error status => endLoad i tag status 0 s
    | .ok im =>
      let s1 := s.draw.2
      if im.flows.isEmpty then installImage i tag st im s1
      else s1.updInst i (fun n => { n with loading := some (tag, im, List.range im.flows.length, false) })

/-- IMAGE LOAD. While the base model's digest is being recomputed, it waits behind an interim QUEUED (R419). -/
def execImageLoad (fn : FnId) (e : Entry) (image map : Buf) (s : State) : Host.Outcome State Fault Refusal :=
  let i := fn.toNat
  let start := fun (m : Bytes) (s : State) =>
    if eBytes2 e != 0 && !mapOk s.sys.devId.toNat m then refuseCmd i e St.badCommand s
    else withBuf i e (eBytes e) image (fun bs s =>
      if s.sys.baseRecheck then
        interim i (eTag e) St.queued (s.updInst i (fun n => { n with loading := some (eTag e, { raw := bs, map := parseMap m }, [], true) }))
      else loadImage i (eTag e) bs (parseMap m) s) s
  .next (runCmd i e { fields := buf1 ++ buf2, stall := true, busy := s.instBusy i || s.mapWaits i } (fun s =>
    if (s.inst i).image.isSome then refuseCmd i e St.refusedState s
    else if eBytes2 e = 0 then start [] s else withBuf i e (eBytes2 e) map start s) s)

/-- Loads that waited for the base model go on (R419). -/
def resumeLoads (s : State) : State :=
  forEach (fun (p : Nat × Inst) s => match p.2.loading with
    | some (tag, im, _, true) => loadImage p.1 tag im.raw im.map s
    | _ => s) s.insts s

/-! ## Flows (R286, R288, R265) -/

def pathHops (w : Nat) : Nat := nfld w 29 28 + 1

/-- Primary and alternate path of a flow of a cut (Table 11-2): a real-time flow needs both, a bubble flow the first. -/
def pickPaths (s : State) (dev : Nat) (privileged bubble : Bool) : Option (Nat × Nat) :=
  let ws := (Tbl.get [] s.routes dev).filter (pathUp s)
  match ws.find? (fun w => decide (pathHops w ≤ if privileged then 1 else 3)) with
  | none => none
  | some p =>
    match ws.find? (fun w => w != p && decide (pathHops w ≤ if privileged then 2 else 4)) with
    | some a => some (p, a)
    | none => if bubble then some (p, p) else none

/-- A port has room for a rate: 80 GB/s and 4096 entries (R265). -/
def rateFits (s : State) (port rate : Nat) : Bool :=
  let p := s.port port
  decide ((p.reserved.map (·.2)).foldl (· + ·) 0 + rate ≤ 80000) && decide (p.reserved.length < 4096)

def reserveRate (port key rate : Nat) (s : State) : State := s.updPort port (fun p => { p with reserved := Tbl.set p.reserved key rate })

/-- How the opening of one flow ends. -/
inductive FlowOpen where
  | opened (s : State)
  | refused
  | waits
deriving DecidableEq, Repr

/-- Open one end of a flow that its peer matches. The instance and generation of its destination are the peer's to say; the row does not carry them, so they are free (log entry 5). -/
def openFlow (i : Nat) (st : Stall) (im : Image) (f : FlowDecl) (s : State) : FlowOpen :=
  let dev := memberDev im f.peer
  let gen := (s.inst i).gen.toNat
  if f.recv then
    if st.flowBase ≤ f.flow && f.flow < st.flowBase + st.flows then
      .opened { s with flowDst := Tbl.set s.flowDst f.flow { src := dev, fn := i, gen := gen, bubble := f.bubble, opened := true } }
    else .refused
  else
    let privileged := match im.cuts[f.cut]? with | some c => c.cls != 0 | none => false
    match pickPaths s dev privileged f.bubble with
    | none => .waits
    | some (p, a) =>
      if !f.bubble && !(rateFits s (pathPort p 0) f.rate && rateFits s (pathPort a 0) f.rate) then .refused
      else
        let (bits, s1) := s.draw
        let key := flowKey dev f.flow
        let src : FlowSrc := { dest := dev, flow := f.flow, fn := i, gen := gen, dstInst := (bits.extractLsb' 0 6).toNat, dstGen := (bits.extractLsb' 6 16).toNat, bubble := f.bubble, rate := f.rate, path := p, alt := a, opened := true }
        let s2 := { s1 with flowSrc := Tbl.set s1.flowSrc key src }
        .opened (if f.bubble then s2 else reserveRate (pathPort a 0) key f.rate (reserveRate (pathPort p 0) key f.rate s2))

/-- The declaration, still to match, that a peer's declaration names: the flow id, the class and, for a real-time flow, RATE agree. -/
def matching (im : Image) (left : List Nat) (flow : Nat) (cls : Bool) (rate : Nat) : Option Nat :=
  left.find? (fun k => match im.flows[k]? with
    | some f => f.flow == flow && f.bubble == cls && (f.bubble || f.rate == rate)
    | none => false)

def flowMatches (i flow : Nat) (cls : Bool) (rate : Nat) (refused : Bool) (s : State) : State :=
  match (s.inst i).loading, s.stall i with
  | some (tag, im, left, false), some st =>
    match matching im left flow cls rate with
    | none => s
    | some k =>
      if refused then failLoad i tag St.refusedFit s
      else match (im.flows[k]?).map (fun f => openFlow i st im f s) with
        | some (.opened s1) =>
          let left' := left.filter (· != k)
          if left'.isEmpty then installImage i tag st im s1
          else s1.updInst i (fun n => { n with loading := some (tag, im, left', false) })
        | some .refused => failLoad i tag St.refusedFit s
        | _ => s
  | _, _ => s

def execFlowMatch (fn : FnId) (flow : BitVec 20) (peerClass : Bool) (peerRate : BitVec 24) (refused : Bool) (s : State) : Host.Outcome State Fault Refusal :=
  .next (flowMatches fn.toNat flow.toNat peerClass peerRate.toNat refused s)

/-- 10 s have passed and the flow's peer has not matched (R286). -/
def execFlowMatchTimeout (fn : FnId) (flow : BitVec 20) (s : State) : Host.Outcome State Fault Refusal :=
  let i := fn.toNat
  .next (match (s.inst i).loading with
    | some (tag, im, left, false) =>
      if left.any (fun k => match im.flows[k]? with | some f => f.flow == flow.toNat | none => false) then failLoad i tag St.timeoutFabric s else s
    | _ => s)

/-! ## UNLOAD -/

/-- A page of an image goes, with any move, re-key or declared activity that names it. -/
def dropPage (key : Nat) (s : State) : State :=
  let e := s.pte key
  if e.training || !e.valid then s
  else unmapPage key { s with
    moves := s.moves.filter (fun m => pageKey m.inst (m.page * 65536) != key)
    rekeys := s.rekeys.filter (fun r => pageKey r.inst (r.page * 65536) != key)
    acts := s.acts.filter (fun (a : Act) => !(a.tag.isNone && a.res.contains (.page key))) }

def dropRegion (i : Nat) (r : Region) (s : State) : State :=
  forEach (fun k s => dropPage (pageKey i (r.base + k * (if r.big then 2 ^ 21 else 65536))) s) (List.range r.pages) s

/-- UNLOAD closes the image's flows and removes its almanac (R342); a table that still waited ends with ABORTED_HOST (log entry 30). -/
def unloadImage (i : Nat) (st : Stall) (im : Image) (s : State) : State :=
  let s1 := forEach (dropRegion i) im.regions (dropObjects st (closeFlows i s))
  let s2 := match (s1.inst i).nextAlmanac with
    | some t => (match t.tag with | some g => finishCmd i 6 g St.abortedHost 0 s1 | none => s1)
    | none => s1
  s2.updInst i (fun n => { n with image := none, almanac := none, nextAlmanac := none, clips := [], stepClips := [] })

def execImageUnload (fn : FnId) (e : Entry) (s : State) : Host.Outcome State Fault Refusal :=
  let i := fn.toNat
  .next (runCmd i e { fields := [], stall := true, busy := s.instBusy i } (fun s =>
    match s.stall i, (s.inst i).image with
    | some st, some im =>
      if !(s.inst i).steps.isEmpty || !(s.inst i).jobs.isEmpty then refuseCmd i e St.refusedState s
      else answerCmd i e St.done 0 (unloadImage i st im s)
    | _, _ => refuseCmd i e St.refusedState s) s)

/-! ## INSTANCE RESIZE -/

/-- The image relocated anew for a stall, from what was read (R214, R341; log entry 28). -/
def relocateAgain (st : Stall) (im : Image) (_ : State) : Image :=
  { relocate st 0 (parseImage im.raw im.map im.self) with
    flows := im.flows
    colls := ((relocate st 0 (parseImage im.raw im.map im.self)).colls.zip im.colls).map (fun c => { c.1 with listAddr := c.2.listAddr }) }

/-- Pages follow a stall to the sets of its new quotas (R163). -/
def moveSets (o : Nat) (old st : Stall) (s : State) : Option State :=
  let one := fun (a b : Nat) (s : State) => if a = b then some s else moveSet o a b s.pages s
  (one old.fastSet st.fastSet s).bind (one old.slowSet st.slowSet)

/-- RESIZE of a stall without an image. -/
def resizeStall (i : Nat) (e : Entry) (old : Stall) (s : State) : State :=
  let o := eObj e
  match planStall s o (askOf e) with
  | none => refuseCmd i e St.refusedFit s
  | some (st, s1) =>
    if !suspendFits s1 o st then refuseCmd i e St.refusedState s
    else match moveSets o old st s1 with
      | none => refuseCmd i e St.refusedFit s
      | some s2 =>
        let changed := (List.range 64).filter (fun g => old.groups.getLsbD g != st.groups.getLsbD g)
        let s3 := if old.syncBase = st.syncBase && old.syncCount = st.syncCount then s2 else dropObjects st (dropObjects old s2)
        let s4 := (clearCores (coresOf changed) s3).updInst o (fun n => { n with stall := some st })
        answerCmd i e St.done st.ranges (followHeat o (trimResidents o st s4))

/-- RESIZE. Under a loaded image it only replaces groups that left service; a locked or running TDI refuses any other change (R380). -/
def execInstanceResize (fn : FnId) (e : Entry) (s : State) : Host.Outcome State Fault Refusal :=
  let i := fn.toNat
  let o := eObj e
  .next (runCmd i e { fields := askFields, pf := true, bad := decide (o ≥ 64) || (askOf e).groups == 0, busy := s.instBusy o } (fun s =>
    match s.stall o with
    | none => refuseCmd i e St.refusedState s
    | some st =>
      if (s.inst o).image.isSome then
        if onlyReplaces s st (askOf e) then answerCmd i e St.done st.ranges (swapGroups relocateAgain o st (askOf e) s)
        else refuseCmd i e St.refusedState s
      else if tdiHolds (s.inst o) then refuseCmd i e St.refusedState s
      else resizeStall i e st s) s)

end Sys2Proof.Machine
end

