-- ==== Sys2Proof/Machine/Adapters.lean ====
section
/-! DEFINITION. The ADAPTER family: the catalogue and its data, jobs, re-shards (13_command_set R333, R334, R343; 04_adapter_path R113 to R119, R453; 09_fine_tuning R229 to R233, R238; 11_mapping R284, R287, R293 to R297). -/

namespace Sys2Proof.Machine

/-! ## The catalogue -/

/-- An open job names the adapter. -/
def State.inJob (s : State) (i id : Nat) : Bool := (s.inst i).jobs.any (fun j => j.tensors.any (fun t => t.adapter == id))

/-- A command on the adapter has not ended (R330). -/
def adapterBusy (s : State) (i id : Nat) : Bool :=
  match s.adapterOf i id with
  | some a => a.pendingWrite.isSome || a.unregTag.isSome || a.fetchTag.isSome
  | none => false

/-- What every command on an adapter states (R330, R333). -/
def adapterRules (s : State) (i : Nat) (e : Entry) (fields : List (Nat × Nat)) : Rules :=
  { fields := objBits ++ fields, stall := true, foreign := ownerBits (eObj e) != i, missing := (s.adapterOf i (eObj e)).isNone, busy := adapterBusy s i (eObj e) }

/-- Registrations on the device (R113). -/
def State.catalogue (s : State) : Nat := (s.insts.map (fun p => p.2.adapters.length)).foldl (· + ·) 0

/-- The registration that an entry asks for. -/
def regOf (s : State) (i : Nat) (e : Entry) (handle : Bytes) : Adapter :=
  let size := fld e 447 416
  { id := eObj e, rank := rankOfCode (fld e 354 352), sfmt := bit e 355, efmt := bit e 356, layers := fld e 383 368, size := size, store := bit e 384,
    handle := handle, gen := (s.inst i).gen.toNat, master := if bit e 384 then [] else List.replicate size 0 }

def enterAdapter (i : Nat) (e : Entry) (handle : Bytes) (s : State) : State :=
  answerCmd i e St.done 0 (s.updInst i (fun n => { n with adapters := n.adapters ++ [regOf s i e handle] }))

/-- REGISTER (R114, R334, R377). A slow-tier master reads as zeros until it is written (log entry 2). -/
def execAdapterRegister (fn : FnId) (e : Entry) (handle : Buf) (s : State) : Host.Outcome State Fault Refusal :=
  let i := fn.toNat
  let store := bit e 384
  .next (runCmd i e
    { fields := objBits ++ buf1 ++ [(356, 352), (383, 368), (384, 384), (447, 416)], stall := true, foreign := ownerBits (eObj e) != i, busy := adapterBusy s i (eObj e)
      bad := eObj e % 2 ^ 26 == 2 ^ 26 - 1 || decide (fld e 354 352 > 4) || (bit e 355 && bit e 356) || fld e 447 416 == 0
        || (if store then eBytes e != 64 else eAddr e != 0 || eBytes e != 0) }
    (fun s =>
      let n := s.inst i
      if (s.adapterOf i (eObj e)).isSome then refuseCmd i e St.refusedState s
      else if s.catalogue ≥ 65536 then refuseCmd i e St.refusedFit s
      else if (match n.stall with | some st => decide (n.adapters.length ≥ st.cat) | none => true) then refuseCmd i e St.refusedQuota s
      else if !store then enterAdapter i e [] s
      else if n.sealSecret.isNone then refuseCmd i e St.refusedState s
      else withBuf i e 64 handle (fun h s => if handleOpen s i h then enterAdapter i e h s else notHere i e s) s) s)

/-- WRITE: new master data, at the next boundary between steps (R119). -/
def execAdapterWrite (fn : FnId) (e : Entry) (buf : Buf) (s : State) : Host.Outcome State Fault Refusal :=
  let i := fn.toNat
  let id := eObj e
  .next (runCmd i e { adapterRules s i e buf1 with bad := match s.adapterOf i id with | some a => eBytes e != a.size | none => false } (fun s =>
    if s.inJob i id then refuseCmd i e St.refusedState s
    else withBuf i e (eBytes e) buf (fun bs s => applyWrite i id (s.updAdapter i id (fun a => { a with pendingWrite := some (eTag e, bs) }))) s) s)

/-- Ask the adapter store for data that is nowhere else, once. -/
def askStore (i id : Nat) (s : State) : State :=
  match s.adapterOf i id with
  | some a => if a.away && !s.rdmaOpen i (.adapter id) then rdmaIssue i a.handle false (.adapter id) 0 [] a.size s else s
  | none => s

/-- Keep a command in the ring until what it needs has come; it is then given again. -/
def putBack (fn : Nat) (e : Entry) (s : State) : State := s.updFn fn (fun f => { f with taken := e :: f.taken })

/-- READ: the master data. Data that only the store holds is read first (log entry 19). -/
def execAdapterRead (fn : FnId) (e : Entry) (s : State) : Host.Outcome State Fault Refusal :=
  let i := fn.toNat
  let id := eObj e
  .next (runCmd i e (adapterRules s i e buf1) (fun s =>
    match s.adapterOf i id with
    | none => notHere i e s
    | some a =>
      if eBytes e < a.size then refuseCmd i e St.refusedFit s
      else if a.poisoned then refuseCmd i e St.failedMemory s
      else if a.away then askStore i id (putBack i e s)
      else intoBuf i e a.master a.size s) s)

/-- FETCH: confirmed work behind the steps that wait now (R117). -/
def execAdapterFetch (fn : FnId) (e : Entry) (s : State) : Host.Outcome State Fault Refusal :=
  let i := fn.toNat
  let id := eObj e
  .next (runCmd i e (adapterRules s i e []) (fun s =>
    match s.adapterOf i id, s.stall i with
    | some a, some st =>
      if a.resident then answerCmd i e St.done 0 s
      else if st.hot = 0 || s.fixedUnits i + a.pages > st.fast then refuseCmd i e St.refusedQuota s
      else
        let ahead := ((s.inst i).steps.filter Step.waits).map (·.tag)
        startFetches i (s.updAdapter i id (fun a => { a with fetchTag := some (eTag e), fetchBehind := ahead }))
    | _, _ => notHere i e s) s)

/-- UNREGISTER: waiting steps that name the adapter end first (R118); then it goes once nothing pins it. -/
def execUnregister (fn : FnId) (e : Entry) (s : State) : Host.Outcome State Fault Refusal :=
  let i := fn.toNat
  let id := eObj e
  .next (runCmd i e (adapterRules s i e []) (fun s =>
    if s.inJob i id then refuseCmd i e St.refusedState s
    else
      let s1 := forEach (fun (p : Step) s => if p.waits && p.adapters.contains id then endStep i p.tag St.refusedState 0 s else s) (s.inst i).steps s
      stepBoundary i (s1.updAdapter i id (fun a => { a with unregTag := some (eTag e) }))) s)

/-! ## JOB_OPEN (Tables 9-1, 13-11) -/

/-- Table 9-1. -/
def tensorOf (v : Nat) : Tensor :=
  { adapter := nfld v 31 0, layer := nfld v 47 32, kindB := nbit v 48, rank := rankOfCode (nfld v 51 49), sgd := nfld v 53 52 == 1, bf16M := nbit v 54,
    stepSet := nbit v 55, eT := signed 8 (nfld v 63 56), glen := nfld v 95 64, off := nfld v 127 96, len := nfld v 159 128,
    b1 := BitVec.ofNat 32 (nfld v 191 160), b2 := BitVec.ofNat 32 (nfld v 223 192), eps := BitVec.ofNat 32 (nfld v 255 224),
    wd := BitVec.ofNat 32 (nfld v 287 256), lrMult := BitVec.ofNat 32 (nfld v 319 288), state := nfld v 367 320 }

def isZero32 (x : BitVec 32) : Bool := (f32 x).isZero

/-- At least zero and finite; −0 is zero. -/
def notNegative (x : BitVec 32) : Bool := (f32 x).isFin && (isZero32 x || !x.getLsbD 31)

/-- In [0, 1). -/
def belowOne (x : BitVec 32) : Bool := notNegative x && Num.lt (f32 x) (.fin false 1 0)

/-- An entry that R230, R18 and R453 allow. -/
def tensorOk (v : Nat) : Bool :=
  let t := tensorOf v
  decide (nfld v 51 49 ≤ 4) && decide (nfld v 53 52 ≤ 1) && decide (v < 2 ^ 368) && decide (t.len ≥ 1)
  && belowOne t.b1 && belowOne t.b2 && (!t.sgd || isZero32 t.b2) && (t.sgd || (notNegative t.eps && !isZero32 t.eps))
  && notNegative t.wd && notNegative t.lrMult && t.state % 128 == 0 && decide (t.state + t.total ≤ baseWindow)
  && !overlaps t.state t.total adapterWindow (baseWindow - adapterWindow)

/-- Addresses of the pages that hold states, without repeats. -/
def statePages (ts : List Tensor) : List Nat := (ts.flatMap Tensor.pageAddrs).foldl (fun l a => if l.contains a then l else l ++ [a]) []

/-- The adapter's registered value of an element, by the layout of a bank (R100; log entry 19). -/
def registered (a : Adapter) (ts : List Tensor) (t : Tensor) (c q : Nat) : Num :=
  decode a.fmt (num a.master (tensorOffset a ts t + (((c / 16) * t.len + q) * 16 + c % 16) * a.elemBytes) a.elemBytes)

/-- Bytes of a master as the job begins: the adapter's registered values, rank-minor, padding zero (R231; log entry 19). -/
def firstMaster (a : Adapter) (ts : List Tensor) (t : Tensor) : Bytes :=
  (List.range t.len).flatMap (fun q => (List.range t.rp).flatMap (fun c =>
    leBytes t.msize (if c ≥ t.rank then 0 else (convert (if t.bf16M then bf16 else fp32) (registered a ts t c q)).code)))

/-- A training state as it is opened: P1 and P2 at 1.0, everything else but the master zero (Table 9-2). -/
def openState (i : Nat) (ts : List Tensor) (t : Tensor) (s : State) : State :=
  let m := match s.adapterOf i t.adapter with | some a => firstMaster a ts t | none => []
  stateWrite i (t.master 0) m (stateWrite i t.state (leBytes 4 0x3F800000 ++ leBytes 4 0x3F800000) (stateWrite i t.state (List.replicate t.total 0) s))

/-- Map the pages that nothing maps yet, for training. -/
def mapStates (i : Nat) (st : Stall) (ts : List Tensor) (s : State) : Option State :=
  (statePages ts).foldl (fun (o : Option State) la => o.bind (mapFree i st.fastSet { home := .fast, write := true, training := true } 1 la)) (some s)

/-- Privileged cuts of the loaded image keep to one square under a job's map (R287). -/
def jobSquares (s : State) (i : Nat) (map : List MapEnt) : Bool :=
  match (s.inst i).image with | some im => squaresIn im map | none => true

/-- Open a job whose record and table are well formed. -/
def openJob (i : Nat) (e : Entry) (st : Stall) (j : Job) (s : State) : State :=
  let n := s.inst i
  let new := (statePages j.tensors).filter (fun la => !(s.pageOf i la).2.valid)
  if n.jobs.length ≥ 16 || !jobSquares s i j.map then refuseCmd i e St.refusedFit s
  else if (statePages j.tensors).any (fun la => let p := (s.pageOf i la).2; p.valid && (p.home != .fast || p.packed)) then refuseCmd i e St.refusedQuota s
  else if s.fixedUnits i + s.pinnedUnits i + new.length > st.fast then refuseCmd i e St.refusedQuota s
  else match mapStates i st j.tensors (makeRoom i st new.length n.adapters.length s) with
    | none => refuseCmd i e St.refusedQuota s
    | some s1 => answerCmd i e St.done 0 (forEach (openState i j.tensors) j.tensors (s1.updInst i (fun n => { n with jobs := n.jobs ++ [j] })))

/-- The record is here: the table's checks, then its adapters'. -/
def readTable (i : Nat) (e : Entry) (rec_ tab : Bytes) (s : State) : State :=
  let h := num rec_ 0 64
  let vs := (List.range (tab.length / 64)).map (fun k => num tab (64 * k) 64)
  let ts := vs.map tensorOf
  let j : Job := { id := nfld h 31 0, timeoutUs := nfld h 63 32, map := parseMap (rec_.drop 64), tensors := ts }
  if vs.any (fun v => !tensorOk v) then refuseCmd i e St.badCommand s
  else if ts.any (fun t => ownerBits t.adapter != i || (s.adapterOf i t.adapter).isNone) then notHere i e s
  else if (s.jobOf i j.id).isSome || ts.any (fun t => s.inJob i t.adapter) then refuseCmd i e St.refusedState s
  else if ts.any (fun t => match s.adapterOf i t.adapter with | some a => a.poisoned | none => false) then refuseCmd i e St.failedMemory s
  else if ts.any (fun t => match s.adapterOf i t.adapter with | some a => a.away | none => false) then forEach (fun (t : Tensor) s => askStore i t.adapter s) ts (putBack i e s)
  else match s.stall i with
    | some st => openJob i e st j s
    | none => refuseCmd i e St.refusedState s

/-- The job record breaks Table 13-11, R18 or R284. -/
def recordBad (dev : Nat) (e : Entry) (rec_ : Bytes) : Bool :=
  let h := num rec_ 0 64
  let m := nfld h 77 64
  !(onlyBits h [(77, 0), (95, 80)]) || decide (nfld h 63 32 < 100) || decide (nfld h 63 32 > 10000000) || m == 0 || decide (m > 12288)
  || eBytes e != 64 + 8 * m || eBytes2 e != 64 * nfld h 95 80 || !mapOk dev (rec_.drop 64)

/-- JOB_OPEN. -/
def execJobOpen (fn : FnId) (e : Entry) (record tensors : Buf) (s : State) : Host.Outcome State Fault Refusal :=
  let i := fn.toNat
  .next (runCmd i e { fields := buf1 ++ buf2, stall := true, busy := s.instBusy i || s.mapWaits i, bad := decide (eBytes e < 72) || eBytes2 e % 64 != 0 } (fun s =>
    withBuf i e (eBytes e) record (fun r s =>
      if recordBad s.sys.devId.toNat e r then refuseCmd i e St.badCommand s
      else withBuf i e (eBytes2 e) tensors (readTable i e r) s) s) s)

/-! ## JOB_CLOSE and JOB_QUERY -/

def jobRules (s : State) (i : Nat) (e : Entry) (fields : List (Nat × Nat)) : Rules :=
  { fields := objBits ++ fields, stall := true, missing := (s.jobOf i (eObj e)).isNone }

/-- A committed master into its adapter's master, in the registration's format; poisoned words go as poisoned (R238, R343). -/
def closeTensor (i : Nat) (j : Job) (t : Tensor) (s : State) : State :=
  match s.adapterOf i t.adapter with
  | none => s
  | some a =>
    let (src, bad) := stateRead i (t.master (j.committed % 2)) (t.msize * t.elems) s
    let mf := if t.bf16M then bf16 else fp32
    let new := (List.range (t.rp / 16)).flatMap (fun sl => (List.range t.len).flatMap (fun q => (List.range 16).flatMap (fun c =>
      leBytes a.elemBytes (workElem a.fmt 127 (16 * sl + c ≥ t.rank) (decode mf (num src ((q * t.rp + 16 * sl + c) * t.msize) t.msize))).code)))
    s.updAdapter i a.id (fun a => { a with master := patch a.master (tensorOffset a j.tensors t) new, poisoned := a.poisoned || bad })

/-- The adapter serves from its master again. -/
def settleAdapter (i id : Nat) (s : State) : State :=
  match s.adapterOf i id with
  | none => s
  | some a =>
    let s1 := s.updAdapter i id (fun a => { a with saved := [], history := false })
    let s2 := if a.slot.isSome && !a.fetching then stateWrite i a.waddr (homeData { a with saved := [] }) s1 else s1
    if a.store then writeBack i id s2 else s2

/-- The ids a job names, without repeats. -/
def Job.adapters (j : Job) : List Nat := j.tensors.foldl (fun l t => if l.contains t.adapter then l else l ++ [t.adapter]) []

/-- The job goes: masters copied, states freed, its export done. -/
def closeJob (i : Nat) (j : Job) (s : State) : State :=
  let s1 := forEach (settleAdapter i) j.adapters (forEach (closeTensor i j) j.tensors s)
  let s2 := freeStates i j.id j.tensors s1
  let s3 := endExport i j s2
  { s3.updInst i (fun n => { n with jobs := n.jobs.filter (fun x => x.id != j.id) }) with rdmas := s3.rdmas.filter (fun r => !(r.fn == i && r.use == .recordSet j.id)) }

def execJobClose (fn : FnId) (e : Entry) (s : State) : Host.Outcome State Fault Refusal :=
  let i := fn.toNat
  let job := s.jobOf i (eObj e)
  .next (runCmd i e { jobRules s i e [] with busy := (job.bind (·.snapshot)).isSome } (fun s =>
    match s.jobOf i (eObj e) with
    | none => notHere i e s
    | some j =>
      if (s.inst i).steps.any (fun p => p.kind == 1 && p.job == j.id) || j.reshard.isSome || j.contributed then refuseCmd i e St.refusedState s
      else answerCmd i e St.done 0 (startFetches i (closeJob i j s))) s)

def JobState.code : JobState → Nat
  | .jOpen => 0 | .jLost => 1 | .jReshard => 2

def jobWord (j : Job) : Nat :=
  j.committed % 2 ^ 64 + j.st.code <<< 64 + (match j.exp with | some x => x.spec.mode | none => 0) <<< 66 + b2n j.working <<< 68

def execJobQuery (fn : FnId) (e : Entry) (s : State) : Host.Outcome State Fault Refusal :=
  let i := fn.toNat
  .next (runCmd i e (jobRules s i e []) (fun s =>
    match s.jobOf i (eObj e) with
    | none => notHere i e s
    | some j => answerCmd i e St.done (jobWord j) s) s)

/-! ## RESHARD (R293, R294, R297; log entries 32 and 33) -/

/-- A map of a re-shard: the rules of R284, where a member of the job's present map may be left out of the new one. -/
def reshardMapOk (dev : Nat) (j : Job) (m : Bytes) : Bool :=
  mapOk dev m || (j.map.any (fun e => e.device == dev) && (match (parseMap m).head? with | some x => mapOk x.device m | none => false))

/-- A device that holds nothing of the job but what JOB_OPEN gave it: a replacement, opened with the new map. -/
def freshHolder (j : Job) (map : List MapEnt) (n : Nat) : Bool := j.map == map && j.committed == 0 && n != 0

/-- Table 11-4, the two rows that give REFUSED_STATE. -/
def reshardReady (j : Job) (map : List MapEnt) (n : Nat) (fromSets : Bool) : Bool :=
  freshHolder j map n || (match j.exp with
    | some x => x.spec.mode == 2 && decide (1 ≤ n) && decide (n ≤ x.delivered) && x.queue.all (fun q => q.1 != n)
    | none => false) && (if fromSets then decide (n ≤ j.committed) else n == j.committed)

/-- Replica groups of a map, in ascending order: the shards of the job. -/
def groupsOf (map : List MapEnt) : List Nat := (List.range 256).filter (fun g => map.any (fun e => e.group == g))

/-- The re-shard is accepted: it begins, or waits behind a step of the job. -/
def acceptReshard (i : Nat) (e : Entry) (map : List MapEnt) (handle : Bytes) (hostSet : Option Bytes) (s : State) : State :=
  let o := eObj e
  let n := fld e 415 352
  let s1 := s.updJob i o (fun j => { j with
    reshard := some { tag := eTag e, map := map, n := n, fromSets := bit e 416, waiting := true, takes := bit e 416 || freshHolder j map n, handle := handle, hostSet := hostSet }
    st := .jReshard })
  if (s1.jobStep i o).isSome then interim i (eTag e) St.queued s1 else startReshard i o s1

/-- With FROM_SETS: the handle of this device's shard, or its set in a host buffer. -/
def acceptSets (i : Nat) (e : Entry) (j : Job) (map : List MapEnt) (sets : Buf) (hostSet : Buf) (s : State) : State :=
  let shards := (groupsOf j.map).length
  let own := match (map ++ j.map).find? (fun x => x.device == s.sys.devId.toNat) with | some x => ((groupsOf j.map).findIdx? (· == x.group)).getD 0 | none => 0
  if eBytes2 e != 64 * shards && eBytes2 e != 8 * shards then refuseCmd i e St.badCommand s
  else withBuf i e (eBytes2 e) sets (fun bs s =>
    if eBytes2 e = 64 * shards then
      let h := sub bs (64 * own) 64
      if handleOpen s i h then acceptReshard i e map h none s else notHere i e s
    else match hostSet with
      | some set => acceptReshard i e map [] (some set) s
      | none => hostAbort i e s) s

def execReshard (fn : FnId) (e : Entry) (map sets hostSet : Buf) (s : State) : Host.Outcome State Fault Refusal :=
  let i := fn.toNat
  let n := fld e 415 352
  .next (runCmd i e { jobRules s i e (buf1 ++ buf2 ++ [(415, 352), (416, 416)]) with
                      busy := ((s.jobOf i (eObj e)).bind (·.reshard)).isSome, bad := eBytes e == 0 || eBytes e % 8 != 0 || (!bit e 416 && (eAddr2 e != 0 || eBytes2 e != 0)) } (fun s =>
    withBuf i e (eBytes e) map (fun m s =>
      match s.jobOf i (eObj e) with
      | none => notHere i e s
      | some j =>
        let new := parseMap m
        if !reshardMapOk s.sys.devId.toNat j m then refuseCmd i e St.badCommand s
        else if !reshardReady j new n (bit e 416) then refuseCmd i e St.refusedState s
        else if !jobSquares s i new then refuseCmd i e St.refusedFit s
        else if bit e 416 then acceptSets i e j new sets hostSet s
        else acceptReshard i e new [] none s) s) s)

end Sys2Proof.Machine
end

