-- ==== Sys2Proof/Machine/Migrate.lean ====
section
/-! DEFINITION. The MIGRATE family: freezing, the package, restoring (14_isolation R385 to R390). The byte layout of the package's header and content is not printed; log entry 34. -/

namespace Sys2Proof.Machine

/-! ## FREEZE and THAW (R386) -/

/-- Work that a freeze lets run to its end: accepted steps, a fine-tuning step, a re-shard, a snapshot, record sets. -/
def freezeWaits (n : Inst) : Bool :=
  n.steps.any (fun p => match p.at_ with | .accepted .. => true | .running .. => true | _ => false)
  || n.steps.any (fun p => p.kind == 1 && !p.waits)
  || n.jobs.any (fun j => j.reshard.isSome || j.snapshot.isSome || (match j.exp with | some x => !x.queue.isEmpty && !x.stopped | none => false))

/-- The freeze completes once the instance is quiescent: other bubble work is suspended and spilled. -/
def settleFreeze (i : Nat) (s : State) : State :=
  match (s.inst i).freezing with
  | none => s
  | some tag =>
    if freezeWaits (s.inst i) then s
    else finish 0 tag St.done 0 ((suspend i s).updInst i (fun n => { n with frozen := true, freezing := none }))

/-- Freezes in progress go on. -/
def settleFreezes (s : State) : State := forEach settleFreeze s.instNums s

def flowsOpen (s : State) (i : Nat) : Bool :=
  s.flowSrc.any (fun f => f.2.fn == i && f.2.opened) || s.flowDst.any (fun f => f.2.fn == i && f.2.opened)

/-- What every MIGRATE command states. -/
def migrateRules (s : State) (e : Entry) (fields : List (Nat × Nat)) : Rules :=
  { fields := objBits ++ fields, pf := true, frozen := true, busy := s.instBusy (eObj e), missing := decide (eObj e ≥ 64) || !s.fnExists (eObj e) }

def execFreeze (fn : FnId) (e : Entry) (s : State) : Host.Outcome State Fault Refusal :=
  let i := fn.toNat
  let o := eObj e
  .next (runCmd i e (migrateRules s e []) (fun s =>
    let n := s.inst o
    if o = 0 || n.stall.isNone || n.frozen || tdiHolds n || flowsOpen s o then refuseCmd i e St.refusedState s
    else
      let s1 := forEach (fun (p : Step) s => if p.waits then endStep o p.tag St.refusedState 0 s else s) n.steps s
      settleFreeze o (s1.updInst o (fun n => { n with freezing := some (eTag e) }))) s)

def execThaw (fn : FnId) (e : Entry) (s : State) : Host.Outcome State Fault Refusal :=
  let i := fn.toNat
  let o := eObj e
  .next (runCmd i e (migrateRules s e []) (fun s =>
    if !(s.inst o).frozen then refuseCmd i e St.refusedState s
    else answerCmd i e St.done 0 (s.updInst o (fun n => { n with frozen := false }))) s)

/-! ## The content of a package (R387) -/

/-- A part of the content: its number in R387's order, its length, its bytes. -/
def part (k : Nat) (bs : Bytes) : Bytes := leBytes 4 k ++ leBytes 8 bs.length ++ bs

def partsIn : Nat → Bytes → List (Nat × Bytes)
  | 0, _ => []
  | n + 1, bs =>
    if bs.length < 12 then []
    else
      let len := num bs 4 8
      (num bs 0 4, sub bs 12 len) :: partsIn n (bs.drop (12 + len))

def partNo (ps : List (Nat × Bytes)) (k : Nat) : Bytes := ((ps.find? (fun p => p.1 == k)).map (·.2)).getD []

def imagePart (n : Inst) : Bytes :=
  match n.image with | some im => leBytes 8 im.raw.length ++ im.raw ++ mapBytes im.map | none => []

def slotWord (sl : Slot) : Nat := sl.offset + sl.length <<< 32 + b2n sl.bubble <<< 64 + sl.program <<< 72 + sl.bound <<< 96

def almanacPart (n : Inst) : Bytes :=
  match n.almanac with | some t => leBytes 16 (t.cycle + t.slots.length <<< 32) ++ t.slots.flatMap (fun sl => leBytes 16 (slotWord sl)) | none => []

/-- A registration with its data, saved from its home (R387). -/
def adapterPart (i : Nat) (s : State) (a : Adapter) : Bytes :=
  let saved := if a.resident then (stateRead i a.waddr (2 * a.bank) s).1 else a.saved
  leBytes 64 (a.id % 2 ^ 26 + a.rank <<< 32 + b2n a.sfmt <<< 48 + b2n a.efmt <<< 49 + b2n a.store <<< 50 + b2n a.poisoned <<< 51 + b2n a.history <<< 52
    + a.layers <<< 64 + a.size <<< 80 + a.writeBack <<< 128 + a.backed <<< 192 + a.master.length <<< 256 + saved.length <<< 320)
  ++ sub a.handle 0 64 ++ a.master ++ saved

def objectPart (i : Nat) (s : State) (st : Stall) : Bytes :=
  st.objects.flatMap (fun o => leBytes 16 (objRecord s i o) ++ leBytes 4 (s.obj o).initial.toNat)

def rankBits (rank : Nat) : Nat := rankCode rank

/-- Table 9-1 of a tensor, its adapter without its owner. -/
def tensorBytes (t : Tensor) : Bytes :=
  leBytes 64 (t.adapter % 2 ^ 26 + t.layer <<< 32 + b2n t.kindB <<< 48 + rankBits t.rank <<< 49 + b2n t.sgd <<< 52 + b2n t.bf16M <<< 54 + b2n t.stepSet <<< 55
    + unsigned 8 t.eT <<< 56 + t.glen <<< 64 + t.off <<< 96 + t.len <<< 128 + t.b1.toNat <<< 160 + t.b2.toNat <<< 192 + t.eps.toNat <<< 224
    + t.wd.toNat <<< 256 + t.lrMult.toNat <<< 288 + t.state <<< 320)

def jobPart (j : Job) : Bytes :=
  leBytes 64 (j.id + j.timeoutUs <<< 32 + j.map.length <<< 64 + j.tensors.length <<< 80 + b2n j.working <<< 96 + b2n (j.st == .jLost) <<< 97 + j.lost.length <<< 112 + j.committed <<< 128)
  ++ mapBytes j.map ++ j.tensors.flatMap tensorBytes ++ j.lost.flatMap (leBytes 2)

/-- A page in the clear: its place and kind, then each line or stored block, with a mark where it is poisoned. -/
def pagePart (i : Nat) (key : Nat) (e : Pte) (s : State) : Bytes :=
  let ll0 := keyAddr key / 128
  let units := if e.packed then ((pageBlocks i key e ll0 [] s).1.map (fun b => (b.getD (List.replicate 4096 0), b.isNone)))
    else (List.range (e.bytes / 128)).map (fun k => let (bs, bad, _) := readStoredRun i key e ll0 [] 1 (128 * k) s; (bs, bad))
  leBytes 16 (key % 2 ^ 33 + b2n e.big <<< 40 + b2n (e.home == .slow) <<< 41 + b2n e.packed <<< 42 + b2n e.rt <<< 43 + b2n e.write <<< 44 + b2n e.training <<< 45 + units.length <<< 64)
  ++ units.flatMap (fun u => leBytes 1 (b2n u.2)) ++ units.flatMap (·.1)

/-- Private pages that are saved, in logical order: residency is not. -/
def savedPages (i : Nat) (s : State) (training : Bool) : List (Nat × Pte) :=
  s.pages.filter (fun p => p.1 / 2 ^ 33 == i && p.2.valid && p.2.training == training && decide (keyAddr p.1 < adapterWindow))

def spillPart (s : State) (st : Stall) : Bytes :=
  (List.range st.cores.length).flatMap (fun r => match st.coreAt r with
    | some c => (match (s.core c).spilled with | some sp => leBytes 2 r ++ Mem.read sp.mem 0 sramBytes | none => [])
    | none => [])

/-- Everything a package holds, in R387's order. -/
def packageBody (i : Nat) (st : Stall) (s : State) : Bytes :=
  let n := s.inst i
  part 1 (imagePart n) ++ part 2 (almanacPart n)
  ++ part 3 (n.adapters.flatMap (adapterPart i s)) ++ part 4 (objectPart i s st)
  ++ part 5 (leBytes 2 n.jobs.length ++ n.jobs.flatMap jobPart ++ (savedPages i s true).flatMap (fun p => pagePart i p.1 p.2 s))
  ++ part 6 (spillPart s st) ++ part 7 ((savedPages i s false).flatMap (fun p => pagePart i p.1 p.2 s))

/-- The package header: MAGIC, step, package id, base digest, groups, the stall's quotas, units. -/
def packageHead (id units : Nat) (st : Stall) (s : State) : Bytes :=
  leBytes 128 (0x4D494752 + Config.step <<< 32 + id <<< 64 + (if s.base.loaded then s.base.digest.toNat else 0) <<< 128
    + st.groupList.length <<< 512 + st.fast <<< 544 + st.slow <<< 576 + st.hot <<< 608 + st.cat <<< 640 + units <<< 672)

/-- The package: header, then units of KIND 4 of at most 4096 bytes each; the header is authenticated with each (R387, R378). -/
def makePackage (i : Nat) (st : Stall) (key : BitVec 256) (s : State) : Bytes × State :=
  let (r, s1) := s.draw
  let id := r.toNat % 2 ^ 64
  let salt := (r.toNat >>> 64) % 2 ^ 64
  let cs := chunks 4096 (cdiv (packageBody i st s).length 4096) (packageBody i st s)
  let head := packageHead id cs.length st s
  (head ++ ((List.range cs.length).map (fun k => sealUnit key head 4 id salt 0 k (cs.getD k []))).flatten, s1)

/-- The package is written to the host's buffer, or to a region; nothing is written where it does not fit. -/
def savePackage (e : Entry) (st : Stall) (key : BitVec 256) (handle : Option Bytes) (s : State) : State :=
  let o := eObj e
  let (bs, s1) := makePackage o st key s
  match handle with
  | none => intoBuf 0 e bs bs.length s1
  | some h =>
    if bs.length > hLen h then refuseCmd 0 e St.refusedFit s
    else rdmaIssue 0 h true (.package o (eTag e)) 0 bs bs.length s1

def regionFields : List (Nat × Nat) := buf1 ++ [(352, 352)]

def execSave (fn : FnId) (e : Entry) (handle : Buf) (s : State) : Host.Outcome State Fault Refusal :=
  let i := fn.toNat
  let o := eObj e
  .next (runCmd i e { migrateRules s e regionFields with bad := bit e 352 && eBytes e != 64 } (fun s =>
    match s.stall o, (s.inst o).migKey with
    | some st, some key =>
      if !(s.inst o).frozen then refuseCmd i e St.refusedState s
      else if !bit e 352 then savePackage e st key none s
      else withBuf i e 64 handle (fun h s => if handleOpen s 0 h then savePackage e st key (some h) s else notHere i e s) s
    | _, _ => refuseCmd i e St.refusedState s) s)

/-! ## RESTORE (R389, Table 14-6) -/

/-- The header's own refusals, in the order of Table 14-6 once the header can be read. -/
def restoreRefusal (s : State) (i : Nat) (bs : Bytes) : Option Nat :=
  let n := s.inst i
  let h := num bs 0 128
  match n.stall, n.migKey with
  | some st, some _ =>
    if n.image.isSome || n.frozen then some St.refusedState
    else if decide (bs.length < 128) || nfld h 31 0 != 0x4D494752 || h ≥ 2 ^ 704 then some St.badImage
    else if nfld h 511 128 != (if s.base.loaded then s.base.digest.toNat else 0) || nfld h 39 32 / 16 != Config.step / 16 then some St.refusedState
    else if nfld h 543 512 != st.groupList.length then some St.refusedFit
    else if st.fast < nfld h 575 544 || st.slow < nfld h 607 576 || st.hot < nfld h 639 608 || st.cat < nfld h 671 640 then some St.refusedQuota
    else none
  | _, _ => some St.refusedState

def setOwner (i id : Nat) : Nat := i <<< 26 + id % 2 ^ 26

/-- Registrations out of part 3. -/
def adaptersIn (i gen : Nat) : Nat → Bytes → List Adapter
  | 0, _ => []
  | k + 1, bs =>
    if bs.length < 128 then []
    else
      let h := num bs 0 64
      let ml := nfld h 319 256
      let sl := nfld h 383 320
      let a : Adapter :=
        { id := setOwner i (nfld h 25 0), rank := nfld h 47 32, sfmt := nbit h 48, efmt := nbit h 49, store := nbit h 50, poisoned := nbit h 51, history := nbit h 52,
          layers := nfld h 79 64, size := nfld h 111 80, writeBack := nfld h 191 128, backed := nfld h 255 192, handle := sub bs 64 64, gen := gen,
          master := sub bs 128 ml, saved := sub bs (128 + ml) sl }
      a :: adaptersIn i gen k (bs.drop (128 + ml + sl))

/-- Jobs out of part 5, and the bytes behind them. -/
def jobsIn (i : Nat) : Nat → Bytes → List Job × Bytes
  | 0, bs => ([], bs)
  | k + 1, bs =>
    let h := num bs 0 64
    let m := nfld h 77 64
    let t := nfld h 95 80
    let l := nfld h 127 112
    let end_ := 64 + 8 * m + 64 * t + 2 * l
    let ts := (List.range t).map (fun x => let y := tensorOf (num bs (64 + 8 * m + 64 * x) 64); { y with adapter := setOwner i y.adapter })
    let j : Job := { id := nfld h 31 0, timeoutUs := nfld h 63 32, map := parseMap (sub bs 64 (8 * m)), tensors := ts, committed := nfld h 191 128, working := nbit h 96,
                     st := if nbit h 97 then .jLost else .jOpen, lost := (List.range l).map (fun x => num bs (64 + 8 * m + 64 * t + 2 * x) 2) }
    let (js, rest) := jobsIn i k (bs.drop end_)
    (j :: js, rest)

/-- Write one page's lines as ENC lines with COUNTER 0; what was poisoned stays so (R389). -/
def putPage (i la : Nat) (units : List (Bytes × Bool)) (s : State) : State :=
  let (_, e) := s.pageOf i la
  let put := fun (k : Nat) (bs : Bytes) (bad : Bool) (s : State) => match s.lineAt e (128 * k) with
    | some (p, l) =>
      let ln := encLine e.inst e.gen e.epoch (la / 128 + k) e.map 0 bs
      s.setLine (lineKey p l) (if bad then { ln with poison := 15 } else ln)
    | none => s
  let stored := if e.packed then packPage (units.map (fun u => if u.2 then none else some u.1)) else units.flatMap (·.1)
  let bad := fun (k : Nat) => if e.packed then decide (k < 32) && (List.range 16).any (fun b => (units.getD (16 * k + b) ([], false)).2) else (units.getD k ([], false)).2
  forEach (fun k s => put k (sub stored (128 * k) 128) (bad k) s) (List.range (cdiv stored.length 128)) s

/-- Pages out of a part: each is mapped where it is not yet, then written. -/
def pagesIn (i : Nat) (st : Stall) : Nat → Bytes → Option State → Option State
  | 0, _, o => o
  | k + 1, bs, o =>
    if bs.length < 16 then o
    else
      let h := num bs 0 16
      let n := nfld h 127 64
      let unit := if nbit h 42 then 4096 else 128
      let la := nfld h 32 0 * 65536
      let units := (List.range n).map (fun x => (sub bs (16 + n + unit * x) unit, num bs (16 + x) 1 == 1))
      let e0 : Pte := { home := if nbit h 41 then .slow else .fast, big := nbit h 40, packed := nbit h 42, rt := nbit h 43, write := nbit h 44, training := nbit h 45 }
      pagesIn i st k (bs.drop (16 + n + unit * n)) ((o.bind (mapFree i (if nbit h 41 then st.slowSet else st.fastSet) e0 1 la)).map (putPage i la units))

/-- Sync records out of part 4, under the destination's range and generation. -/
def objectsIn (i : Nat) (st : Stall) (bs : Bytes) (s : State) : State :=
  forEach (fun k s =>
    let r := num bs (20 * k) 16
    if nfld r 1 0 = 3 || k ≥ st.syncCount then s
    else
      let o : SyncObj := { kind := BitVec.ofNat 2 (nfld r 1 0), cls := nbit r 2, inst := BitVec.ofNat 6 i, gen := (s.inst i).gen, phase := BitVec.ofNat 16 (nfld r 31 16), count := BitVec.ofNat 32 (nfld r 63 32), members := BitVec.ofNat 32 (nfld r 95 64), initial := BitVec.ofNat 32 (num bs (20 * k + 16) 4) }
      { s with sync := Tbl.set s.sync (st.syncBase + k) o }) (List.range (bs.length / 20)) s

/-- The spilled copies of part 6 into the spill area of the image, by relative core. -/
def spillIn (i : Nat) (im : Image) : Nat → Bytes → State → State
  | 0, _, s => s
  | k + 1, bs, s =>
    if bs.length < 2 + sramBytes then s
    else match im.regions.find? (·.spill) with
      | some r => spillIn i im k (bs.drop (2 + sramBytes)) (stateWrite i (r.base + num bs 0 2 * 528384) (sub bs 2 sramBytes) s)
      | none => s

/-- The almanac of part 2, from START 0: the next cycle's boundary (R199, R389). -/
def almanacIn (bs : Bytes) (now : Nat) : Option Almanac :=
  if bs.isEmpty then none
  else
    let cycle := max 1 (num bs 0 4)
    some { cycle := cycle, start := (now / cycle + 1) * cycle, slots := (List.range (num bs 4 4)).map (fun k => slotOf (num bs (16 + 16 * k) 16)), tag := none }

/-- Write a package's content into an instance whose generation has been raised; nothing where it does not fit its sets. -/
def writePackage (i : Nat) (st : Stall) (body : Bytes) (s : State) : Option State :=
  let ps := partsIn 8 body
  let ib := partNo ps 1
  let map := parseMap (ib.drop (8 + num ib 0 8))
  let (draw, s0) := s.draw
  let im : Option Image := if ib.isEmpty then none else
    some (relocate st (draw.extractLsb' 0 48).toNat (parseImage (sub ib 8 (num ib 0 8)) map (selfIn s.sys.devId.toNat map)))
  let jb := partNo ps 5
  let (jobs, pages) := jobsIn i (num jb 0 2) (jb.drop 2)
  let placed := match im with | some im => placeImage i st im s0 | none => some s0
  let written := pagesIn i st (partNo ps 7).length (partNo ps 7) (pagesIn i st pages.length pages placed)
  written.map (fun s =>
    let s1 := match im with
      | some im => spillIn i im st.cores.length (partNo ps 6) (declareObjects i st im s)
      | none => s
    let s2 := objectsIn i st (partNo ps 4) s1
    writeArea i (s2.updInst i (fun n => { n with image := im, adapters := adaptersIn i n.gen.toNat (partNo ps 3).length (partNo ps 3), jobs := jobs, nextAlmanac := almanacIn (partNo ps 2) s.now.toNat, frozen := true })))

/-- The package is here: its refusals, the generation raise with the secrets kept, then its content. A unit that fails after the first leaves the stall with no image. -/
def restorePackage (i tag : Nat) (bs : Bytes) (s : State) : State :=
  match restoreRefusal s i bs, s.stall i, (s.inst i).migKey with
  | none, some st, some key =>
    let head := sub bs 0 128
    let id := nfld (leNat head) 127 64
    let units := nfld (leNat head) 703 672
    let raised := fun (s : State) => raiseGen i true (queueScrub i (dropObjects st (dropKeyed i s)))
    match openUnits key head 4 id 0 1 0 (bs.drop 128 |>.take (64 + num (bs.drop 128) 36 4)) with
    | none => finish 0 tag St.badImage 0 s
    | some _ =>
      match openUnits key head 4 id 0 units 0 (bs.drop 128) with
      | none => finish 0 tag St.badImage 0 (raised s)
      | some us =>
        if us.length != units then finish 0 tag St.badImage 0 (raised s)
        else match writePackage i st us.flatten (raised s) with
          | some s1 => finish 0 tag St.done bs.length s1
          | none => finish 0 tag St.refusedQuota 0 s
  | some status, _, _ => finish 0 tag status 0 s
  | _, _, _ => finish 0 tag St.refusedState 0 s

/-- RESTORE: the package in a host buffer, or read from a region, whose handle the buffer then holds. -/
def execRestore (fn : FnId) (e : Entry) (package : Buf) (s : State) : Host.Outcome State Fault Refusal :=
  let i := fn.toNat
  let o := eObj e
  .next (runCmd i e { migrateRules s e regionFields with bad := bit e 352 && eBytes e != 64 } (fun s =>
    withBuf i e (eBytes e) package (fun bs s =>
      if !bit e 352 then restorePackage o (eTag e) bs s
      else if !handleOpen s 0 bs then notHere i e s
      else rdmaIssue 0 bs false (.package o (eTag e)) 0 [] (hLen bs) s) s) s)

end Sys2Proof.Machine
end

