-- ==== Sys2Proof/Machine/Weights.lean ====
section
/-! DEFINITION. The base model: WEIGHTS LOAD, REPAIR and DROP, and what arrives for them from the storage ports (06_memory_tiers R158, R171, R175; 13_command_set R334, R342, R361, R362). -/

namespace Sys2Proof.Machine

/-! ## The manifest (Tables 13-29, 13-30) -/

structure Extent where
  window : Nat
  pages : Nat
  packed : Bool
  handle : Nat
  remote : Nat
  stored : Nat
deriving DecidableEq, Repr

def extentEnt (v : Nat) : Extent :=
  { window := nfld v 47 0, pages := nfld v 79 64, packed := nbit v 80, handle := nfld v 95 88, remote := nfld v 159 96, stored := nfld v 191 160 }

def extentBits : List (Nat × Nat) := [(47, 0), (80, 64), (95, 88), (191, 96)]

def extentCount (m : Bytes) : Nat := num m 8 4
def extentsOf (m : Bytes) : List Extent := (List.range (extentCount m)).map (fun i => extentEnt (num m (128 + 32 * i) 32))

def manifestDigest (m : Bytes) : BitVec 384 := BitVec.ofNat 384 (num m 24 48)

def Extent.ok (x : Extent) (handles : Nat) : Bool :=
  x.window % 2 ^ 21 == 0 && decide (1 ≤ x.pages) && decide (x.window + x.pages * 2 ^ 21 ≤ baseWindow) && decide (x.handle < handles)
  && (if x.packed then decide (1 ≤ x.stored) else x.stored == 0)

/-- The manifest keeps its layout, its extents do not overlap, and each names a handle that was given (R361). -/
def manifestOk (m : Bytes) (handles : Nat) : Bool :=
  let h := num m 0 128
  let xs := extentsOf m
  nfld h 31 0 == 0x4D414E49 && nfld h 47 32 == 1 && nfld h 63 48 == 0x0096 && decide (1 ≤ extentCount m) && decide (extentCount m ≤ 1048576)
  && decide (1 ≤ nfld h 111 96) && decide (nfld h 111 96 ≤ 1024) && onlyBits h [(111, 0), (575, 128)]
  && (List.range (extentCount m)).all (fun i => onlyBits (num m (128 + 32 * i) 32) extentBits) && xs.all (fun x => x.ok handles)
  && apart (xs.map (fun x => (x.window, x.pages * 2 ^ 21))) && nfld h 191 128 == (xs.map (·.pages)).foldl (· + ·) 0

/-- Bytes of an extent in its region (R362). -/
def Extent.want (x : Extent) : Nat := if x.packed then x.stored * 65536 else x.pages * (2 ^ 21 + 2048)

/-- Bytes of an extent in device memory. -/
def Extent.space (x : Extent) : Nat := if x.packed then x.stored * 65536 else x.pages * 2 ^ 21

/-! ## Checks of what arrives (R362, R175) -/

/-- Each 4 KiB block of unpacked pages agrees with its CRC in the table that follows the data. -/
def plainOk (x : Extent) (bs : Bytes) : Bool :=
  (List.range (x.pages * 512)).all (fun b => crc32c (sub bs (4096 * b) 4096) == num bs (x.pages * 2 ^ 21 + 4 * b) 4)

/-- Frames of a stored space by its map. -/
def storedFrames (bs : Bytes) (o : Nat) : Nat :=
  max 1 (cdiv (((List.range 512).map (fun b => let e := num bs (o + 8 * b) 8; 16 * (nfld e 62 45 + nfld e 44 36))).foldl max 0) 65536)

/-- The stored spaces of an extent's pages one after another: offset and frames of each; nothing where a block fails its check or the spaces do not end with the extent. -/
def spacesOf (bs : Bytes) : Nat → Nat → Option (List (Nat × Nat))
  | 0, o => if o = bs.length then some [] else none
  | n + 1, o =>
    let fr := storedFrames bs o
    if (List.range 512).all (fun b => let e := num bs (o + 8 * b) 8
        !nbit e 63 && (unpackBlock e (sub bs (o + 16 * nfld e 62 45) (16 * nfld e 44 36))).isSome)
    then (spacesOf bs n (o + fr * 65536)).map ((o, fr) :: ·) else none

def extentOk (x : Extent) (bs : Bytes) : Bool :=
  bs.length == x.want && (if x.packed then (spacesOf bs x.pages 0).isSome else plainOk x bs)

/-! ## Placement (R158, R171; log entry 16) -/

/-- The largest free range that a list of parts shares: start and bytes in each part. -/
def largestGap (s : State) (parts : List Nat) : Nat × Nat :=
  let used := parts.flatMap (partUsed s)
  let hi := (parts.map partBytes).foldl min (partBytes 12)
  let starts := 0 :: used.map (fun u => cdiv (u.1 + u.2) 65536 * 65536)
  starts.foldl (fun (best : Nat × Nat) a =>
    if used.any (fun u => decide (u.1 ≤ a) && decide (a < u.1 + u.2)) then best
    else
      let stop := (used.filter (fun u => decide (a ≤ u.1))).foldl (fun m u => min m u.1) hi
      if stop - a > best.2 then (a, stop - a) else best) (0, 0)

/-- Frames of one extent, in manifest order: each unpacked page in the fast tier while pages remain there, else in the slow tier; a PACKED extent in one run of the slow tier. -/
def placeExtent (fast : Nat) (x : Extent) (fu sf : Nat) : List (Bool × Nat) × Nat × Nat :=
  if x.packed then ([(true, sf)], fu, sf + x.stored)
  else (List.range x.pages).foldl (fun (acc : List (Bool × Nat) × Nat × Nat) _ =>
    if acc.2.1 < fast then (acc.1 ++ [(false, 32 * acc.2.1)], acc.2.1 + 1, acc.2.2)
    else
      let f := cdiv acc.2.2 32 * 32
      (acc.1 ++ [(true, f)], acc.2.1, f + 32)) ([], fu, sf)

def placeExtents (fast : Nat) (xs : List Extent) : List (List (Bool × Nat)) × Nat × Nat :=
  xs.foldl (fun (acc : List (List (Bool × Nat)) × Nat × Nat) x =>
    let (l, fu, sf) := placeExtent fast x acc.2.1 acc.2.2
    (acc.1 ++ [l], fu, sf)) ([], 0, 0)

/-- A base set of at least `bytes` over the parts in service, in their largest free range. -/
def baseSet (s : State) (first n bytes : Nat) : Option PartSet :=
  let parts := ((List.range n).map (· + first)).filter (fun p => !s.sys.failedParts.getLsbD p)
  let (a, len) := largestGap s parts
  let unit := 512 * parts.length
  if parts.isEmpty then none
  else if cdiv bytes unit * 512 ≤ len then some { parts := parts, base := a, size := cdiv bytes unit * unit } else none

/-- Fast-tier pages that the base model may take. -/
def fastRoom (s : State) (total : Nat) : Nat :=
  let parts := (List.range 12).filter (fun p => !s.sys.failedParts.getLsbD p)
  min total ((largestGap s parts).2 / 512 * (512 * parts.length) / 2 ^ 21)

/-- The base sets of a manifest, entered; nothing where the model does not fit (R171). -/
def enterBaseSets (xs : List Extent) (s : State) : Option State :=
  let fast := fastRoom s ((xs.filter (fun x => !x.packed)).map (·.pages) |>.foldl (· + ·) 0)
  let slow := (placeExtents fast xs).2.2
  let s1 := if fast = 0 then some s else (baseSet s 0 12 (fast * 2 ^ 21)).map (fun ps =>
    let (k, s1) := addSet ps s
    { s1 with base := { s1.base with fastSet := some k } })
  s1.bind (fun s => if slow = 0 then some s else (baseSet s 12 16 (slow * 65536)).map (fun ps =>
    let (k, s1) := addSet ps s
    { s1 with base := { s1.base with slowSet := some k } }))

/-! ## LOAD -/

def handleAt (hs : Bytes) (k : Nat) : Bytes := sub hs (64 * k) 64
def handleCount (hs : Bytes) : Nat := hs.length / 64

/-- Some queue pair that the handles name is not open, or not the PF's (R334). -/
def handlesClosed (s : State) (hs : Bytes) : Bool := (List.range (handleCount hs)).any (fun k => !handleOpen s 0 (handleAt hs k))

def anyImage (s : State) : Bool := s.insts.any (fun n => n.2.image.isSome || n.2.loading.isSome)

/-- Requests of a load or repair that are still out go. -/
def dropWeightReads (s : State) : State :=
  { s with rdmas := s.rdmas.filter (fun r => match r.use with | .weights _ => false | _ => true) }

/-- A load that fails leaves no base model: its frames are zeroed and freed (R171, R342). -/
def failWeights (status : Nat) (s : State) : State :=
  match s.base.load with
  | none => s
  | some (tag, _) =>
    let s1 := dropWeightReads s
    let b := if s.base.repair then { s1.base with load := none, repair := false, arrived := [], handles := [] } else {}
    finishCmd 0 4 tag status 0 { s1 with base := b }

/-- Issue the READ of every extent. -/
def readExtents (xs : List Extent) (hs : Bytes) (s : State) : State :=
  forEach (fun i s => match xs[i]? with
    | some x => rdmaIssue 0 (handleAt hs x.handle) false (.weights i) x.remote [] x.want s
    | none => s) (List.range xs.length) s

def startWeights (e : Entry) (m hs : Bytes) (s : State) : State :=
  if m.length != 128 + 32 * extentCount m || handleCount hs != nfld (num m 0 128) 111 96 then refuseCmd 0 e St.badCommand s
  else if !manifestOk m (handleCount hs) then refuseCmd 0 e St.badImage s
  else if handlesClosed s hs then notHere 0 e s
  else match enterBaseSets (extentsOf m) s with
    | none => refuseCmd 0 e St.refusedFit s
    | some s1 =>
      readExtents (extentsOf m) hs { s1 with base := { s1.base with load := some (eTag e, m), handles := hs, arrived := [] } }

def weightsRules (s : State) (e : Entry) : Rules :=
  { fields := buf1 ++ buf2, pf := true, busy := s.base.load.isSome || s.sys.baseRecheck, bad := eBytes2 e % 64 != 0 || decide (eBytes e < 160) }

/-- LOAD. It is refused while a base model is held or an image is loaded (log entry 31). -/
def execWeightsLoad (fn : FnId) (e : Entry) (manifest handles : Buf) (s : State) : Host.Outcome State Fault Refusal :=
  let i := fn.toNat
  .next (runCmd i e (weightsRules s e) (fun s =>
    if s.base.loaded || anyImage s then refuseCmd i e St.refusedState s
    else withBuf i e (eBytes e) manifest (fun m s => withBuf i e (eBytes2 e) handles (startWeights e m) s) s) s)

/-- Bytes of a page or extent as CLEAR lines of the base model. -/
def writeClear (e : Pte) (bs : Bytes) (s : State) : State :=
  forEach (fun i s => match s.lineAt e (128 * i) with
    | some (p, l) => s.setLine (lineKey p l) { data := sub bs (128 * i) 128, st := .clear }
    | none => s) (List.range (bs.length / 128)) s

def basePte (s : State) (slow packed : Bool) (frame stored : Nat) : Pte :=
  { valid := true, big := true, home := if slow then .slow else .fast, base := true, write := false, packed := packed,
    set := ((if slow then s.base.slowSet else s.base.fastSet).getD 0), frame := frame, stored := stored }

def putBasePage (la : Nat) (e : Pte) (bs : Bytes) (s : State) : State := writeClear e bs (s.setPte (pageKey 0 la) e)

/-- The pages of an extent that has arrived. -/
def putExtent (x : Extent) (places : List (Bool × Nat)) (bs : Bytes) (s : State) : State :=
  if x.packed then
    match spacesOf bs x.pages 0, places with
    | some sp, (_, f0) :: _ =>
      forEach (fun i s => match sp[i]? with
        | some (o, fr) => putBasePage (baseWindow + x.window + i * 2 ^ 21) (basePte s true true (f0 + o / 65536) fr) (sub bs o (fr * 65536)) s
        | none => s) (List.range x.pages) s
    | _, _ => s
  else forEach (fun i s => match places[i]? with
    | some (slow, f) => putBasePage (baseWindow + x.window + i * 2 ^ 21) (basePte s slow false f 0) (sub bs (i * 2 ^ 21) (2 ^ 21)) s
    | none => s) (List.range x.pages) s

/-- SHA-384 over the manifest with DIGEST zero and the bytes of each extent as read (R362). -/
def modelDigest (m : Bytes) (xs : List Extent) (got : Tbl Bytes) : BitVec 384 :=
  Config.sha384 (sub m 0 24 ++ List.replicate 48 0 ++ m.drop 72 ++ (List.range xs.length).flatMap (fun i => Tbl.get [] got i))

/-- Every extent is here: the digest decides (R171). -/
def endWeights (tag : Nat) (m : Bytes) (s : State) : State :=
  let xs := extentsOf m
  if modelDigest m xs s.base.arrived != manifestDigest m then failWeights St.badImage s
  else
    let fast := match s.base.fastSet.bind (fun k => s.sets[k]?) with | some ps => ps.size / 2 ^ 21 | none => 0
    let places := (placeExtents fast xs).1
    let s1 := forEach (fun i s => match xs[i]? with
      | some x => putExtent x (places.getD i []) (Tbl.get [] s.base.arrived i) s
      | none => s) (List.range xs.length) s
    let b : BaseModel := { digest := manifestDigest m, loaded := true, window := true, pages := (xs.map (·.pages)).foldl (· + ·) 0, manifest := m, fastSet := s.base.fastSet, slowSet := s.base.slowSet }
    finishCmd 0 4 tag St.done ((xs.map Extent.space).foldl (· + ·) 0) { s1 with base := b }

/-! ## REPAIR -/

/-- A block of the base window reads as poisoned. -/
def baseBlockBad (s : State) (n : Nat) : Bool :=
  let la := baseWindow + n * 4096
  let (k, e) := s.pageOf 0 la
  if !e.valid then false
  else s.blockPoisoned la
    || (if e.packed then (readPacked 0 k e (pageFirstLine la e) (n % 512) [] s).1.isNone
        else (List.range 32).any (fun i => (readStored 0 k e (la % e.bytes + 128 * i) (la / 128 + i) goodFind s).1.poison != 0))

/-- Poisoned blocks of the base model. -/
def badBlocks (s : State) : List Nat :=
  ((s.pages.filter (fun p => p.2.valid && p.2.base)).flatMap (fun p => (List.range 512).map (fun b => (keyAddr p.1 - baseWindow) / 4096 + b))).filter (baseBlockBad s)

def blockPacked (s : State) (n : Nat) : Bool := (s.pageOf 0 (baseWindow + n * 4096)).2.packed

/-- What has to be read anew: each poisoned block of an unpacked page, and each PACKED page that holds one. -/
def repairItems (s : State) : List Nat :=
  (badBlocks s).foldl (fun l n => let k := if blockPacked s n then n / 512 * 512 else n; if l.contains k then l else l ++ [k]) []

/-- The extent that holds a block, and the page of the block within it. -/
def extentAt (xs : List Extent) (n : Nat) : Option (Extent × Nat) :=
  (xs.find? (fun x => decide (x.window ≤ n * 4096) && decide (n * 4096 < x.window + x.pages * 2 ^ 21))).map (fun x => (x, (n * 4096 - x.window) / 2 ^ 21))

/-- Stored frames of an extent's pages before one. -/
def framesBefore (s : State) (x : Extent) (page : Nat) : Nat :=
  ((List.range page).map (fun i => (s.pageOf 0 (baseWindow + x.window + i * 2 ^ 21)).2.frames)).foldl (· + ·) 0

/-- Read one item anew: a block and its CRC, or a PACKED page's stored space. -/
def readItem (n : Nat) (s : State) : State :=
  match extentAt (extentsOf s.base.manifest) n with
  | none => s
  | some (x, page) =>
    let h := handleAt s.base.handles x.handle
    if x.packed then
      rdmaIssue 0 h false (.weights n) (x.remote + framesBefore s x page * 65536) [] ((s.pageOf 0 (baseWindow + n * 4096)).2.frames * 65536) s
    else
      let b := n - x.window / 4096
      (rdmaIssue 0 h false (.weights n) (x.remote + 4096 * b) [] 4100 s).emit (.rdma (hPort h) (hQpn h) false s.nextReq (hRva h + x.remote + x.pages * 2 ^ 21 + 4 * b) [])

/-- Read an item again after a failed check. -/
def rereadItem (r : Rdma) (n : Nat) (s : State) : State :=
  let s1 := readItem n s
  { s1 with rdmas := s1.rdmas.map (fun q => if q.use == .weights n then { q with fetches := r.fetches + 1 } else q) }

/-- A repair whose reads have all arrived is done; RESULT counts the blocks. -/
def endRepair (s : State) : State :=
  match s.base.load with
  | some (tag, _) =>
    if s.rdmas.any (fun r => match r.use with | .weights _ => true | _ => false) then s
    else
      let n := (s.base.arrived.map (fun p => leNat p.2)).foldl (· + ·) 0
      finishCmd 0 4 tag St.done n { s with base := { s.base with load := none, repair := false, arrived := [], handles := [] } }
  | none => s

def startRepair (e : Entry) (m hs : Bytes) (s : State) : State :=
  if m.length != 128 + 32 * extentCount m || handleCount hs != nfld (num m 0 128) 111 96 then refuseCmd 0 e St.badCommand s
  else if !manifestOk m (handleCount hs) || !s.base.loaded || m != s.base.manifest then refuseCmd 0 e St.badImage s
  else if handlesClosed s hs then notHere 0 e s
  else endRepair (forEach readItem (repairItems s) { s with base := { s.base with load := some (eTag e, m), repair := true, handles := hs, arrived := [] } })

def execWeightsRepair (fn : FnId) (e : Entry) (manifest handles : Buf) (s : State) : Host.Outcome State Fault Refusal :=
  let i := fn.toNat
  .next (runCmd i e (weightsRules s e) (fun s =>
    withBuf i e (eBytes e) manifest (fun m s => withBuf i e (eBytes2 e) handles (startRepair e m) s) s) s)

/-- A reread item passes its check. -/
def itemOk (s : State) (n : Nat) (bs : Bytes) : Bool :=
  if blockPacked s n then bs.length == (s.pageOf 0 (baseWindow + n * 4096)).2.frames * 65536 && (spacesOf bs 1 0).isSome
  else bs.length == 4100 && crc32c (sub bs 0 4096) == num bs 4096 4

/-- Write an item in whole lines; its blocks are good again. -/
def putItem (n : Nat) (bs : Bytes) (s : State) : State :=
  let la := baseWindow + n * 4096
  let (_, e) := s.pageOf 0 la
  let blocks := if e.packed then (List.range 512).map (· + n) else [n]
  let count := (blocks.filter (baseBlockBad s)).length
  let s1 := if e.packed then writeClear e bs s
    else forEach (fun i s => match s.lineAt e (la % e.bytes + 128 * i) with
      | some (p, l) => s.setLine (lineKey p l) { data := sub bs (128 * i) 128, st := .clear }
      | none => s) (List.range 32) s
  { s1 with base := { s1.base with poisoned := s1.base.poisoned.filter (fun b => !blocks.contains b), arrived := Tbl.set s1.base.arrived n (leBytes 2 count) } }

/-- A READ response of a load or repair: a failed check is fetched again at most twice (R175). -/
def weightsArrive (r : Rdma) (n : Nat) (bs : Bytes) (ok : Bool) (s : State) : State :=
  match s.base.load with
  | none => s
  | some (tag, m) =>
    if s.base.repair then
      if ok && itemOk s n bs then endRepair (putItem n bs s)
      else if r.fetches < 3 then rereadItem r n s else failWeights St.failedMemory s
    else match (extentsOf m)[n]? with
      | none => s
      | some x =>
        if ok && extentOk x bs then
          let s1 := { s with base := { s.base with arrived := Tbl.set s.base.arrived n bs } }
          if s1.base.arrived.length = (extentsOf m).length then endWeights tag m s1 else s1
        else if r.fetches < 3 then refetch r s else failWeights St.failedMemory s

/-! ## DROP -/

/-- The base model goes: its pages are unmapped and zeroed, block 4 reads zero. -/
def dropBase (s : State) : State :=
  let s1 := forEach (fun p s => unmapPage p.1 s) (s.pages.filter (fun p => p.2.base)) s
  { s1 with base := {} }

def execWeightsDrop (fn : FnId) (e : Entry) (s : State) : Host.Outcome State Fault Refusal :=
  let i := fn.toNat
  .next (runCmd i e { fields := [], pf := true, busy := s.base.load.isSome || s.sys.baseRecheck } (fun s =>
    if anyImage s then refuseCmd i e St.refusedState s else answerCmd i e St.done 0 (dropBase s)) s)

end Sys2Proof.Machine
end

