-- ==== Sys2Proof/Machine/Storage.lean ====
section
/-! DEFINITION. The storage ports: requests, their answers and their failures (10_fabric R280 to R282; 06_memory_tiers R175; 14_isolation R365, R379). -/

namespace Sys2Proof.Machine

/-- A storage port whose link is up. -/
def storageUp (s : State) (port : Nat) : Bool := (s.port port).mode == .storage && (s.port port).st == .up

/-- The request of a number on a port. -/
def reqOf (s : State) (port req : Nat) (write : Bool) : Option Rdma := s.rdmas.find? (fun r => r.port == port && r.id == req && r.write == write && r.sent)

/-- A request has ended: its place on the port is free. -/
def dropReq (r : Rdma) (s : State) : State := pumpRdma r.port { s with rdmas := s.rdmas.filter (fun q => q.id != r.id) }

/-- It was issued under a generation that is no longer current (R364). -/
def stale (s : State) (r : Rdma) : Bool := r.gen != (s.inst r.fn).gen.toNat

/-! ## Failures -/

/-- What a failed request ends, with its status. A write-back to the adapter store goes out again (log entry 19). -/
def failUse (r : Rdma) (status : Nat) (s : State) : State :=
  match r.use with
  | .weights _ => failWeights status s
  | .adapter id =>
    if r.write then writeBack r.fn id s
    else match s.adapterOf r.fn id with
      | some a => if a.fetching then fetchFails r.fn id status s else s
      | none => s
  | .recordSet job => failExport r.fn job status s
  | .shard tag _ _ => finish r.fn tag status 0 s
  | .package _ tag => finish r.fn tag status 0 s
  | .recordSets job _ => contributeReshard r.fn job true s

/-- A request ends without its answer (R282). -/
def timeOut (r : Rdma) (s : State) : State :=
  let s1 := dropReq r s
  if stale s r then s1 else failUse r St.timeoutFabric (raise r.fn 3 4 (r.qpn + r.port <<< 24) s1)

/-! ## READ data -/

/-- Adapter data as the store holds it: the master, and its slot data where it was written back (log entry 19). -/
def adapterData (a : Adapter) (bs : Bytes) : Option Adapter :=
  if a.backed ≤ a.size then (if bs.length < a.size then none else some { a with master := bs.take a.size, saved := [] })
  else if bs.length < a.backed then none
  else some { a with master := bs.take a.size, saved := sub bs a.size (a.backed - a.size) }

/-- Blocks that failed their check are read again at most twice; then the object is poisoned (R175, R379). -/
def adapterArrives (r : Rdma) (id : Nat) (bs : Bytes) (ok : Bool) (s : State) : State :=
  match s.adapterOf r.fn id, (s.inst r.fn).sealSecret with
  | some a, some key =>
    match (if ok then (openBlocks key 1 (id % 2 ^ 26) a.writeBack bs).bind (adapterData a) else none) with
    | some a' =>
      let s1 := if r.fetches > 1 then raise r.fn 0 4 0 s else s
      s1.updAdapter r.fn id (fun _ => a')
    | none =>
      if r.fetches < 3 then refetch r s
      else failUse r St.failedMemory (raise r.fn 0 5 (id % 2 ^ 26) (s.updAdapter r.fn id (fun a => { a with poisoned := true })))
  | some _, none => failUse r St.failedMemory s
  | none, _ => s

/-- The FULL record set of this device's shard (R297). -/
def setArrives (r : Rdma) (job : Nat) (bs : Bytes) (ok : Bool) (s : State) : State :=
  match s.jobOf r.fn job, (s.inst r.fn).sealSecret with
  | some j, some key =>
    let d := match j.reshard with | some x => x.n | none => 0
    match (if ok then openBlocks key 2 job d bs else none) with
    | some set => takeSet r.fn job set (if r.fetches > 1 then raise r.fn 0 4 0 s else s)
    | none => if r.fetches < 3 then refetch r s else contributeReshard r.fn job true (raise r.fn 0 5 0 s)
  | some _, none => contributeReshard r.fn job true s
  | none, _ => s

/-- Data arrives for a use. -/
def readArrives (r : Rdma) (bs : Bytes) (ok : Bool) (s : State) : State :=
  match r.use with
  | .weights n => weightsArrive r n bs ok s
  | .adapter id => adapterArrives r id bs ok s
  | .recordSets job _ => setArrives r job bs ok s
  | .package inst tag => if ok then restorePackage inst tag bs s else if r.fetches < 3 then refetch r s else finish r.fn tag St.badImage 0 s
  | _ => s

/-- RDMA_READ_RESPONSE: the data of a READ. One for a request that has ended is dropped and counted; a CE mark draws a CNP. -/
def execRdmaReadResponse (port : Fin 96) (req : Nat) (data : Bytes) (checkOk ce : Bool) (s : State) : Host.Outcome State Fault Refusal :=
  .next (if !storageUp s port then s
    else
      let s0 := if ce then s.emit (.cnpSent port) else s
      match reqOf s port req false with
      | none => dropOther port s0
      | some r => if stale s r then lateDiscard r.fn 3 (dropReq r s0) else readArrives r data checkOk (dropReq r s0))

/-! ## WRITE answers -/

/-- Every packet of a WRITE is acknowledged: its data is visible (R282). -/
def writeVisible (r : Rdma) (s : State) : State :=
  match r.use with
  | .recordSet job => s.updJob r.fn job (fun j => { j with exp := j.exp.map (fun x => match x.queue with | (c, _) :: _ => { x with delivered := c } | [] => x) })
  | .shard tag len step => finish r.fn tag St.done (len + (step % 2 ^ 64) <<< 64) s
  | .package _ tag => finish r.fn tag St.done r.data.length s
  | .adapter id => dropCopy r.fn id s
  | _ => s

def execRdmaAck (port : Fin 96) (req : Nat) (s : State) : Host.Outcome State Fault Refusal :=
  .next (if !storageUp s port then s
    else match reqOf s port req true with
      | none => dropOther port s
      | some r => if stale s r then lateDiscard r.fn 3 (dropReq r s) else writeVisible r (dropReq r s))

/-- RDMA_NAK: the queue pair sends what is not acknowledged again, by PSN (go-back-N; log entry 35). -/
def execRdmaNak (port : Fin 96) (qpn : BitVec 24) (psn : BitVec 24) (s : State) : Host.Outcome State Fault Refusal :=
  let _ := psn
  .next (if storageUp s port then forEach resend (s.rdmas.filter (fun r => r.sent && r.port == port.val && r.qpn == qpn.toNat)) s else s)

/-- CNP: the port reduces the queue pair's rate; the reductions are counted (log entry 35). -/
def execCnp (port : Fin 96) (qpn : BitVec 24) (s : State) : Host.Outcome State Fault Refusal :=
  .next (if storageUp s port && s.qps.any (fun q => q.port == port.val && q.qpn == qpn.toNat) then s.updPort port (fun p => { p with cnps := p.cnps + 1 }) else s)

/-- INCOMING_REQUEST_DROP: requests and unsupported packets are dropped and counted (R280). -/
def execIncomingRequestDrop (port : Fin 96) (s : State) : Host.Outcome State Fault Refusal :=
  .next (if storageUp s port then dropOther port s else s)

/-- RDMA_ACK_TIMEOUT: at most 7 retries (Table 10-8); the next one ends the request. -/
def execRdmaAckTimeout (port : Fin 96) (req : Nat) (s : State) : Host.Outcome State Fault Refusal :=
  .next (match s.rdmas.find? (fun r => r.port == port.val && r.id == req && r.sent) with
    | none => s
    | some r =>
      if r.retries ≥ 7 then timeOut r s
      else
        let s1 : State := { s with rdmas := s.rdmas.map (fun q => if q.id == r.id then { q with retries := q.retries + 1 } else q) }
        if storageUp s port && !(s.port port).paused then resend r s1 else s1)

/-- STORAGE_NO_PROGRESS: 500 ms without progress (R282). -/
def execStorageNoProgress (port : Fin 96) (req : Nat) (s : State) : Host.Outcome State Fault Refusal :=
  .next (match s.rdmas.find? (fun r => r.port == port.val && r.id == req) with
    | none => s
    | some r => timeOut r s)

/-- PFC_FRAME: pauses or resumes the port's one priority (Table 10-8). -/
def execPfcFrame (port : Fin 96) (pause : Bool) (s : State) : Host.Outcome State Fault Refusal :=
  .next (if !storageUp s port then s
    else
      let s1 := s.updPort port (fun p => { p with paused := pause })
      if pause then s1 else pumpRdma port s1)

end Sys2Proof.Machine
end

