-- ==== Sys2Proof/Machine/MaintCmds.lean ====
section
/-! DEFINITION. The MAINT family (13_command_set R346; 10_fabric R255, R268, R270, R280; 12_host_interface R320; 07_memory_protection R192 to R194; 03_core_array R95; 16_power_reset R433, R434). -/

namespace Sys2Proof.Machine

def maintRules (fields : List (Nat × Nat)) (bad : Bool) : Rules := { fields := fields, pf := true, bad := bad }

/-! ## Ports -/

/-- A port carries a flow path, a reservation or a storage queue pair (R255). -/
def portInUse (s : State) (port : Nat) : Bool :=
  s.flowSrc.any (fun f => f.2.opened && (pathPort f.2.path 0 == port || pathPort f.2.alt 0 == port))
  || s.flowDst.any (fun f => f.2.opened && f.2.port == port)
  || !(s.port port).reserved.isEmpty || s.qps.any (fun q => q.port == port)

/-- Other ports of the die in STORAGE mode. -/
def storagePorts (s : State) (port : Nat) : Nat :=
  ((List.range 48).filter (fun k => let p := port / 48 * 48 + k; p != port && (s.port p).mode == .storage)).length

def modeOf (c : Nat) : PortMode := if c = 0 then .off else if c = 1 then .sfl else .storage

/-- PORT_MODE: the port leaves UP and begins in its new mode. -/
def setMode (port : Nat) (m : PortMode) (s : State) : State :=
  let s1 := if (s.port port).st == .up && (s.port port).mode == .sfl then portDown port 0 s else s
  s1.updPort port (fun p => { p with mode := m, st := if m == .off then .off else .down, peerPort := 0x7F, peerDev := 0x3FFF, paused := false, cnps := 0 })

def execPortMode (fn : FnId) (e : Entry) (s : State) : Host.Outcome State Fault Refusal :=
  let i := fn.toNat
  let port := fld e 358 352
  let m := modeOf (fld e 361 360)
  .next (runCmd i e (maintRules [(358, 352), (361, 360)] (decide (port ≥ 96) || fld e 361 360 == 3)) (fun s =>
    if (s.port port).loop then putBack i e s
    else if (s.port port).mode = m then answerCmd i e St.done 0 s
    else if portInUse s port || (m == .storage && decide (storagePorts s port ≥ 8)) then refuseCmd i e St.refusedState s
    else answerCmd i e St.done 0 (setMode port m s)) s)

/-- PORT_RETRY: a REFUSED port begins again at step 1 of Table 10-6. -/
def execPortRetry (fn : FnId) (e : Entry) (s : State) : Host.Outcome State Fault Refusal :=
  let i := fn.toNat
  let port := fld e 358 352
  .next (runCmd i e (maintRules [(358, 352)] (decide (port ≥ 96))) (fun s =>
    if (s.port port).st = .refused then answerCmd i e St.done 0 (s.updPort port (fun p => { p with st := .down }))
    else refuseCmd i e St.refusedState s) s)

/-- DEVICE_ID (R270). -/
def execDeviceId (fn : FnId) (e : Entry) (s : State) : Host.Outcome State Fault Refusal :=
  let i := fn.toNat
  let dev := fld e 365 352
  let square := fld e 375 368
  let pos := fld e 381 376
  .next (runCmd i e (maintRules [(365, 352), (375, 368), (381, 376)] (dev != square * 48 + pos || decide (pos ≥ 48))) (fun s =>
    if s.flowSrc.any (fun f => f.2.opened) || s.flowDst.any (fun f => f.2.opened) then refuseCmd i e St.refusedState s
    else
      let s1 := s.updSys (fun y => { y with devId := BitVec.ofNat 14 dev, square := BitVec.ofNat 8 square, pos := BitVec.ofNat 6 pos })
      answerCmd i e St.done 0 (ownTopoChange s1)) s)

/-! ## Queue pairs -/

/-- Lowest free number on a port, from 2: 0 and 1 are InfiniBand's management pairs (log entry 35). -/
def freeQpn (s : State) (port : Nat) : Nat := ((List.range 257).map (· + 2) |>.find? (fun k => s.qps.all (fun q => !(q.port == port && q.qpn == k)))).getD 2

def execQpOpen (fn : FnId) (e : Entry) (s : State) : Host.Outcome State Fault Refusal :=
  let i := fn.toNat
  let port := fld e 358 352
  let o := eObj e
  .next (runCmd i e { maintRules (objBits ++ [(358, 352), (384, 384), (639, 512)]) (decide (port ≥ 96)) with missing := decide (o ≥ 64) || !s.fnExists o, busy := s.instBusy o } (fun s =>
    if (s.port port).mode != .storage then refuseCmd i e St.refusedState s
    else if (s.qps.filter (fun q => q.port == port)).length ≥ 256 then refuseCmd i e St.refusedFit s
    else
      let q : Qp := { port := port, qpn := freeQpn s port, fn := o, gen := (s.inst o).gen.toNat, lgid := BitVec.ofNat 128 (fld e 639 512), ipv6 := bit e 384 }
      answerCmd i e St.done q.qpn { s with qps := s.qps ++ [q] }) s)

def execQpClose (fn : FnId) (e : Entry) (s : State) : Host.Outcome State Fault Refusal :=
  let i := fn.toNat
  let port := fld e 358 352
  let qpn := fld e 407 384
  .next (runCmd i e { maintRules [(358, 352), (407, 384)] (decide (port ≥ 96)) with missing := s.qps.all (fun q => !(q.port == port && q.qpn == qpn)) } (fun s =>
    if s.rdmas.any (fun r => r.port == port && r.qpn == qpn) then refuseCmd i e St.refusedState s
    else answerCmd i e St.done 0 { s with qps := s.qps.filter (fun q => !(q.port == port && q.qpn == qpn)) }) s)

/-! ## ENGINE_RESET (R320) -/

/-- A DMA engine: the steps whose rows it reads end with ABORTED_RESET; what its old generation reads is dropped. -/
def resetDma (k : Nat) (s : State) : State :=
  let hit := s.dmaReads.filter (fun r => r.engine == k)
  let s1 : State := { s with dmaGen := Tbl.upd 0 s.dmaGen k (· + 1) }
  forEach (fun (r : DmaRead) s => match r.use with
    | .ingest t =>
      if (s.stepOf r.fn t).isSome then failStep r.fn t .reset (raise r.fn 2 3 k { s with dmaReads := s.dmaReads.filter (fun x => !(x.fn == r.fn && x.use == .ingest t)) }) else s) hit s1

/-- A link engine: on a storage port every request ends; on an SFL port every step with a send not yet acknowledged over it ends (log entry 35). -/
def resetLink (k : Nat) (s : State) : State :=
  let hit := s.rdmas.filter (fun r => r.port == k)
  let s1 := forEach (fun (r : Rdma) s => let s' := dropReq r s; if stale s r then s' else failUse r St.abortedReset (raise r.fn 2 3 (k % 32) s')) hit
    { s with linkGen := Tbl.upd 0 s.linkGen k (· + 1) }
  forEach (fun c s =>
    let w := s.work c.1
    match w.task with
    | some t => if w.remoteQ.any (fun q => pathPort (s.src q.2.1).path 0 == k && !s.sendVisible q) then failStep t.fn t.tag .reset (raise t.fn 2 3 (k % 32) s) else s
    | none => s) s1.cores s1

def execEngineReset (fn : FnId) (e : Entry) (s : State) : Host.Outcome State Fault Refusal :=
  let i := fn.toNat
  let k := fld e 359 353
  .next (runCmd i e (maintRules [(359, 352)] (decide (k ≥ if bit e 352 then 96 else 32))) (fun s =>
    answerCmd i e St.done 0 (if bit e 352 then resetLink k s else resetDma k s)) s)

/-! ## Activities of the arbiter -/

/-- Declare an activity for a command: it starts, or an interim QUEUED goes out (R193). -/
def runActivity (e : Entry) (kind : ActKind) (res : List Res) (arg : Nat) (endBy : Option Nat) (s : State) : State :=
  let s1 := declareAct kind res (some (eTag e)) arg s
  match findAct s1 s.nextAct with
  | some a => if mayStart s1.acts a then startAct a.id endBy s1 else interim 0 (eTag e) St.queued s1
  | none => s1

/-- GROUP_TEST: of a group in no stall, in a stall under reset, or out of service (R95, R214). -/
def execGroupTest (fn : FnId) (e : Entry) (s : State) : Host.Outcome State Fault Refusal :=
  let i := fn.toNat
  let g := fld e 357 352
  .next (runCmd i e (maintRules [(357, 352)] false) (fun s =>
    let free : Bool := match (s.ownerOf g).bind (fun o => s.stall o) with | some st => st.inReset || (s.group g).outOfService | none => true
    if free then runActivity e .cg [.group g] g none s else refuseCmd i e St.refusedState s) s)

/-- RECAL: one channel of a stack or package. -/
def execRecal (fn : FnId) (e : Entry) (s : State) : Host.Outcome State Fault Refusal :=
  let i := fn.toNat
  let part := fld e 356 353 + (if bit e 352 then 12 else 0)
  let ch := fld e 363 357
  .next (runCmd i e (maintRules [(363, 352)] (!bit e 352 && decide (part ≥ 12))) (runActivity e .pc [.channel part ch] (part + ch <<< 5) none) s)

/-- HOLD: a measurement hold of parts, which the arbiter ends (R194). -/
def execHold (fn : FnId) (e : Entry) (s : State) : Host.Outcome State Fault Refusal :=
  let i := fn.toNat
  let secs := fld e 391 384
  .next (runCmd i e (maintRules [(379, 352), (391, 384)] (secs == 0 || decide (secs > 60))) (fun s =>
    runActivity e .mh ((bitsOf 28 (fld e 379 352)).map .part) secs (some (s.now.toNat + secs * 1000000000)) s) s)

/-- FW_UPDATE: a patch whose signature fails changes nothing; another becomes an activity (R433, R434). `patch` is what the Clerk finds in the buffer. -/
def execFwUpdate (fn : FnId) (e : Entry) (buf : Buf) (patch : Patch) (s : State) : Host.Outcome State Fault Refusal :=
  let i := fn.toNat
  .next (runCmd i e (maintRules buf1 false) (withBuf i e (eBytes e) buf (fun _ s =>
    if !patch.sigOk then refuseCmd i e St.badImage (raiseDev 11 6 0 s)
    else runActivity e .fw [.otherClerk, .token] patch.level.toNat none s)) s)

end Sys2Proof.Machine
end

