-- ==== Sys2Proof/Machine/Recovery.lean ====
section
/-! DEFINITION. What ends with the whole device: outstanding commands, device-fatal errors, the device reset and its release (15_errors R402, R407 to R409; 16_power_reset R418, R419; 08_almanac R205). -/

namespace Sys2Proof.Machine

/-! ## Outstanding commands -/

/-- TAGs of the commands a function has outstanding beside its steps. A re-shard that has started is left to its verdict. -/
def ownTags (s : State) (i : Nat) (started : Bool) : List Nat :=
  let n := s.inst i
  let exps := n.jobs.flatMap (fun j => match j.exp with
    | some e => if e.stopped then [] else e.spec.tag :: (e.next.map (·.tag)).toList
    | none => [])
  (match n.loading with | some (t, _) => [t] | none => [])
    ++ (n.nextAlmanac.bind (·.tag)).toList
    ++ n.adapters.flatMap (fun a => a.fetchTag.toList ++ a.unregTag.toList)
    ++ n.jobs.flatMap (fun j => (match j.reshard with | some r => if r.waiting || started then [r.tag] else [] | none => []) ++ (j.snapshot.map (·.tag)).toList)
    ++ exps
    ++ s.rdmas.filterMap (fun r => if r.fn == i then (match r.use with | .shard t _ _ => some t | .package _ t => some t | _ => none) else none)
    ++ s.padded.filterMap (fun p => if p.2.1 == i then some p.2.2.tag else none)

/-- TAGs of the PF's commands that the device holds outside instance 0: WEIGHTS, FREEZE, DESTROY. -/
def pfTags (s : State) : List Nat :=
  (s.base.load.map (·.1)).toList ++ s.insts.flatMap (fun p => p.2.freezing.toList ++ (p.2.removal.bind (·.tag)).toList)

/-- Every outstanding command of a function completes with a status; entries taken and not yet acted on count among them. -/
def endCommands (status : Nat) (started : Bool) (i : Nat) (s : State) : State :=
  let tags := (ownTags s i started ++ (if i = 0 then pfTags s else [])).foldl (fun l t => if l.contains t then l else l ++ [t]) []
  let s1 := forEach (fun t s => finish i t status 0 s) tags s
  let s2 := if i = 0 then forEach (fun (a : Act) s => match a.tag with | some t => finishMaint t status 0 s | none => s) s1.acts s1 else s1
  forEach (fun (e : Entry) s => finishCmd i (fld e 15 8) (fld e 63 32) status 0 s) (s2.fn i).taken
    (s2.updFn i (fun f => { f with taken := [] }))

/-- Every outstanding step and command completes with ABORTED_RESET, where the host link and a Clerk still answer (R205, Table 15-10 step 4). -/
def abortAll (s : State) : State :=
  if !s.sys.linkUp || !(s.sys.westClerk || s.sys.eastClerk) then s
  else forEach (fun i s => endCommands St.abortedReset true i (endAllSteps i (some St.abortedReset) s)) (List.range 64) s

/-- What the device holds for a function's commands goes with them: loads, tables, fetches, exports, snapshots, waiting re-shards. -/
def forgetCommands (i : Nat) (s : State) : State :=
  let s1 := if (s.inst i).loading.isSome then closeFlows i s else s
  let s2 : State := { s1 with
    rdmas := s1.rdmas.filter (fun r => !(r.fn == i && (match r.use with | .shard .. => true | .package .. => true | _ => false)))
    padded := s1.padded.filter (fun p => p.2.1 != i) }
  let s3 := s2.updInst i (fun n => { n with
    loading := none, nextAlmanac := none,
    adapters := n.adapters.map (fun a => { a with fetchTag := none, fetchBehind := [], unregTag := none }),
    jobs := n.jobs.map (fun j => { j with
      snapshot := none,
      exp := j.exp.map (fun e => { e with stopped := true, next := none }),
      reshard := match j.reshard with | some r => if r.waiting then none else some r | none => none }) })
  if i = 0 then
    let s4 := dropWeightReads s3
    let b : BaseModel := if s4.base.load.isNone then s4.base else if s4.base.repair then { s4.base with load := none, repair := false, arrived := [], handles := [] } else {}
    let s5 : State := { s4 with base := b, acts := s4.acts.map (fun (a : Act) => { a with tag := none }) }
    forEach (fun k s => s.updInst k (fun n => { n with freezing := none, removal := n.removal.map (fun r => { r with tag := none }) })) s5.instNums s5
  else s3

/-! ## Loop-backs end with the test state or a reset (R446, R448) -/

/-- Every line of a part is ZERO. -/
def zeroPart (p : Nat) (s : State) : State := { s with lines := s.lines.filter (fun l => l.1 / 2 ^ 32 != p) }

/-- The part whose DRAM cells a loop-back reaches (Table 17-7). -/
def LoopTest.dram (t : LoopTest) : Option Nat :=
  match t.target with
  | .stack k => if t.depth = 3 then some k else none
  | .package k => if t.depth = 2 then some (12 + k) else none
  | _ => none

/-- A loop-back ends: the part it wrote is zeroed, its port stays OFF. -/
def endLoop (s : State) : State :=
  match s.sys.loop with
  | none => s
  | some t =>
    let s1 := match t.dram with | some p => zeroPart p s | none => s
    let s2 := match t.target with | .port p => s1.updPort p (fun q => { q with loop := false, st := .off }) | _ => s1
    s2.updSys (fun y => { y with loop := none })

/-! ## Device-wide ends -/

/-- Keys go and everything keyed to them: stalls are reset without a word, pages wait for scrub, and every instance's generation rises (R363, Table 15-10 step 5). -/
def wipeAll (s : State) : State :=
  let s1 := forEach (fun i s => dropKeyed i (queueScrub i (resetStall i none s))) s.instNums s
  forEach raiseOrWait (List.range 64) s1

/-- Steps 2 to 5 of Table 15-10. `detail` is what DEVICE_FATAL names; `abort`: outstanding steps and commands receive ABORTED_RESET (R205). -/
def stopDevice (detail : Option Nat) (abort : Bool) (s : State) : State :=
  let s1 := s.updSys (fun y => { y with fatal := true })
  let s2 := match detail with
    | some d => forEach (fun i s => raise i 4 3 d s) ((List.range 64).filter (fun f => s1.fnExists f)) s1
    | none => s1
  let s3 := hailStopping (fun _ => true) s2
  wipeAll (if abort then abortAll s3 else s3)

/-- A monitor at the reset values of Table 8-7; temperature and service of the group stay. -/
def Group.restarted (g : Group) : Group :=
  { temp := g.temp, level := g.level, outOfService := g.outOfService, degraded := g.degraded, speedFault := g.speedFault }

/-- What a device reset keeps of the base model: all but the window, which waits for its digest (R419). A load that was under way leaves none. -/
def BaseModel.kept (b : BaseModel) : BaseModel :=
  if b.load.isSome && !b.repair then {} else { b with window := false, load := none, repair := false, arrived := [], handles := [] }

/-- The device reset (R409, R418): the base model, device id, square and position, port modes, device memory, the records of groups 8 to 15 and of DEVICE_FATAL, and the Porter with its reports stay; everything else returns to its reset value. A Clerk that did not answer starts again. -/
def deviceReset (s : State) : State :=
  let s0 := forEach (fun i s => followHeat i (s.updInst i (fun n => { n with stall := none, removal := none, tdi := .unlocked, stream := 0, lockSession := none }))) s.instNums (endLoop s)
  let s1 := forEach (fun i s => resetCauses i true s) (List.range 64) s0
  let s2 : State := { s1 with
    fns := [], padded := [], dmaReads := [], tagsBusy := [], colls := [], rdmas := [], qps := [], acts := [], moves := []
    cores := s1.cores.map (fun c => (c.1, { badCell := c.2.badCell }))
    groups := s1.groups.map (fun g => (g.1, g.2.restarted))
    flowSrc := [], flowDst := [], topo := [], routes := []
    ports := s1.ports.map (fun p => (p.1, ({ mode := p.2.mode, st := if p.2.mode = .off then .off else .down } : Port)))
    base := s1.base.kept
    sync := [] }
  pinsFollow s (s2.updSys (fun y => { y with
    phase := .reset, fatal := false, linkUp := false, pcieLoop := false, vfEnable := false, numVFs := 0, testState := false, topoChanges := 0,
    linkPolicy := [], bridgeOk := true, stoppedHalf := none, westClerk := true, eastClerk := true, baseRecheck := false,
    token := some (y.token.getD .west), grantTo := none, lastMsg := .none, fwStage := 0 }))

/-- The device is powered and past the point where a device-fatal error stops it (R408, R412). -/
def State.live (s : State) : Bool :=
  match s.sys.phase with
  | .starting | .operational | .reset => true
  | _ => false

/-- A device-fatal error: its cause, then Table 15-10 to its end. -/
def deviceFatal (g b detail : Nat) (s : State) : State :=
  if s.live then deviceReset (stopDevice (some (g + b <<< 8)) true (raiseDev g b detail s)) else s

/-- Release of a device reset: towards full operation, with the kept base model to be checked (R418, R419). -/
def releaseReset (s : State) : State :=
  if s.sys.phase == .reset && s.sys.perstN then s.updSys (fun y => { y with phase := .starting, baseRecheck := s.base.loaded }) else s

/-! ## Pages and values that go with power -/

/-- What is left of the device when power goes (R415, R418, R420): fuses, OTP and flash with what they record, that is the trip, retired frames, spare rows, cells and groups beyond repair, and the levels at the inputs. -/
def powerOff (s : State) : State :=
  let y := s.sys
  let sys : Sys := { phase := .off, pwrok := false, perstN := y.perstN, forceSafeN := y.forceSafeN, timerefOk := y.timerefOk, linkRefclkOk := y.linkRefclkOk, pcieRefclkOk := y.pcieRefclkOk, flashTrip := y.flashTrip }
  let cores := s.cores.map (fun c => (c.1, ({ badCell := c.2.badCell } : Core)))
  let groups := s.groups.map (fun g => (g.1, ({ degraded := g.2.degraded, outOfService := g.2.degraded } : Group)))
  let s1 : State := { pending := s.pending, free := s.free, out := s.out, retired := s.retired, sparesUsed := s.sparesUsed, cores := cores, groups := groups, sys := sys }
  let s2 := if y.attnN then s1 else s1.emit (.attnN true)
  if y.thermtripN then s2 else s2.emit (.thermtripN true)

end Sys2Proof.Machine
end

