-- ==== Sys2Proof/Machine/PorterOps.lean ====
section
/-! DEFINITION. The Porter's operations, the management bus, loop-backs and the TAP (15_errors R405 to R407; 17_pins_test R442 to R450). -/

namespace Sys2Proof.Machine

/-! ## Operations (R406, R407, R445) -/

/-- Device power and a running Porter (R441, Table 16-2 step 1). -/
def State.porterRuns (s : State) : Bool := s.sys.phase.timed

/-- An answer of the management bus (Table 17-6). -/
def mgmtAnswer (status : Nat) (bytes : Bytes) (s : State) : State := s.emit (.mgmt status bytes)

/-- An operation ends: DONE, LAST_OP, ELAPSED and RESULT, PORTER_ACTED, and over the bus its answer. An operation without output has no valid RESULT bytes. -/
def endPorter (via : PorterVia) (op : Nat) (elapsed : BitVec 16) (result : Bytes) (s : State) : State :=
  let s1 := s.updSys (fun y => { y with porter := { y.porter with
    busy := false, done := true, lastOp := BitVec.ofNat 4 op, elapsed := elapsed, result := result } })
  let s2 := raiseDev 15 0 op s1
  match via with
  | .window => s2
  | .mgmt => mgmtAnswer 0 (leBytes 2 elapsed.toNat ++ leBytes 2 result.length ++ result) s2

/-- Run an operation: the one the window holds, or one that comes over the bus while none runs; a bus request meets 1 while one does. -/
def porterOp (via : PorterVia) (op : Nat) (inst : Option Nat) (elapsed : BitVec 16) (act : State → State) (result : State → Bytes) (s : State) : State :=
  let p := s.sys.porter
  if !s.porterRuns then s
  else match via with
  | .window =>
    if p.busy && p.op == op && (match inst with | some i => p.inst.toNat == i | none => true) then
      let s1 := act s
      endPorter via op elapsed (result s1) s1
    else s
  | .mgmt =>
    if p.busy then mgmtAnswer 1 [] s
    else
      let s1 := act s
      endPorter via op elapsed (result s1) s1

def noResult (_ : State) : Bytes := []

/-- A stall reset is over: SRAM and objects are clear, and the stall map and the real-time preload are written again (R220). -/
def endStallReset (i : Nat) (s : State) : State :=
  match s.stall i with
  | some st => if st.inReset then writeArea i (s.updStall i (fun st => { st with inReset := false })) else s
  | none => s

/-- The rings of a function at their reset values, and both shadows empty (R205, R304, R309). -/
def resetRings (i : Nat) (s : State) : State :=
  s.updFn i (fun f => { f with
    cmdBase := 0, cmdSize := 0, cmdEnable := false, cmdHead := 0, doorbell := 0, fetching := 0, taken := [],
    cplBase := 0, cplSize := 0, cplEnable := false, cplHead := 0, cplTail := 0, cplPhase := true, held := [],
    rdShadow := none, wrShadow := none })

/-- A FREEZE in progress ends with the function it freezes (R386). -/
def endFreezing (i : Nat) (s : State) : State :=
  match (s.inst i).freezing with
  | some t => (finish 0 t St.abortedReset 0 s).updInst i (fun n => { n with freezing := none })
  | none => s

/-- FUNCTION_RESET: steps 2 and 3 of Table 12-8 and reset rings; its records go, and a TDI returns to CONFIG_UNLOCKED as by an FLR (R205, R373, R409). A removal in progress goes on. -/
def functionResetOf (i : Nat) (s : State) : State :=
  if !s.fnExists i || (s.inst i).removal.isSome then s
  else
    let s0 := if i = 0 then dropPfCommands s else endFreezing i s
    let s1 := endStallReset i (resetRings i (removeInst i none true s0))
    pinsFollow s (resetCauses i true (s1.updInst i (fun n => { n with tdi := .unlocked, stream := 0, lockSession := none })))

def execFunctionReset (via : PorterVia) (inst : FnId) (elapsed : BitVec 16) (s : State) : Host.Outcome State Fault Refusal :=
  .next (porterOp via 1 (some inst.toNat) elapsed (functionResetOf inst.toNat) noResult s)

/-- STALL_RESET: R93 for every group of the instance's stall; its steps end with ABORTED_RESET (R205). -/
def stallResetOf (i : Nat) (s : State) : State := endStallReset i (resetStall i (some St.abortedReset) s)

def execStallReset (via : PorterVia) (inst : FnId) (elapsed : BitVec 16) (s : State) : Host.Outcome State Fault Refusal :=
  .next (porterOp via 2 (some inst.toNat) elapsed (stallResetOf inst.toNat) noResult s)

/-- DEVICE_RESET: steps 2 to 5 of Table 15-10, without completions (R205), then the device reset. DEVICE_FATAL names no cause here. -/
def deviceResetOf (s : State) : State := if s.live then deviceReset (stopDevice (some 0) false s) else s

def execDeviceReset (via : PorterVia) (elapsed : BitVec 16) (s : State) : Host.Outcome State Fault Refusal :=
  .next (porterOp via 3 none elapsed deviceResetOf noResult s)

/-- An UP SFL port loses its link key and its session: it attests again (R268, R407). -/
def reattest (port : Nat) (s : State) : State :=
  let p := s.port port
  if p.mode == .sfl && p.st == .up then
    ownTopoChange (s.updPort port (fun p => { p with
      st := .attesting, lkey := false, keySwitch := false, nakSent := false, replay := [], nextLseq := 0, expLseq := 0, firstTx := 0 }))
  else s

/-- ZEROISE: every key and secret is destroyed, every generation raised, every stall reset; what is outstanding ends with ABORTED_RESET (Table 15-9). -/
def zeroiseAll (s : State) : State :=
  let s1 := wipeAll (abortAll s)
  let s2 := forEach endStallReset s1.instNums s1
  raiseDev 15 2 0 (forEach reattest (List.range 96) s2)

def execZeroise (via : PorterVia) (elapsed : BitVec 16) (s : State) : Host.Outcome State Fault Refusal :=
  .next (porterOp via 4 none elapsed zeroiseAll noResult s)

/-- 64 group temperatures, then 12 stack temperatures, 16 bits each in tenths of a degree. -/
def thermalResult (s : State) : Bytes :=
  (List.range 64).flatMap (fun g => leBytes 2 (s.group g).temp) ++ (List.range 12).flatMap (fun k => leBytes 2 (Tbl.get 0 s.stackTemp k))

def execPorterThermal (via : PorterVia) (elapsed : BitVec 16) (s : State) : Host.Outcome State Fault Refusal :=
  .next (porterOp via 5 none elapsed (fun s => s) thermalResult s)

def execPorterReport (via : PorterVia) (inst : FnId) (elapsed : BitVec 16) (s : State) : Host.Outcome State Fault Refusal :=
  .next (porterOp via 6 (some inst.toNat) elapsed (fun s => s) (fun s => (s.inst inst.toNat).report) s)

/-! ## Other vendor-defined messages (Table 17-6) -/

/-- The bus is answered while the device has power (R442). -/
def onBus (act : State → State) (s : State) : State := if s.porterRuns then act s else s

/-- TREE_READ: a word of the PF's tree or of the device-wide tree; 3 for any other offset. -/
def execTreeRead (offset : BitVec 16) (s : State) : Host.Outcome State Fault Refusal :=
  let o := offset.toNat
  .next (onBus (fun s =>
    if 0x100 ≤ o && o < 0x6000 && o % 4 == 0 then mgmtAnswer 0 (leBytes 4 (regWord s 0 o)) s else mgmtAnswer 3 [] s) s)

/-- No stall but instance 0's, no image, no running MAINT activity (R446). -/
def State.mayTest (s : State) : Bool :=
  s.insts.all (fun p => p.1 == 0 || p.2.stall.isNone) && !anyImage s && s.acts.all (fun a => !a.running)

def execTestEnter (s : State) : Host.Outcome State Fault Refusal :=
  .next (onBus (fun s => if s.mayTest then mgmtAnswer 0 [] (s.updSys (fun y => { y with testState := true })) else mgmtAnswer 2 [] s) s)

/-- A loop-back needs the test state (Table 17-7). -/
def LoopTest.needsTest (t : LoopTest) : Bool := match t.target with | .port _ => false | _ => true

/-- TEST_EXIT: a loop-back that needs the test state ends with it, its part zeroed (R448). -/
def execTestExit (s : State) : Host.Outcome State Fault Refusal :=
  .next (onBus (fun s =>
    let s1 := match s.sys.loop with | some t => if t.needsTest then endLoop s else s | none => s
    mgmtAnswer 0 [] (s1.updSys (fun y => { y with testState := false }))) s)

/-! ## Loop-backs (R447 to R449) -/

/-- Target, depth, pattern and duration are ones the tables give: lane patterns for lanes, memory patterns for memory, any code for frames. -/
def loopValid (target : LoopTarget) (depth pattern ms : Nat) : Bool :=
  decide (1 ≤ ms) && decide (ms ≤ 60000) && (match target with
    | .pcie => (depth == 1 || depth == 2) && decide (pattern ≤ 5)
    | .port _ => (decide (1 ≤ depth) && decide (depth ≤ 4)) && (decide (pattern ≤ 5) || (depth == 3 && decide (pattern ≤ 8)))
    | .stack _ => (decide (1 ≤ depth) && decide (depth ≤ 3)) && decide (6 ≤ pattern) && decide (pattern ≤ 8)
    | .package _ => (depth == 1 || depth == 2) && decide (6 ≤ pattern) && decide (pattern ≤ 8))

/-- The Needs column. PCIe depth 1 is the link partner's to start, not the bus's. -/
def loopNeeds (s : State) (t : LoopTest) : Bool :=
  match t.target with
  | .pcie => t.depth == 2 && s.sys.testState && !s.sys.perstN
  | .port p => (s.port p).mode == .off
  | _ => s.sys.testState && (t.dram.isNone || (!s.base.loaded && s.base.load.isNone))

/-- LOOPBACK: refused with 2 where its condition does not hold, with 1 while another runs; its answer comes with its end. -/
def execLoopback (target : LoopTarget) (depth : BitVec 3) (pattern : BitVec 4) (ms : BitVec 16) (s : State) : Host.Outcome State Fault Refusal :=
  let t : LoopTest := { target := target, depth := depth.toNat }
  .next (onBus (fun s =>
    if !loopValid target depth.toNat pattern.toNat ms.toNat then mgmtAnswer 3 [] s
    else if s.sys.loop.isSome then mgmtAnswer 1 [] s
    else if !loopNeeds s t then mgmtAnswer 2 [] s
    else
      let s1 := match target with | .port p => s.updPort p (fun q => { q with loop := true }) | _ => s
      s1.updSys (fun y => { y with loop := some t })) s)

/-- A frame in which the test found an error: never given out again (R190, R448); one that a page lies on goes to retirement. -/
def retireBad (part frame : Nat) (s : State) : State :=
  if s.retired.contains (part, frame) then s
  else if !(pagesOnFrame s part frame).isEmpty then sendToRetirement part frame s
  else raiseDev 8 2 (frameDetail part frame) { s with retired := s.retired ++ [(part, frame)] }

/-- LOOPBACK_END: the duration is over; the part is zeroed or the port stays OFF, then the records go out. -/
def execLoopbackEnd (records : Bytes) (badFrames : List Nat) (s : State) : Host.Outcome State Fault Refusal :=
  .next (match s.sys.loop with
    | none => s
    | some t =>
      let s1 := endLoop s
      mgmtAnswer 0 records (match t.dram with
        | some p => forEach (retireBad p) (badFrames.filter (fun f => decide (f * 512 < partLines p))) s1
        | none => s1))

/-- PCIE_LOOPBACK_ENTRY: the link partner takes the port into Loopback, and the host sees LINK_DOWN; later it takes it out. -/
def execPcieLoopbackEntry (enter : Bool) (s : State) : Host.Outcome State Fault Refusal :=
  .next (if enter then
      (if s.sys.perstN && s.sys.pcieRefclkOk && s.porterRuns && !s.sys.pcieLoop then (linkLost s).updSys (fun y => { y with pcieLoop := true }) else s)
    else s.updSys (fun y => { y with pcieLoop := false }))

/-! ## MCTP, I3C and PLDM (R442 to R444) -/

/-- MGMT_SEL as sampled at PWROK rising: bit 0 of the straps, MGMT_ADDR above it. -/
def State.i3c (s : State) : Bool := s.sys.straps.getLsbD 0

/-- The static address of the bus (R442). -/
def State.busAddr (s : State) : Nat := 0x64 + (s.sys.straps >>> 1).toNat

/-- Set Endpoint ID: 0 and 0xFF are no endpoint's (log entry 14). -/
def execMctpSetEndpointId (eid : BitVec 8) (s : State) : Host.Outcome State Fault Refusal :=
  .next (onBus (fun s =>
    if eid = 0 || eid = 0xFF then mgmtAnswer 2 [] s else mgmtAnswer 0 [eid] (s.updSys (fun y => { y with mctpEid := eid }))) s)

/-- The I3C controller gives a dynamic address; on SMBus there is none. -/
def execDynamicAddressAssignment (addr : BitVec 7) (s : State) : Host.Outcome State Fault Refusal :=
  .next (onBus (fun s => if s.i3c then s.updSys (fun y => { y with i3cAddr := addr }) else s) s)

/-- State of the device as its sensor shows it: 0 starting, 1 operational, 2 device reset, 3 half mode, 4 device-fatal. -/
def deviceState (s : State) : Nat :=
  if s.sys.fatal || s.sys.phase == .tripped then 4
  else if s.sys.stoppedHalf.isSome then 3
  else match s.sys.phase with
  | .reset => 2
  | .operational => 1
  | _ => 0

/-- Values of the state sensors (Table 17-5): thermal level, device state, TIMEREF (0 present, 1 lost, 2 returned), presiding Clerk (0 West, 1 East). -/
def stateSensors (s : State) : List Nat :=
  [max (hottest 12 (fun k => Tbl.get 0 s.stackLevel k)).2 (hottest 64 (fun g => (s.group g).level)).2,
   deviceState s,
   if !s.sys.timerefOk then 1 else if s.sys.timerefLost then 2 else 0,
   b2n (s.sys.token == some .east || s.sys.grantTo == some .west)]

/-- PLDM_GET_SENSOR: temperatures and states from the device, power and rails as measured. The TIMEREF sensor adds the last alignment offset. -/
def sensorBytes (sensor : Sensor) (measured : BitVec 32) (s : State) : Bytes :=
  match sensor with
  | .power | .railMv _ | .railMa _ => leBytes 4 measured.toNat
  | .group g => leBytes 4 (s.group g.toNat).temp
  | .stack k => leBytes 4 (Tbl.get 0 s.stackTemp k)
  | .thermal => leBytes 1 ((stateSensors s).getD 0 0)
  | .deviceState => leBytes 1 (deviceState s)
  | .timeref => leBytes 1 ((stateSensors s).getD 2 0) ++ leBytes 8 (BitVec.ofInt 64 s.sys.alignOffset).toNat
  | .clerk => leBytes 1 ((stateSensors s).getD 3 0)

def execPldmGetSensor (sensor : Sensor) (measured : BitVec 32) (s : State) : Host.Outcome State Fault Refusal :=
  .next (onBus (fun s => s.emit (.pldm (sensorBytes sensor measured s))) s)

def execPldmSetEventReceiver (eid : BitVec 8) (s : State) : Host.Outcome State Fault Refusal :=
  .next (onBus (fun s => s.updSys (fun y => { y with eventRx := eid })) s)

/-- Event messages for the state sensors that changed: on I3C, to the receiver that has been set (R444). Sensor, new value, old value. -/
def senseStates (s : State) : State :=
  let new := stateSensors s
  let old := s.sys.sensed
  if new = old then s
  else
    let s1 := s.updSys (fun y => { y with sensed := new })
    if s.i3c && s.sys.eventRx != 0 then
      forEach (fun k s => if new.getD k 0 = old.getD k 0 then s else s.emit (.pldm (leBytes 1 k ++ leBytes 1 (new.getD k 0) ++ leBytes 1 (old.getD k 0)))) (List.range 4) s1
    else s1

/-! ## The TAP (R450) -/

/-- What a scan of the balls captures: nothing of the device's state. -/
def tapScan (ir : Nat) (s : State) : State :=
  ({ s with free := s.free + 1, sys := { s.sys with tapIr := ir } }).emit (.tdo (Config.tapCapture s.free))

/-- EXTEST and its kin drive balls only while PERST_N is low. -/
def State.tapDrives (s : State) : Bool := decide (s.sys.tapIr ≥ 3) && !s.sys.perstN

def execTapBypass (s : State) : Host.Outcome State Fault Refusal := .next ((s.updSys (fun y => { y with tapIr := 0 })).emit (.tdo 0))

/-- IDCODE: the step number in bits 31 to 28. -/
def idcode : BitVec 32 := BitVec.ofNat 32 (Config.step / 16 % 16) <<< 28 ||| Config.idcodeRest.setWidth 32

def execTapIdcode (s : State) : Host.Outcome State Fault Refusal :=
  .next ((s.updSys (fun y => { y with tapIr := 1 })).emit (.tdo (idcode.setWidth 64)))

def execTapSamplePreload (preload : Bytes) (s : State) : Host.Outcome State Fault Refusal :=
  .next ((tapScan 2 s).updSys (fun y => { y with preload := preload }))

def execTapExtest (s : State) : Host.Outcome State Fault Refusal := .next (tapScan 3 s)
def execTapExtestPulse (s : State) : Host.Outcome State Fault Refusal := .next (tapScan 4 s)
def execTapExtestTrain (s : State) : Host.Outcome State Fault Refusal := .next (tapScan 5 s)

/-- TRST_N low: the TAP is in reset, with IDCODE as its instruction (IEEE 1149.1; log entry 14). -/
def execTapReset (s : State) : Host.Outcome State Fault Refusal := .next (s.updSys (fun y => { y with tapIr := 1 }))

end Sys2Proof.Machine
end

