-- ==== Sys2Proof/Machine/Power.lean ====
section
/-! DEFINITION. Power, resets, inputs and clocks, escalation, the token and the bridge: the meanings of the power rows (16_power_reset R411 to R434; 15_errors R401, R403). -/

namespace Sys2Proof.Machine

/-! ## PWROK (R415, R420) -/

/-- The newest patch set whose signature passes, level 0 where none does (Table 16-2 step 2). -/
def newestPatch (sets : List Patch) : BitVec 16 := sets.foldl (fun m p => if p.sigOk && decide (p.level.toNat > m.toNat) then p.level else m) 0

/-- PWROK_RISE: the cold reset is released. Straps are sampled, patch sets verified, device time starts at 0; the record of a trip becomes THERMAL_TRIP and is erased. Without TIMEREF the device waits at step 1 (R424). -/
def execPwrokRise (otp flash : Option Patch) (straps : BitVec 3) (s : State) : Host.Outcome State Fault Refusal :=
  let sets := otp.toList ++ flash.toList
  .next (if s.sys.pwrok then s
    else
      let s1 : State := { s with now := 0, sys := { s.sys with
        pwrok := true, straps := straps, patch := newestPatch sets, token := some .west, flashTrip := false,
        phase := if s.sys.timerefOk then .starting else .cold } }
      let s2 := if s.sys.flashTrip then raiseDev 12 4 0 s1 else s1
      forEach (fun (p : Patch) s => if p.sigOk then s else raiseDev 11 6 0 s) sets s2)

/-- Buffered stores of a core reach their destinations (R93, R420). -/
def drainStores (core : Nat) (s : State) : State :=
  let s1 := finishMoves core (s.work core).moveQ.length s
  forEach (fun _ s => sendArrives core s) (List.range (s1.work core).sendQ.length) (drainSends core s1)

/-- PWROK_FALL: with every rail in its band the orderly power-down of R420; otherwise a loss of power, with nothing drained and no hail. -/
def execPwrokFall (railsInBand : Bool) (s : State) : Host.Outcome State Fault Refusal :=
  .next (if !s.sys.pwrok then s
    else if railsInBand && s.sys.phase == .operational then
      let s1 := s.updSys (fun y => { y with fatal := true })
      powerOff (hailStopping (fun _ => true) (forEach (fun c s => drainStores c.1 s) s1.cores s1))
    else powerOff s)

/-! ## PERST_N and the release (R416, R418) -/

/-- PERST_N_FALL: a device reset without completions, held while PERST_N is low. -/
def execPerstNFall (s : State) : Host.Outcome State Fault Refusal :=
  .next (if !s.sys.perstN then s
    else
      let s1 := s.updSys (fun y => { y with perstN := false })
      match s.sys.phase with
      | .starting | .operational => deviceReset (stopDevice none false s1)
      | _ => s1)

/-- PERST_N_RISE: releases the device reset, and PCIe training begins; a near-end PCIe loop-back ends with its condition (Table 17-7). -/
def execPerstNRise (s : State) : Host.Outcome State Fault Refusal :=
  .next (if s.sys.perstN then s
    else
      let s1 := match s.sys.loop with | some t => (match t.target with | .pcie => endLoop s | _ => s) | none => s
      releaseReset (s1.updSys (fun y => { y with perstN := true })))

/-- DEVICE_RESET_RELEASE: after any other start than PERST_N, once PERST_N is high. -/
def execDeviceResetRelease (s : State) : Host.Outcome State Fault Refusal := .next (releaseReset s)

/-- MEMORY_TRAINING_COMPLETE: fully operational; commands are fetched and SFL ports may train. Parts that failed are out of service (R415 to R417). -/
def execMemoryTrainingComplete (failedParts : BitVec 28) (s : State) : Host.Outcome State Fault Refusal :=
  .next (if s.sys.phase == .starting && s.sys.perstN then
      forEach pumpRing (List.range 64) (s.updSys (fun y => { y with phase := .operational, failedParts := failedParts }))
    else s)

/-- BASE_DIGEST_RECHECK: the window opens on a match with block 4; otherwise the base model goes. Loads that waited go on (R419). -/
def execBaseDigestRecheck (computed : BitVec 384) (s : State) : Host.Outcome State Fault Refusal :=
  .next (if !s.sys.baseRecheck then s
    else
      let s1 := s.updSys (fun y => { y with baseRecheck := false })
      resumeLoads (if computed = s1.base.digest then { s1 with base := { s1.base with window := true } } else dropBase s1))

/-! ## Other inputs (R422 to R424) -/

/-- A group without work asks for its calibrated supply (R423). -/
def calmGroup (g : Nat) (s : State) : State := if groupBusy s g then s else s.updGroup g (fun x => { x with vreq := none })

/-- FORCE_SAFE_N_FALL: every stall sheds bubble work at once; decision points refuse from now on. -/
def execForceSafeNFall (s : State) : Host.Outcome State Fault Refusal :=
  .next (if !s.sys.forceSafeN then s
    else
      let s1 := s.updSys (fun y => { y with forceSafeN := false })
      let s2 := forEach (fun i s => suspend i (s.updStall i (fun st => { st with lent := none }))) s1.instNums s1
      forEach calmGroup (List.range 64) s2)

def execForceSafeNRise (s : State) : Host.Outcome State Fault Refusal := .next (s.updSys (fun y => { y with forceSafeN := true }))

/-- INPUT_GLITCH: the level is ignored, and counted. -/
def execInputGlitch (pin : InPin) (s : State) : Host.Outcome State Fault Refusal :=
  .next (raiseDev 11 7 (match pin with | .pwrok => 1 | .perstN => 2 | .forceSafeN => 3) s)

/-- TIMEREF_LOSS: in service, device time runs on from the internal reference. -/
def execTimerefLoss (s : State) : Host.Outcome State Fault Refusal :=
  .next (s.updSys (fun y => { y with timerefOk := false, timerefLost := y.timerefLost || y.phase.timed }))

/-- TIMEREF_RETURN: reported by its sensor; a device that waited at step 1 starts. -/
def execTimerefReturn (s : State) : Host.Outcome State Fault Refusal :=
  .next (s.updSys (fun y => { y with timerefOk := true, phase := if y.pwrok && y.phase == .cold then .starting else y.phase }))

/-- LINK_REFCLK_LOSS: every SFL and storage port goes DOWN. -/
def execLinkRefclkLoss (s : State) : Host.Outcome State Fault Refusal :=
  .next (forEach (fun p s => if (s.port p).mode == .off || (s.port p).st == .off then s else (loseLink p 1 s).updPort p (fun q => { q with st := .down })) (List.range 96)
    (s.updSys (fun y => { y with linkRefclkOk := false })))

def execLinkRefclkReturn (s : State) : Host.Outcome State Fault Refusal := .next (s.updSys (fun y => { y with linkRefclkOk := true }))

/-- PCIE_REFCLK_LOSS: the link goes down, with LINK_DOWN. -/
def execPcieRefclkLoss (s : State) : Host.Outcome State Fault Refusal := .next (linkLost (s.updSys (fun y => { y with pcieRefclkOk := false })))

def execPcieRefclkReturn (s : State) : Host.Outcome State Fault Refusal := .next (s.updSys (fun y => { y with pcieRefclkOk := true }))

/-! ## Supplies and the trip (R412, R421) -/

def execSupplyExcursion (rail : Fin 10) (s : State) : Host.Outcome State Fault Refusal :=
  .next (if s.sys.pwrok then raiseDev 12 2 rail s else s)

/-- SUPPLY_FAILED: device-fatal, and the base model is dropped (R419). -/
def execSupplyFailed (rail : Fin 10) (s : State) : Host.Outcome State Fault Refusal :=
  .next (if s.live then dropBase (deviceFatal 12 3 rail s) else s)

/-- THERMAL_TRIP: THERMTRIP_N low, steps 2, 3 and 5 of Table 15-10 with ABORTED_RESET where it can be written (R205), the lowest voltage, and a record in flash. DEVICE_FATAL names the bit that the next cold reset will set. -/
def execThermalTrip (isStack : Bool) (index : BitVec 6) (s : State) : Host.Outcome State Fault Refusal :=
  .next (if !s.live || (isStack && decide (index.toNat ≥ 12)) then s
    else
      let s1 := stopDevice (some (12 + 4 <<< 8)) true ((s.updSys (fun y => { y with thermtripN := false })).emit (.thermtripN false))
      let s2 := forEach (fun g s => s.updGroup g (fun x => { x with vreq := some 550 })) (List.range 64) s1
      s2.updSys (fun y => { y with phase := .tripped, flashTrip := true }))

/-! ## Escalation (Table 15-7) -/

def execKeyEngineError (s : State) : Host.Outcome State Fault Refusal := .next (deviceFatal 11 8 0 s)

def execPorterFault (half : Half) (s : State) : Host.Outcome State Fault Refusal :=
  .next (if s.sys.stoppedHalf == some half then s else deviceFatal 15 1 0 s)

/-- STALL_STATE_ERROR: a stall reset with reason 1; one under way absorbs it. -/
def execStallStateError (fn : FnId) (s : State) : Host.Outcome State Fault Refusal :=
  let i := fn.toNat
  .next (match s.stall i with | some st => if st.inReset then s else recoverStall i 1 s | none => s)

def execStallResetComplete (fn : FnId) (s : State) : Host.Outcome State Fault Refusal := .next (endStallReset fn.toNat s)

/-- STALL_RESET_OVERRUN: the Porter finishes it; groups that do not answer leave service with cause 3. -/
def execStallResetOverrun (fn : FnId) (silent : BitVec 64) (s : State) : Host.Outcome State Fault Refusal :=
  let i := fn.toNat
  .next (match s.stall i with
    | some st => if st.inReset then endStallReset i (forEach (fun g s => if silent.getLsbD g then groupOut g 3 s else s) st.groupList s) else s
    | none => s)

/-- FUNCTION_RESET_OVERRUN: the Porter finishes the function reset. -/
def execFunctionResetOverrun (fn : FnId) (s : State) : Host.Outcome State Fault Refusal :=
  let i := fn.toNat
  .next (if (s.fn i).flr && !(s.inst i).raiseWaits then finishFlr i s else s)

/-! ## The Clerks, the token and the firmware update (R428, R429, R433, R434) -/

def otherHalf : Half → Half
  | .west => .east | .east => .west

def halfCode : Half → Nat
  | .west => 0 | .east => 1

def State.clerkUp (s : State) : Half → Bool
  | .west => s.sys.westClerk
  | .east => s.sys.eastClerk

def setClerk (h : Half) (up : Bool) (s : State) : State :=
  match h with
  | .west => s.updSys (fun y => { y with westClerk := up })
  | .east => s.updSys (fun y => { y with eastClerk := up })

/-- The live firmware update that runs. -/
def fwAct (s : State) : Option Act := s.acts.find? (fun (a : Act) => a.kind == .fw && a.running)

/-- A firmware update fails: FAILED_DEVICE. -/
def failUpdate (s : State) : State :=
  match fwAct s with
  | none => s
  | some a =>
    let s1 := (endAct a.id s).updSys (fun y => { y with fwStage := 0, lastMsg := .none })
    match a.tag with | some t => finishMaint t St.failedDevice 0 s1 | none => s1

/-- The restarted Clerk has answered READY: it holds an OFFER with its journal current. -/
def readyAnswered (s : State) : Bool := s.sys.fwStage == 1 && (s.sys.lastMsg == .offer || s.sys.lastMsg == .ready)

/-- Steps accepted but not begun and outstanding commands end with FAILED_DEVICE; work that runs goes on (Table 15-7). -/
def loseClerkWork (s : State) : State :=
  forEach (fun i s =>
    let s1 := forEach (fun (p : Step) s => match p.at_ with
      | .accepted .. => failStep i p.tag .device s
      | .queued | .parked => endStep i p.tag St.failedDevice 0 s
      | _ => s) (s.inst i).steps s
    forgetCommands i (endCommands St.failedDevice false i s1)) (List.range 64) s

/-- The presiding Clerk missed its watchdog: the other takes the token, unless it is being restarted and has not answered READY; the patch set in force is the one the new holder runs (R434). -/
def takeover (half : Half) (s : State) : State :=
  let s1 := raiseDev 11 3 (halfCode half) (setClerk half false s)
  let stays : Bool := (fwAct s).isSome && decide (s.sys.fwStage ≤ 1) && !readyAnswered s
  let s2 := if stays then s1
    else
      let s3 := match fwAct s with
        | some a => if s.sys.fwStage = 0 then s1 else s1.updSys (fun y => { y with patch := BitVec.ofNat 16 a.arg })
        | none => s1
      raiseDev 11 2 (halfCode (otherHalf half) + 3 <<< 1) (s3.updSys (fun y => { y with token := some (otherHalf half) }))
  loseClerkWork (failUpdate s2)

/-- CLERK_WATCHDOG_MISS: takeover, restart of the other Clerk, or device-fatal where neither answers (Table 15-7). -/
def execClerkWatchdogMiss (half : Half) (otherAnswers : Bool) (s : State) : Host.Outcome State Fault Refusal :=
  .next (if !s.live || !s.clerkUp half || s.sys.stoppedHalf == some half then s
    else if !otherAnswers || !s.clerkUp (otherHalf half) || !s.sys.bridgeOk then
      deviceFatal 11 5 0 (setClerk .west false (setClerk .east false s))
    else if s.sys.token == some half then takeover half s
    else
      let s1 := raiseDev 11 4 (halfCode half) (setClerk half false s)
      if s.sys.fwStage ≤ 1 then failUpdate s1 else s1)

/-- CLERK_RESTART_COMPLETE: the Clerk that restarts has its journal, or has failed its check. In an update: step 2 ends and it can be offered the token, or step 4 ends and the new patch set is in force (Table 16-4, R434). -/
def execClerkRestartComplete (ok : Bool) (s : State) : Host.Outcome State Fault Refusal :=
  let h : Half := match s.sys.token with | some t => otherHalf t | none => .east
  .next (match fwAct s with
    | some a =>
      if s.sys.fwStage = 0 then
        (if ok then (setClerk h true s).updSys (fun y => { y with fwStage := 1 }) else failUpdate (setClerk h false s))
      else if s.sys.fwStage = 2 && ok then (setClerk h true s).updSys (fun y => { y with fwStage := 3, patch := BitVec.ofNat 16 a.arg })
      else s
    | none =>
      if !ok || s.sys.stoppedHalf.isSome then s
      else setClerk .west true (setClerk .east true s))

/-- OFFER: the other Clerk, whose journal is current, has it and answers READY. -/
def execOffer (s : State) : Host.Outcome State Fault Refusal :=
  .next (if s.sys.bridgeOk && s.sys.token.isSome && (fwAct s).isSome && s.sys.fwStage = 1 && (s.sys.lastMsg == .none || s.sys.lastMsg == .grant) then
      s.updSys (fun y => { y with lastMsg := .offer })
    else s)

/-- READY: the holder has it and sends GRANT; from then on it no longer holds the token. -/
def execReady (s : State) : Host.Outcome State Fault Refusal :=
  .next (match s.sys.token with
    | some h => if s.sys.bridgeOk && s.sys.lastMsg == .offer then s.updSys (fun y => { y with lastMsg := .ready, token := none, grantTo := some (otherHalf h) }) else s
    | none => s)

/-- GRANT: the receiver holds the token. TOKEN_MOVED, reason 1. -/
def execGrant (s : State) : Host.Outcome State Fault Refusal :=
  .next (match s.sys.grantTo with
    | some h =>
      if s.sys.bridgeOk && s.clerkUp h then
        raiseDev 11 2 (halfCode h + 1 <<< 1) (s.updSys (fun y => { y with lastMsg := .grant, token := some h, grantTo := none, fwStage := if y.fwStage = 1 then 2 else y.fwStage }))
      else s
    | none => s)

/-! ## Bridge failure (R430 to R432) -/

/-- The ports of a half. -/
def halfPorts (h : Half) : List Nat := (List.range 48).map (fun k => 48 * halfCode h + k)

/-- What half mode does to the steps of a stall: nothing where it lies on the running half alone, a stall reset with reason 3 where it spans, and failure where it lies on the stopped half. -/
def halveStall (stop : Half) (i : Nat) (s : State) : State :=
  match s.stall i with
  | none => s
  | some st =>
    if !onDie st.groups (halfCode stop) then s
    else if onDie st.groups (halfCode (otherHalf stop)) then recoverStall i 3 s
    else stopCores st.cores .device (forEach (fun (p : Step) s => if p.waits then s else failStep i p.tag .device s) (s.inst i).steps s)

/-- Half mode: one half goes on with the token, the other hails STOPPING and its ports go OFF; the PCIe link retrains to x8 (R430 to R432). -/
def enterHalf (keep : Half) (s : State) : State :=
  let stop := otherHalf keep
  let s1 := hailStopping (fun p => (halfPorts stop).contains p) s
  let s2 := setClerk stop false (s1.updSys (fun y => { y with bridgeOk := false, stoppedHalf := some stop, token := some keep, grantTo := none }))
  let s3 := if s.sys.token.isNone then raiseDev 11 2 (halfCode keep + 2 <<< 1) s2 else s2
  let s4 := raiseDev 11 1 (halfCode stop) (raiseDev 11 0 0 s3)
  let s5 := if s.sys.fwStage = 3 then s4 else failUpdate s4
  let s6 := forEach (fun p s => (if (s.port p).st == .up && (s.port p).mode == .sfl then portDown p 4 s else s).updPort p (fun q => { q with st := .off })) (halfPorts stop) s5
  let s7 := forEach (halveStall stop) s6.instNums s6
  if s7.sys.linkUp then raiseDev 13 3 (s7.sys.linkRate.toNat + 8 <<< 4) (s7.updSys (fun y => { y with linkWidth := 8 })) else s7

/-- BRIDGE_FAILURE, after retries that failed (BRIDGE_RETRY): the half whose Clerk holds the token continues, West where neither does. -/
def execBridgeFailure (s : State) : Host.Outcome State Fault Refusal :=
  .next (if !s.sys.bridgeOk || !(s.sys.phase == .starting || s.sys.phase == .operational) then s else enterHalf (s.sys.token.getD .west) s)

end Sys2Proof.Machine
end

