-- ==== Sys2Proof/Machine/TileOps.lean ====
section
/-! DEFINITION. The meanings of TILE_BEGIN and of the tile instructions (05_tile_programs, Table 5-7). -/

namespace Sys2Proof.Machine

/-- TILE_BEGIN (R121 to R128): the engine runs the row and tail sections of the next ready tile, and the array takes the freed place. -/
def execTileBegin (core : CoreId) (s : State) : Host.Outcome State Fault Refusal := .next (settle core.toNat (drainSends core.toNat (nextTile core.toNat s)))

/-- MOV: D ← A. -/
def execMov (core : CoreId) (d a : BitVec 5) (s : State) : Host.Outcome State Fault Refusal := .next (tileStep core.toNat (insDA 0x01 d a 0) s)

/-- CONST: D ← constant M. -/
def execConst (core : CoreId) (d : BitVec 5) (m : BitVec 6) (s : State) : Host.Outcome State Fault Refusal := .next (tileStep core.toNat (insDA 0x02 d 0 m) s)

/-- LDS: D ← current row of stream M (R136). -/
def execLds (core : CoreId) (d : BitVec 5) (m : BitVec 6) (words : List SramFind) (s : State) : Host.Outcome State Fault Refusal :=
  let c := core.toNat
  .next (if s.coreStopped c then s else tileStep c (insDA 0x03 d 0 m) (sramFound c words s))

/-- STS: stream M ← A, rounded (R137 to R139). -/
def execSts (core : CoreId) (a : BitVec 5) (m : BitVec 6) (s : State) : Host.Outcome State Fault Refusal := .next (tileStep core.toNat (insDA 0x04 0 a m) s)

/-- LANE: the lane index. -/
def execLane (core : CoreId) (d : BitVec 5) (s : State) : Host.Outcome State Fault Refusal := .next (tileStep core.toNat (insDA 0x05 d 0 0) s)

/-- ROWNUM: the run row number modulo 2^24 (R124). -/
def execRownum (core : CoreId) (d : BitVec 5) (s : State) : Host.Outcome State Fault Refusal := .next (tileStep core.toNat (insDA 0x06 d 0 0) s)

/-- ADD: round_ta(A + B). -/
def execAdd (core : CoreId) (d a b : BitVec 5) (s : State) : Host.Outcome State Fault Refusal := .next (tileStep core.toNat (insDAB 0x08 d a b) s)

/-- SUB: round_ta(A − B). -/
def execSub (core : CoreId) (d a b : BitVec 5) (s : State) : Host.Outcome State Fault Refusal := .next (tileStep core.toNat (insDAB 0x09 d a b) s)

/-- MUL: round_ta(A × B). -/
def execMul (core : CoreId) (d a b : BitVec 5) (s : State) : Host.Outcome State Fault Refusal := .next (tileStep core.toNat (insDAB 0x0A d a b) s)

/-- FMA: A × B + C, rounded once. -/
def execFma (core : CoreId) (d a b c : BitVec 5) (s : State) : Host.Outcome State Fault Refusal := .next (tileStep core.toNat (insDABC 0x0B d a b c) s)

/-- MIN: the lesser of A and B. -/
def execMin (core : CoreId) (d a b : BitVec 5) (s : State) : Host.Outcome State Fault Refusal := .next (tileStep core.toNat (insDAB 0x0C d a b) s)

/-- MAX: the greater of A and B. -/
def execMax (core : CoreId) (d a b : BitVec 5) (s : State) : Host.Outcome State Fault Refusal := .next (tileStep core.toNat (insDAB 0x0D d a b) s)

/-- ABS. -/
def execAbs (core : CoreId) (d a : BitVec 5) (s : State) : Host.Outcome State Fault Refusal := .next (tileStep core.toNat (insDA 0x0E d a 0) s)

/-- NEG. -/
def execNeg (core : CoreId) (d a : BitVec 5) (s : State) : Host.Outcome State Fault Refusal := .next (tileStep core.toNat (insDA 0x0F d a 0) s)

/-- SCALE: A × 2^floor(B). -/
def execScale (core : CoreId) (d a b : BitVec 5) (s : State) : Host.Outcome State Fault Refusal := .next (tileStep core.toNat (insDAB 0x10 d a b) s)

/-- FLOOR. -/
def execFloor (core : CoreId) (d a : BitVec 5) (s : State) : Host.Outcome State Fault Refusal := .next (tileStep core.toNat (insDA 0x11 d a 0) s)

/-- CMPLT. -/
def execCmplt (core : CoreId) (d a b : BitVec 5) (s : State) : Host.Outcome State Fault Refusal := .next (tileStep core.toNat (insDAB 0x12 d a b) s)

/-- CMPLE. -/
def execCmple (core : CoreId) (d a b : BitVec 5) (s : State) : Host.Outcome State Fault Refusal := .next (tileStep core.toNat (insDAB 0x13 d a b) s)

/-- CMPEQ. -/
def execCmpeq (core : CoreId) (d a b : BitVec 5) (s : State) : Host.Outcome State Fault Refusal := .next (tileStep core.toNat (insDAB 0x14 d a b) s)

/-- SEL: A where C ≠ 0 or is a NaN, else B. -/
def execSel (core : CoreId) (d a b c : BitVec 5) (s : State) : Host.Outcome State Fault Refusal := .next (tileStep core.toNat (insDABC 0x15 d a b c) s)

/-- ISFIN. -/
def execIsfin (core : CoreId) (d a : BitVec 5) (s : State) : Host.Outcome State Fault Refusal := .next (tileStep core.toNat (insDA 0x16 d a 0) s)

/-- RCP (R133). -/
def execRcp (core : CoreId) (d a : BitVec 5) (s : State) : Host.Outcome State Fault Refusal := .next (tileStep core.toNat (insDA 0x18 d a 0) s)

/-- SQRT (R133). -/
def execSqrt (core : CoreId) (d a : BitVec 5) (s : State) : Host.Outcome State Fault Refusal := .next (tileStep core.toNat (insDA 0x19 d a 0) s)

/-- RSQRT (R133). -/
def execRsqrt (core : CoreId) (d a : BitVec 5) (s : State) : Host.Outcome State Fault Refusal := .next (tileStep core.toNat (insDA 0x1A d a 0) s)

/-- EXP, to fp32s16 (R133). -/
def execExp (core : CoreId) (d a : BitVec 5) (s : State) : Host.Outcome State Fault Refusal := .next (tileStep core.toNat (insDA 0x1B d a 0) s)

/-- EXP2, to fp32s16. -/
def execExp2 (core : CoreId) (d a : BitVec 5) (s : State) : Host.Outcome State Fault Refusal := .next (tileStep core.toNat (insDA 0x1C d a 0) s)

/-- LOG, to fp32s16. -/
def execLog (core : CoreId) (d a : BitVec 5) (s : State) : Host.Outcome State Fault Refusal := .next (tileStep core.toNat (insDA 0x1D d a 0) s)

/-- LOG2, to fp32s16. -/
def execLog2 (core : CoreId) (d a : BitVec 5) (s : State) : Host.Outcome State Fault Refusal := .next (tileStep core.toNat (insDA 0x1E d a 0) s)

/-- TANH, to fp32s16. -/
def execTanh (core : CoreId) (d a : BitVec 5) (s : State) : Host.Outcome State Fault Refusal := .next (tileStep core.toNat (insDA 0x1F d a 0) s)

/-- SIGM, to fp32s16. -/
def execSigm (core : CoreId) (d a : BitVec 5) (s : State) : Host.Outcome State Fault Refusal := .next (tileStep core.toNat (insDA 0x20 d a 0) s)

/-- RAMAX: the largest finite magnitude. -/
def execRamax (core : CoreId) (d a : BitVec 5) (s : State) : Host.Outcome State Fault Refusal := .next (tileStep core.toNat (insDA 0x23 d a 0) s)

/-- RSUM: the pairwise tree over the lanes (R143, R146). -/
def execRsum (core : CoreId) (d a : BitVec 5) (m : BitVec 6) (s : State) : Host.Outcome State Fault Refusal := .next (tileStep core.toNat (insDA 0x24 d a m) s)

/-- RMAX. -/
def execRmax (core : CoreId) (d a : BitVec 5) (s : State) : Host.Outcome State Fault Refusal := .next (tileStep core.toNat (insDA 0x25 d a 0) s)

/-- RMIN. -/
def execRmin (core : CoreId) (d a : BitVec 5) (s : State) : Host.Outcome State Fault Refusal := .next (tileStep core.toNat (insDA 0x26 d a 0) s)

/-- RSUMSQ: the pairwise tree over the squares (R143, R146). -/
def execRsumsq (core : CoreId) (d a : BitVec 5) (m : BitVec 6) (s : State) : Host.Outcome State Fault Refusal := .next (tileStep core.toNat (insDA 0x27 d a m) s)

/-- CSUM: a leaf of a column tree (R143). -/
def execCsum (core : CoreId) (a : BitVec 5) (m : BitVec 6) (s : State) : Host.Outcome State Fault Refusal := .next (tileStep core.toNat (insDA 0x28 0 a m) s)

/-- CMAX. -/
def execCmax (core : CoreId) (a : BitVec 5) (m : BitVec 6) (s : State) : Host.Outcome State Fault Refusal := .next (tileStep core.toNat (insDA 0x29 0 a m) s)

/-- CGET: the root of a column tree. -/
def execCget (core : CoreId) (d : BitVec 5) (m : BitVec 6) (s : State) : Host.Outcome State Fault Refusal := .next (tileStep core.toNat (insDA 0x2A d 0 m) s)

/-- CVT: through a narrower format, counting clips (R137). -/
def execCvt (core : CoreId) (d a : BitVec 5) (m : BitVec 6) (s : State) : Host.Outcome State Fault Refusal := .next (tileStep core.toNat (insDA 0x2C d a m) s)

/-- RSCALE: a row scale and its multiplier (R49, R139). -/
def execRscale (core : CoreId) (d a : BitVec 5) (m : BitVec 6) (s : State) : Host.Outcome State Fault Refusal := .next (tileStep core.toNat (insDA 0x2D d a m) s)

/-- BSCALE: two MXFP4 block scales and their multipliers (R50, R139). -/
def execBscale (core : CoreId) (d a : BitVec 5) (s : State) : Host.Outcome State Fault Refusal := .next (tileStep core.toNat (insDA 0x2E d a 0) s)

/-- SEND of a tile program (R141). -/
def execTileSend (core : CoreId) (m : BitVec 6) (s : State) : Host.Outcome State Fault Refusal := .next (tileStep core.toNat (insDA 0x30 0 0 m) s)

end Sys2Proof.Machine
end

