-- ==== Sys2Proof/Machine/Dispatch.lean ====
section
/-! DEFINITION. One arm per command: a direct call of its meaning. -/

namespace Sys2Proof.Machine

def exec (i : Instr) (s : State) : Host.Outcome State Fault Refusal :=
  match i with
  | .loadBlock core d => Sys2Proof.Machine.execLoadBlock core d s
  | .loadBlockComplete core waited => Sys2Proof.Machine.execLoadBlockComplete core waited s
  | .pass core d residues words => Sys2Proof.Machine.execPass core d residues words s
  | .ringSegmentEntry core waited => Sys2Proof.Machine.execRingSegmentEntry core waited s
  | .side core d => Sys2Proof.Machine.execSide core d s
  | .tileprogPrologue core d => Sys2Proof.Machine.execTileprogPrologue core d s
  | .tileprogEpilogue core d => Sys2Proof.Machine.execTileprogEpilogue core d s
  | .tileprogRun core d => Sys2Proof.Machine.execTileprogRun core d s
  | .tileprogDetach core d => Sys2Proof.Machine.execTileprogDetach core d s
  | .move core d words => Sys2Proof.Machine.execMove core d words s
  | .moveComplete core finds => Sys2Proof.Machine.execMoveComplete core finds s
  | .send core d => Sys2Proof.Machine.execSend core d s
  | .sendArrival core => Sys2Proof.Machine.execSendArrival core s
  | .wait core d => Sys2Proof.Machine.execWait core d s
  | .waitResume core waited => Sys2Proof.Machine.execWaitResume core waited s
  | .waitTimeout core => Sys2Proof.Machine.execWaitTimeout core s
  | .signal core d => Sys2Proof.Machine.execSignal core d s
  | .signalTakesEffect core => Sys2Proof.Machine.execSignalTakesEffect core s
  | .fence core d => Sys2Proof.Machine.execFence core d s
  | .spill core d => Sys2Proof.Machine.execSpill core d s
  | .spillRestore core d => Sys2Proof.Machine.execSpillRestore core d s
  | .spillComplete core finds => Sys2Proof.Machine.execSpillComplete core finds s
  | .endTask core d => Sys2Proof.Machine.execEndTask core d s
  | .epilogueQueueResume core waited => Sys2Proof.Machine.execEpilogueQueueResume core waited s
  | .passResultsWritten core => Sys2Proof.Machine.execPassResultsWritten core s
  | .sideArrayLoadComplete core waited => Sys2Proof.Machine.execSideArrayLoadComplete core waited s
  | .tileBegin core => Sys2Proof.Machine.execTileBegin core s
  | .mov core d a => Sys2Proof.Machine.execMov core d a s
  | .const core d m => Sys2Proof.Machine.execConst core d m s
  | .lds core d m words => Sys2Proof.Machine.execLds core d m words s
  | .sts core a m => Sys2Proof.Machine.execSts core a m s
  | .lane core d => Sys2Proof.Machine.execLane core d s
  | .rownum core d => Sys2Proof.Machine.execRownum core d s
  | .add core d a b => Sys2Proof.Machine.execAdd core d a b s
  | .sub core d a b => Sys2Proof.Machine.execSub core d a b s
  | .mul core d a b => Sys2Proof.Machine.execMul core d a b s
  | .fma core d a b c => Sys2Proof.Machine.execFma core d a b c s
  | .min core d a b => Sys2Proof.Machine.execMin core d a b s
  | .max core d a b => Sys2Proof.Machine.execMax core d a b s
  | .abs core d a => Sys2Proof.Machine.execAbs core d a s
  | .neg core d a => Sys2Proof.Machine.execNeg core d a s
  | .scale core d a b => Sys2Proof.Machine.execScale core d a b s
  | .floor core d a => Sys2Proof.Machine.execFloor core d a s
  | .cmplt core d a b => Sys2Proof.Machine.execCmplt core d a b s
  | .cmple core d a b => Sys2Proof.Machine.execCmple core d a b s
  | .cmpeq core d a b => Sys2Proof.Machine.execCmpeq core d a b s
  | .sel core d a b c => Sys2Proof.Machine.execSel core d a b c s
  | .isfin core d a => Sys2Proof.Machine.execIsfin core d a s
  | .rcp core d a => Sys2Proof.Machine.execRcp core d a s
  | .sqrt core d a => Sys2Proof.Machine.execSqrt core d a s
  | .rsqrt core d a => Sys2Proof.Machine.execRsqrt core d a s
  | .exp core d a => Sys2Proof.Machine.execExp core d a s
  | .exp2 core d a => Sys2Proof.Machine.execExp2 core d a s
  | .log core d a => Sys2Proof.Machine.execLog core d a s
  | .log2 core d a => Sys2Proof.Machine.execLog2 core d a s
  | .tanh core d a => Sys2Proof.Machine.execTanh core d a s
  | .sigm core d a => Sys2Proof.Machine.execSigm core d a s
  | .ramax core d a => Sys2Proof.Machine.execRamax core d a s
  | .rsum core d a m => Sys2Proof.Machine.execRsum core d a m s
  | .rmax core d a => Sys2Proof.Machine.execRmax core d a s
  | .rmin core d a => Sys2Proof.Machine.execRmin core d a s
  | .rsumsq core d a m => Sys2Proof.Machine.execRsumsq core d a m s
  | .csum core a m => Sys2Proof.Machine.execCsum core a m s
  | .cmax core a m => Sys2Proof.Machine.execCmax core a m s
  | .cget core d m => Sys2Proof.Machine.execCget core d m s
  | .cvt core d a m => Sys2Proof.Machine.execCvt core d a m s
  | .rscale core d a m => Sys2Proof.Machine.execRscale core d a m s
  | .bscale core d a => Sys2Proof.Machine.execBscale core d a s
  | .tileSend core m => Sys2Proof.Machine.execTileSend core m s
  | .decisionPoint fn slot occ => Sys2Proof.Machine.execDecisionPoint fn slot occ s
  | .occurrenceStart fn slot occ => Sys2Proof.Machine.execOccurrenceStart fn slot occ s
  | .slotEndStop fn slot occ => Sys2Proof.Machine.execSlotEndStop fn slot occ s
  | .bubbleSuspend fn => Sys2Proof.Machine.execBubbleSuspend fn s
  | .bubbleResume fn => Sys2Proof.Machine.execBubbleResume fn s
  | .bubbleSubstepStart fn => Sys2Proof.Machine.execBubbleSubstepStart fn s
  | .almanacSwitch fn => Sys2Proof.Machine.execAlmanacSwitch fn s
  | .transitMeasurement group rate => Sys2Proof.Machine.execTransitMeasurement group rate s
  | .groupThermalLevel group tenths => Sys2Proof.Machine.execGroupThermalLevel group tenths s
  | .stackThermalLevel stack tenths => Sys2Proof.Machine.execStackThermalLevel stack tenths s
  | .adapterResident fn adapter outcome => Sys2Proof.Machine.execAdapterResident fn adapter outcome s
  | .earlyRead fn adapter => Sys2Proof.Machine.execEarlyRead fn adapter s
  | .expertPredictedFetch core sram len mem => Sys2Proof.Machine.execExpertPredictedFetch core sram len mem s
  | .maintActivityStart id => Sys2Proof.Machine.execMaintActivityStart id s
  | .maintActivityEnd id result => Sys2Proof.Machine.execMaintActivityEnd id result s
  | .pageMove inst page dest => Sys2Proof.Machine.execPageMove inst page dest s
  | .pageMoveComplete id finds => Sys2Proof.Machine.execPageMoveComplete id finds s
  | .rekeyPage inst page => Sys2Proof.Machine.execRekeyPage inst page s
  | .rekeyComplete inst page finds => Sys2Proof.Machine.execRekeyComplete inst page finds s
  | .lineRekeyComplete inst line => Sys2Proof.Machine.execLineRekeyComplete inst line s
  | .patrolScrubVisit part find => Sys2Proof.Machine.execPatrolScrubVisit part find s
  | .frameRetirement part frame sparedRow => Sys2Proof.Machine.execFrameRetirement part frame sparedRow s
  | .channelRecal part channel => Sys2Proof.Machine.execChannelRecal part channel s
  | .tenantScrub part frame => Sys2Proof.Machine.execTenantScrub part frame s
  | .measurementHoldEnd id => Sys2Proof.Machine.execMeasurementHoldEnd id s
  | .sweepStart fn finds => Sys2Proof.Machine.execSweepStart fn finds s
  | .sweepEnd fn => Sys2Proof.Machine.execSweepEnd fn s
  | .verdictFrame port f => Sys2Proof.Machine.execVerdictFrame port f s
  | .verdictTimeout fn job => Sys2Proof.Machine.execVerdictTimeout fn job s
  | .exportWindowResume fn job => Sys2Proof.Machine.execExportWindowResume fn job s
  | .recordSetDelivered fn job => Sys2Proof.Machine.execRecordSetDelivered fn job s
  | .workingCopyConverted fn job => Sys2Proof.Machine.execWorkingCopyConverted fn job s
  | .shardSnapshotComplete fn job => Sys2Proof.Machine.execShardSnapshotComplete fn job s
  | .portSignalDetect port => Sys2Proof.Machine.execPortSignalDetect port s
  | .linkTrainingDone port => Sys2Proof.Machine.execLinkTrainingDone port s
  | .attestationDone port identityOk digest => Sys2Proof.Machine.execAttestationDone port identityOk digest s
  | .portLossOfLock port => Sys2Proof.Machine.execPortLossOfLock port s
  | .portSilenceTimeout port => Sys2Proof.Machine.execPortSilenceTimeout port s
  | .dataFrame port f => Sys2Proof.Machine.execDataFrame port f s
  | .signalFrame port f => Sys2Proof.Machine.execSignalFrame port f s
  | .collFrame port f => Sys2Proof.Machine.execCollFrame port f s
  | .e2eAck port f => Sys2Proof.Machine.execE2eAck port f s
  | .pathDown port f => Sys2Proof.Machine.execPathDown port f s
  | .loss port f => Sys2Proof.Machine.execLoss port f s
  | .hail port f rtt => Sys2Proof.Machine.execHail port f rtt s
  | .linkAck port f => Sys2Proof.Machine.execLinkAck port f s
  | .topo port f => Sys2Proof.Machine.execTopo port f s
  | .spdmFrame port f => Sys2Proof.Machine.execSpdmFrame port f s
  | .hailTimer port => Sys2Proof.Machine.execHailTimer port s
  | .linkAckTimer port => Sys2Proof.Machine.execLinkAckTimer port s
  | .e2eAckTimer flow => Sys2Proof.Machine.execE2eAckTimer flow s
  | .flowResendTimeout dest flow => Sys2Proof.Machine.execFlowResendTimeout dest flow s
  | .flowNoPathTimeout dest flow => Sys2Proof.Machine.execFlowNoPathTimeout dest flow s
  | .memberLossTimeout dev => Sys2Proof.Machine.execMemberLossTimeout dev s
  | .linkKeyUpdate port => Sys2Proof.Machine.execLinkKeyUpdate port s
  | .collectiveComplete fn coll => Sys2Proof.Machine.execCollectiveComplete fn coll s
  | .collectiveTimeout fn coll => Sys2Proof.Machine.execCollectiveTimeout fn coll s
  | .flowMatch fn flow peerClass peerRate refused => Sys2Proof.Machine.execFlowMatch fn flow peerClass peerRate refused s
  | .flowMatchTimeout fn flow => Sys2Proof.Machine.execFlowMatchTimeout fn flow s
  | .rdmaReadResponse port req data checkOk ce => Sys2Proof.Machine.execRdmaReadResponse port req data checkOk ce s
  | .rdmaAck port req => Sys2Proof.Machine.execRdmaAck port req s
  | .rdmaNak port qpn psn => Sys2Proof.Machine.execRdmaNak port qpn psn s
  | .cnp port qpn => Sys2Proof.Machine.execCnp port qpn s
  | .incomingRequestDrop port => Sys2Proof.Machine.execIncomingRequestDrop port s
  | .rdmaAckTimeout port req => Sys2Proof.Machine.execRdmaAckTimeout port req s
  | .storageNoProgress port req => Sys2Proof.Machine.execStorageNoProgress port req s
  | .pfcFrame port pause => Sys2Proof.Machine.execPfcFrame port pause s
  | .cmdDoorbell fn value be tee => Sys2Proof.Machine.execCmdDoorbell fn value be tee s
  | .commandFetchReturn fn entries => Sys2Proof.Machine.execCommandFetchReturn fn entries s
  | .cmdEnableWrite fn value be tee => Sys2Proof.Machine.execCmdEnableWrite fn value be tee s
  | .cplEnableWrite fn value be tee => Sys2Proof.Machine.execCplEnableWrite fn value be tee s
  | .cplHeadWrite fn value be tee => Sys2Proof.Machine.execCplHeadWrite fn value be tee s
  | .summaryStatusWrite fn value be tee => Sys2Proof.Machine.execSummaryStatusWrite fn value be tee s
  | .summaryEnableWrite fn value be tee => Sys2Proof.Machine.execSummaryEnableWrite fn value be tee s
  | .causeWrite fn offset value be tee => Sys2Proof.Machine.execCauseWrite fn offset value be tee s
  | .rcRegisterRead fn offset be tee => Sys2Proof.Machine.execRcRegisterRead fn offset be tee s
  | .regLowHalfRead fn offset tee => Sys2Proof.Machine.execRegLowHalfRead fn offset tee s
  | .regHighHalfRead fn offset tee => Sys2Proof.Machine.execRegHighHalfRead fn offset tee s
  | .regLowHalfWrite fn offset value be tee => Sys2Proof.Machine.execRegLowHalfWrite fn offset value be tee s
  | .regHighHalfWrite fn offset value be tee => Sys2Proof.Machine.execRegHighHalfWrite fn offset value be tee s
  | .registerWrite fn offset value be tee => Sys2Proof.Machine.execRegisterWrite fn offset value be tee s
  | .intrHoldoffExpiry fn => Sys2Proof.Machine.execIntrHoldoffExpiry fn s
  | .msixUnmask fn => Sys2Proof.Machine.execMsixUnmask fn s
  | .hostReadCompletion tag status data finds => Sys2Proof.Machine.execHostReadCompletion tag status data finds s
  | .completionTimeout tag => Sys2Proof.Machine.execCompletionTimeout tag s
  | .flr fn => Sys2Proof.Machine.execFlr fn s
  | .pfFlr => Sys2Proof.Machine.execPfFlr s
  | .flrComplete fn => Sys2Proof.Machine.execFlrComplete fn s
  | .busMasterDisable fn => Sys2Proof.Machine.execBusMasterDisable fn s
  | .busMasterEnable fn => Sys2Proof.Machine.execBusMasterEnable fn s
  | .d3hotEntry fn => Sys2Proof.Machine.execD3hotEntry fn s
  | .d0Return fn => Sys2Proof.Machine.execD0Return fn s
  | .vfEnableClear => Sys2Proof.Machine.execVfEnableClear s
  | .vfEnableSet numVFs => Sys2Proof.Machine.execVfEnableSet numVFs s
  | .pcieLinkDown => Sys2Proof.Machine.execPcieLinkDown s
  | .pcieLinkUp rate width => Sys2Proof.Machine.execPcieLinkUp rate width s
  | .linkRetrain rate width => Sys2Proof.Machine.execLinkRetrain rate width s
  | .ideIntegrityFailure fn => Sys2Proof.Machine.execIdeIntegrityFailure fn s
  | .tdispRequest fn m via => Sys2Proof.Machine.execTdispRequest fn m via s
  | .sessionReport fn e => Sys2Proof.Machine.execSessionReport fn e s
  | .linkPolicy fn e buf => Sys2Proof.Machine.execLinkPolicy fn e buf s
  | .consent fn e => Sys2Proof.Machine.execConsent fn e s
  | .instanceCreate fn e => Sys2Proof.Machine.execInstanceCreate fn e s
  | .instanceShares fn e buf => Sys2Proof.Machine.execInstanceShares fn e buf s
  | .instanceResize fn e => Sys2Proof.Machine.execInstanceResize fn e s
  | .instanceDestroy fn e => Sys2Proof.Machine.execInstanceDestroy fn e s
  | .instanceQuery fn e => Sys2Proof.Machine.execInstanceQuery fn e s
  | .imageLoad fn e image map => Sys2Proof.Machine.execImageLoad fn e image map s
  | .imageUnload fn e => Sys2Proof.Machine.execImageUnload fn e s
  | .weightsLoad fn e manifest handles => Sys2Proof.Machine.execWeightsLoad fn e manifest handles s
  | .weightsRepair fn e manifest handles => Sys2Proof.Machine.execWeightsRepair fn e manifest handles s
  | .weightsDrop fn e => Sys2Proof.Machine.execWeightsDrop fn e s
  | .adapterRegister fn e handle => Sys2Proof.Machine.execAdapterRegister fn e handle s
  | .adapterWrite fn e buf => Sys2Proof.Machine.execAdapterWrite fn e buf s
  | .adapterRead fn e => Sys2Proof.Machine.execAdapterRead fn e s
  | .adapterFetch fn e => Sys2Proof.Machine.execAdapterFetch fn e s
  | .unregister fn e => Sys2Proof.Machine.execUnregister fn e s
  | .jobOpen fn e record tensors => Sys2Proof.Machine.execJobOpen fn e record tensors s
  | .jobClose fn e => Sys2Proof.Machine.execJobClose fn e s
  | .reshard fn e map sets hostSet => Sys2Proof.Machine.execReshard fn e map sets hostSet s
  | .jobQuery fn e => Sys2Proof.Machine.execJobQuery fn e s
  | .almanacSet fn e table => Sys2Proof.Machine.execAlmanacSet fn e table s
  | .almanacQuery fn e => Sys2Proof.Machine.execAlmanacQuery fn e s
  | .stepRun fn e list param => Sys2Proof.Machine.execStepRun fn e list param s
  | .stepCancel fn e => Sys2Proof.Machine.execStepCancel fn e s
  | .syncRead fn e => Sys2Proof.Machine.execSyncRead fn e s
  | .syncSignal fn e => Sys2Proof.Machine.execSyncSignal fn e s
  | .syncReset fn e => Sys2Proof.Machine.execSyncReset fn e s
  | .exportSet fn e handle => Sys2Proof.Machine.execExportSet fn e handle s
  | .exportAck fn e => Sys2Proof.Machine.execExportAck fn e s
  | .exportShard fn e handle ids => Sys2Proof.Machine.execExportShard fn e handle ids s
  | .portMode fn e => Sys2Proof.Machine.execPortMode fn e s
  | .portRetry fn e => Sys2Proof.Machine.execPortRetry fn e s
  | .deviceId fn e => Sys2Proof.Machine.execDeviceId fn e s
  | .qpOpen fn e => Sys2Proof.Machine.execQpOpen fn e s
  | .qpClose fn e => Sys2Proof.Machine.execQpClose fn e s
  | .engineReset fn e => Sys2Proof.Machine.execEngineReset fn e s
  | .groupTest fn e => Sys2Proof.Machine.execGroupTest fn e s
  | .recal fn e => Sys2Proof.Machine.execRecal fn e s
  | .hold fn e => Sys2Proof.Machine.execHold fn e s
  | .fwUpdate fn e buf patch => Sys2Proof.Machine.execFwUpdate fn e buf patch s
  | .freeze fn e => Sys2Proof.Machine.execFreeze fn e s
  | .save fn e handle => Sys2Proof.Machine.execSave fn e handle s
  | .restore fn e package => Sys2Proof.Machine.execRestore fn e package s
  | .thaw fn e => Sys2Proof.Machine.execThaw fn e s
  | .telemetryCores fn e => Sys2Proof.Machine.execTelemetryCores fn e s
  | .telemetryGroups fn e => Sys2Proof.Machine.execTelemetryGroups fn e s
  | .telemetryClips fn e => Sys2Proof.Machine.execTelemetryClips fn e s
  | .telemetryEnergy fn e eArray eFull mv tenths => Sys2Proof.Machine.execTelemetryEnergy fn e eArray eFull mv tenths s
  | .generationRaiseResume fn => Sys2Proof.Machine.execGenerationRaiseResume fn s
  | .engineDrainReport fn engine => Sys2Proof.Machine.execEngineDrainReport fn engine s
  | .removalFenceExpiry fn => Sys2Proof.Machine.execRemovalFenceExpiry fn s
  | .setSealSecret fn via secret => Sys2Proof.Machine.execSetSealSecret fn via secret s
  | .setMigrationKey fn via key => Sys2Proof.Machine.execSetMigrationKey fn via key s
  | .clearSecrets fn via which => Sys2Proof.Machine.execClearSecrets fn via which s
  | .spdmGetMeasurements fn via index sign slot nonce => Sys2Proof.Machine.execSpdmGetMeasurements fn via index sign slot nonce s
  | .spdmGetCertificate fn via slot => Sys2Proof.Machine.execSpdmGetCertificate fn via slot s
  | .spdmChallenge fn via slot nonce => Sys2Proof.Machine.execSpdmChallenge fn via slot nonce s
  | .spdmKeyExchange fn slot heartbeat => Sys2Proof.Machine.execSpdmKeyExchange fn slot heartbeat s
  | .spdmKeyUpdate fn via confirm => Sys2Proof.Machine.execSpdmKeyUpdate fn via confirm s
  | .timeAlign port t1 => Sys2Proof.Machine.execTimeAlign port t1 s
  | .timeAlignTimer t1 t2 t3 t4 => Sys2Proof.Machine.execTimeAlignTimer t1 t2 t3 t4 s
  | .functionReset via inst elapsed => Sys2Proof.Machine.execFunctionReset via inst elapsed s
  | .stallReset via inst elapsed => Sys2Proof.Machine.execStallReset via inst elapsed s
  | .deviceReset via elapsed => Sys2Proof.Machine.execDeviceReset via elapsed s
  | .zeroise via elapsed => Sys2Proof.Machine.execZeroise via elapsed s
  | .porterThermal via elapsed => Sys2Proof.Machine.execPorterThermal via elapsed s
  | .porterReport via inst elapsed => Sys2Proof.Machine.execPorterReport via inst elapsed s
  | .treeRead offset => Sys2Proof.Machine.execTreeRead offset s
  | .testEnter => Sys2Proof.Machine.execTestEnter s
  | .testExit => Sys2Proof.Machine.execTestExit s
  | .loopback target depth pattern ms => Sys2Proof.Machine.execLoopback target depth pattern ms s
  | .loopbackEnd records badFrames => Sys2Proof.Machine.execLoopbackEnd records badFrames s
  | .mctpSetEndpointId eid => Sys2Proof.Machine.execMctpSetEndpointId eid s
  | .dynamicAddressAssignment addr => Sys2Proof.Machine.execDynamicAddressAssignment addr s
  | .pldmGetSensor sensor measured => Sys2Proof.Machine.execPldmGetSensor sensor measured s
  | .pldmSetEventReceiver eid => Sys2Proof.Machine.execPldmSetEventReceiver eid s
  | .pcieLoopbackEntry enter => Sys2Proof.Machine.execPcieLoopbackEntry enter s
  | .tapBypass => Sys2Proof.Machine.execTapBypass s
  | .tapIdcode => Sys2Proof.Machine.execTapIdcode s
  | .tapSamplePreload preload => Sys2Proof.Machine.execTapSamplePreload preload s
  | .tapExtest => Sys2Proof.Machine.execTapExtest s
  | .tapExtestPulse => Sys2Proof.Machine.execTapExtestPulse s
  | .tapExtestTrain => Sys2Proof.Machine.execTapExtestTrain s
  | .tapReset => Sys2Proof.Machine.execTapReset s
  | .pwrokRise otp flash straps => Sys2Proof.Machine.execPwrokRise otp flash straps s
  | .pwrokFall railsInBand => Sys2Proof.Machine.execPwrokFall railsInBand s
  | .perstNFall => Sys2Proof.Machine.execPerstNFall s
  | .perstNRise => Sys2Proof.Machine.execPerstNRise s
  | .forceSafeNFall => Sys2Proof.Machine.execForceSafeNFall s
  | .forceSafeNRise => Sys2Proof.Machine.execForceSafeNRise s
  | .inputGlitch pin => Sys2Proof.Machine.execInputGlitch pin s
  | .timerefLoss => Sys2Proof.Machine.execTimerefLoss s
  | .timerefReturn => Sys2Proof.Machine.execTimerefReturn s
  | .linkRefclkLoss => Sys2Proof.Machine.execLinkRefclkLoss s
  | .linkRefclkReturn => Sys2Proof.Machine.execLinkRefclkReturn s
  | .pcieRefclkLoss => Sys2Proof.Machine.execPcieRefclkLoss s
  | .pcieRefclkReturn => Sys2Proof.Machine.execPcieRefclkReturn s
  | .supplyExcursion rail => Sys2Proof.Machine.execSupplyExcursion rail s
  | .supplyFailed rail => Sys2Proof.Machine.execSupplyFailed rail s
  | .thermalTrip isStack index => Sys2Proof.Machine.execThermalTrip isStack index s
  | .memoryTrainingComplete failedParts => Sys2Proof.Machine.execMemoryTrainingComplete failedParts s
  | .deviceResetRelease => Sys2Proof.Machine.execDeviceResetRelease s
  | .baseDigestRecheck computed => Sys2Proof.Machine.execBaseDigestRecheck computed s
  | .keyEngineError => Sys2Proof.Machine.execKeyEngineError s
  | .porterFault half => Sys2Proof.Machine.execPorterFault half s
  | .stallStateError fn => Sys2Proof.Machine.execStallStateError fn s
  | .stallResetComplete fn => Sys2Proof.Machine.execStallResetComplete fn s
  | .stallResetOverrun fn silent => Sys2Proof.Machine.execStallResetOverrun fn silent s
  | .functionResetOverrun fn => Sys2Proof.Machine.execFunctionResetOverrun fn s
  | .clerkWatchdogMiss half otherAnswers => Sys2Proof.Machine.execClerkWatchdogMiss half otherAnswers s
  | .clerkRestartComplete ok => Sys2Proof.Machine.execClerkRestartComplete ok s
  | .offer => Sys2Proof.Machine.execOffer s
  | .ready => Sys2Proof.Machine.execReady s
  | .grant => Sys2Proof.Machine.execGrant s
  | .bridgeFailure => Sys2Proof.Machine.execBridgeFailure s

end Sys2Proof.Machine
end

