-- ==== Sys2Proof/Machine/Time.lean ====
section
/-! DEFINITION. What passes while no command waits: device time (00_scope R11; log entry 1). -/

namespace Sys2Proof.Machine

/-- What follows the state of the device within the next nanosecond: NOT_AVAILABLE completions that are due (R329), freezes whose instance is quiescent (R386), sensor events (R444), and reports of changed blocks (R370). -/
def settleAll (s : State) : State := refreshReports (senseStates (settleFreezes (releasePadded s)))

/-- One nanosecond: device time rises by 1, or stands still while a backward alignment is held back (R426). -/
def idle (s : State) : State :=
  if !s.sys.phase.timed then s
  else if s.sys.heldBack > 0 then s.updSys (fun y => { y with heldBack := y.heldBack - 1 })
  else settleAll { s with now := s.now + 1 }

end Sys2Proof.Machine
end

