-- ==== Sys2Proof/Safety.lean ====
section
/-! DEFINITION. What counts as a safe state and a safe run. -/

namespace Sys2Proof.Machine

/-- The memories keep their canonical form: SRAM of every core, the spilled copies, device memory by lines. -/
def State.memWf (s : State) : Bool :=
  s.cores.all (fun c => Mem.wf c.2.sram && (match c.2.spilled with | some sp => Mem.wf sp.mem | none => true))
  && Tbl.wf ({} : Line) s.lines

/-! ## What statements read -/

/-- Lane `j` of register `r` of a core's vector engine (R131). -/
def State.lane (s : State) (core : CoreId) (r : BitVec 5) (j : Nat) : BitVec 32 := ((s.work core.toNat).eng.reg r.toNat).getD j 0

/-- A core's work goes on: no exception has stopped it. -/
def State.runs (s : State) (core : CoreId) : Prop := s.coreStopped core.toNat = false

/-- The non-finite indicator of the step a core works for (R48). -/
def State.stepNonfinite (s : State) (core : CoreId) : Prop :=
  ∃ t p, (s.work core.toNat).task = some t ∧ s.stepOf t.fn t.tag = some p ∧ p.nonfinite = true

/-- A command of a function's ring that acts: it is the function's to run, nothing that it names is busy (R330), and none of the common refusals applies (R327 to R333). -/
abbrev Accepted (fn : FnId) (e : Entry) (r : Rules) (s : State) : Prop :=
  (s.fn fn.toNat).taken.contains e = true ∧ r.busy = false ∧ whyNot fn.toNat e r s = none

/-- A step that goes on: a next state, no fault and no refusal. -/
def Goes (s : State) : Prop := ∃ t, step s = .next t

/-- A frame of a type has arrived and acts (R257 to R264): its header has no fault, the link has taken it in its LSEQ, the port is UP or the frame is one of bring-up, and it is for this device; `s1` is the state in which it acts. -/
def Received (port typ : Nat) (f : RxFrame) (s s1 : State) : Prop :=
  let h := Hdr.parse f.hdr
  h.typ = typ ∧ frameFault f h = false ∧ ∃ s0, linkAccept port f s = (true, s0) ∧ ((s0.port port).st = .up ∨ typ = 8 ∨ typ = 9 ∨ typ = 0xB) ∧
    (h.vc = 0 ∨ h.dest = s0.sys.devId.toNat) ∧ s1 = oweCredit port ((pickPool (s0.port port).buffered h).getD 10) s0

/-- A safe run of `n` steps: every one goes on. -/
def SafeRun : Nat → State → Prop
  | 0, _ => True
  | n + 1, s => ∃ t, step s = .next t ∧ SafeRun n t

end Sys2Proof.Machine

namespace Sys2Proof

/-- The register that an instruction of a tile program computes, where it only computes one and R130 allows it in the section that runs. LDS, which reads SRAM, and CVT, RSCALE and BSCALE, which count and latch, have statements of their own. -/
def Instr.laneDest (tail : Bool) : Instr → Option (CoreId × BitVec 5)
  | .const core d _ => some (core, d)
  | .lane core d => some (core, d)
  | .rownum core d => if tail then none else some (core, d)
  | .cget core d m => if tail && decide (m.toNat ≤ 3) then some (core, d) else none
  | .rsum core d _ m | .rsumsq core d _ m => if m.toNat ≤ 1 then some (core, d) else none
  | .mov core d _ | .abs core d _ | .neg core d _ | .floor core d _ | .isfin core d _ | .rcp core d _ | .sqrt core d _ | .rsqrt core d _ | .exp core d _
  | .exp2 core d _ | .log core d _ | .log2 core d _ | .tanh core d _ | .sigm core d _ | .ramax core d _ | .rmax core d _ | .rmin core d _ => some (core, d)
  | .add core d _ _ | .sub core d _ _ | .mul core d _ _ | .min core d _ _ | .max core d _ _ | .scale core d _ _ | .cmplt core d _ _ | .cmple core d _ _
  | .cmpeq core d _ _ => some (core, d)
  | .fma core d _ _ _ | .sel core d _ _ _ => some (core, d)
  | _ => none

end Sys2Proof
end

