-- ==== Sys2Proof/Certificates/Slice0/Obligations.lean ====
section
/-! DEFINITION. The statements for the provers. -/

open Sys2Proof Sys2Proof.Machine

/-! ## The queue, the step, the memories -/

/-- Step of a state with a command in front is the command's meaning on the rest of the queue. -/
def Obligations.StepRunsFront : Prop :=
  ∀ (c : Instr) (s : State), step { s with pending := c :: s.pending } = exec c s

/-- Every step that goes on takes exactly the command in front off the queue; none adds a command. Every step keeps the canonical form of every memory: SRAM of each core, the spilled copies, the lines of device memory. Where the clauses rest on the model's own choices, these are log entry 1. -/
def Obligations.StepKeepsMemories : Prop :=
  (∀ s t : State, step s = .next t → t.pending = s.pending.tail) ∧
  (∀ s t : State, s.memWf = true → step s = .next t → t.memWf = true)

/-! ## The vector engine (05_tile_programs) -/

/-- ADD, SUB, MUL, FMA, ABS, NEG, FLOOR and SCALE on every lane of a core that runs (Table 5-7), with every NaN canonical (R41). MOV, MIN, MAX, CMPLT, CMPLE, CMPEQ, SEL and ISFIN on every lane (Table 5-7): the lesser and the greater order −0 below +0 and give a NaN for a NaN; SEL takes A where C is not a zero, a NaN included. Where the clauses rest on the model's own choices, these are log entry 52. -/
def Obligations.LaneArithmetic : Prop :=
  (∀ (core : CoreId) (d a b c : BitVec 5) (s : State), s.runs core →
    let A := fun j => s.lane core a j
    let B := fun j => s.lane core b j
    let C := fun j => s.lane core c j
    (∃ t, exec (.add core d a b) s = .next t ∧ ∀ j < 64, t.lane core d j = canon32 (toF32 ((f32 (A j)).add (f32 (B j))))) ∧
    (∃ t, exec (.sub core d a b) s = .next t ∧ ∀ j < 64, t.lane core d j = canon32 (toF32 ((f32 (A j)).add (f32 (B j)).neg))) ∧
    (∃ t, exec (.mul core d a b) s = .next t ∧ ∀ j < 64, t.lane core d j = canon32 (toF32 ((f32 (A j)).mul (f32 (B j))))) ∧
    (∃ t, exec (.fma core d a b c) s = .next t ∧ ∀ j < 64, t.lane core d j = canon32 (toF32 (((f32 (A j)).mul (f32 (B j))).add (f32 (C j))))) ∧
    (∃ t, exec (.abs core d a) s = .next t ∧ ∀ j < 64, t.lane core d j = canon32 (A j &&& 0x7FFFFFFF)) ∧
    (∃ t, exec (.neg core d a) s = .next t ∧ ∀ j < 64, t.lane core d j = canon32 (A j ^^^ 0x80000000)) ∧
    (∃ t, exec (.floor core d a) s = .next t ∧ ∀ j < 64, t.lane core d j = canon32 (toF32 (floorNum (f32 (A j))))) ∧
    (∃ t, exec (.scale core d a b) s = .next t ∧ ∀ j < 64, t.lane core d j =
      canon32 (if (f32 (B j)).isFin then toF32 ((f32 (A j)).pow2 (floorInt (f32 (B j)))) else nan32))) ∧
  (∀ (core : CoreId) (d a b c : BitVec 5) (s : State), s.runs core →
    let A := fun j => s.lane core a j
    let B := fun j => s.lane core b j
    let C := fun j => s.lane core c j
    (∃ t, exec (.mov core d a) s = .next t ∧ ∀ j < 64, t.lane core d j = canon32 (A j)) ∧
    (∃ t, exec (.min core d a b) s = .next t ∧ ∀ j < 64, t.lane core d j = canon32 (lessOrGreater false (A j) (B j))) ∧
    (∃ t, exec (.max core d a b) s = .next t ∧ ∀ j < 64, t.lane core d j = canon32 (lessOrGreater true (A j) (B j))) ∧
    (∃ t, exec (.cmplt core d a b) s = .next t ∧ ∀ j < 64, t.lane core d j = if (f32 (A j)).lt (f32 (B j)) then one32 else 0) ∧
    (∃ t, exec (.cmple core d a b) s = .next t ∧ ∀ j < 64, t.lane core d j = if (f32 (A j)).lt (f32 (B j)) || (f32 (A j)).eq (f32 (B j)) then one32 else 0) ∧
    (∃ t, exec (.cmpeq core d a b) s = .next t ∧ ∀ j < 64, t.lane core d j = if (f32 (A j)).eq (f32 (B j)) then one32 else 0) ∧
    (∃ t, exec (.sel core d a b c) s = .next t ∧ ∀ j < 64, t.lane core d j = canon32 (if (f32 (C j)).isZero then B j else A j)) ∧
    (∃ t, exec (.isfin core d a) s = .next t ∧ ∀ j < 64, t.lane core d j = if (f32 (A j)).isFin then one32 else 0))

/-- RCP, SQRT and RSQRT are correctly rounded; EXP, EXP2, LOG, LOG2, TANH and SIGM leave the lowest seven bits of every lane zero (R133), and all of them give the canonical NaN for a NaN (R41). Where the clauses rest on the model's own choices, these are log entry 12. -/
def Obligations.LaneFunctions : Prop :=
  ∀ (core : CoreId) (d a : BitVec 5) (s : State), s.runs core →
    let A := fun j => s.lane core a j
    let short := fun (t : State) => ∀ j < 64, (t.lane core d j).toNat % 128 = 0 ∧ (f32 (A j) = .nan → t.lane core d j = nan32)
    (∃ t, exec (.rcp core d a) s = .next t ∧ ∀ j < 64, t.lane core d j = canon32 (BitVec.ofNat 32 (divConv fp32 (.fin false 1 0) (f32 (A j))).code)) ∧
    (∃ t, exec (.sqrt core d a) s = .next t ∧ ∀ j < 64, t.lane core d j = canon32 (BitVec.ofNat 32 (sqrtConv fp32 (f32 (A j))).code)) ∧
    (∃ t, exec (.rsqrt core d a) s = .next t ∧ ∀ j < 64, t.lane core d j = canon32 (BitVec.ofNat 32 (rsqrtConv fp32 (f32 (A j))).code)) ∧
    (∃ t, exec (.exp core d a) s = .next t ∧ short t ∧ ∀ j < 64, t.lane core d j = canon32 (approxOp .exp (A j))) ∧
    (∃ t, exec (.exp2 core d a) s = .next t ∧ short t ∧ ∀ j < 64, t.lane core d j = canon32 (approxOp .exp2 (A j))) ∧
    (∃ t, exec (.log core d a) s = .next t ∧ short t ∧ ∀ j < 64, t.lane core d j = canon32 (approxOp .log (A j))) ∧
    (∃ t, exec (.log2 core d a) s = .next t ∧ short t ∧ ∀ j < 64, t.lane core d j = canon32 (approxOp .log2 (A j))) ∧
    (∃ t, exec (.tanh core d a) s = .next t ∧ short t ∧ ∀ j < 64, t.lane core d j = canon32 (approxOp .tanh (A j))) ∧
    (∃ t, exec (.sigm core d a) s = .next t ∧ short t ∧ ∀ j < 64, t.lane core d j = canon32 (approxOp .sigm (A j)))

/-- The row reductions put one value into every lane (Table 5-7, R143, R146): the largest finite magnitude, the sum and the sum of squares over the pairwise tree, the maximum and the minimum. S = 1 rounds the leaves in faithful mode with STATFMT = 1. -/
def Obligations.RowReductions : Prop :=
  ∀ (core : CoreId) (d a : BitVec 5) (m : BitVec 6) (s : State), s.runs core → m.toNat ≤ 1 →
    let e := (s.work core.toNat).eng
    let stat := m == 1 && !e.wide && (argHdr e.args).statfmt
    let put := fun (t : State) (v : BitVec 32) => ∀ j < 64, t.lane core d j = canon32 v
    (∃ t, exec (.ramax core d a) s = .next t ∧ put t (reduceRow 0x23 false (e.reg a.toNat))) ∧
    (∃ t, exec (.rsum core d a m) s = .next t ∧ put t (reduceRow 0x24 stat (e.reg a.toNat))) ∧
    (∃ t, exec (.rsumsq core d a m) s = .next t ∧ put t (reduceRow 0x27 stat (e.reg a.toNat))) ∧
    (∃ t, exec (.rmax core d a) s = .next t ∧ put t (reduceRow 0x25 false (e.reg a.toNat))) ∧
    (∃ t, exec (.rmin core d a) s = .next t ∧ put t (reduceRow 0x26 false (e.reg a.toNat)))

/-- CSUM and CMAX put A's lanes into a column tree at the row's index; CGET gives the tree's root over rows 0 to 63, by maximum where CMAX filled it, +0 where it has no leaf (R143). -/
def Obligations.ColumnTrees : Prop :=
  ∀ (core : CoreId) (d a : BitVec 5) (m : BitVec 6) (s : State), s.runs core → m.toNat ≤ 3 →
    let e := (s.work core.toNat).eng
    let leaf := fun (t : State) => Tbl.get [] (Tbl.get [] (t.work core.toNat).eng.trees m.toNat) e.row
    (e.inTail = false → ∃ t, exec (.csum core a m) s = .next t ∧ leaf t = (e.lanes a.toNat).map canon32 ∧ (t.work core.toNat).eng.maxTrees.contains m.toNat = false) ∧
    (e.inTail = false → ∃ t, exec (.cmax core a m) s = .next t ∧ leaf t = (e.lanes a.toNat).map canon32 ∧ (t.work core.toNat).eng.maxTrees.contains m.toNat = true) ∧
    (e.inTail = true → ∃ t, exec (.cget core d m) s = .next t ∧
      ∀ j < 64, t.lane core d j = canon32 ((columnRoot (e.maxTrees.contains m.toNat) (Tbl.get [] e.trees m.toNat)).getD j 0))

/-! ## The rings (12_host_interface, 13_command_set) -/

/-- A completion is written where the link is up, the function holds none back, and the ring has room: one 32-byte entry at CPL_BASE + 32 × CPL_TAIL under the current phase, CPL_TAIL goes on, and the phase changes when it wraps. Without room the completion is held behind those held before. While the link is down nothing is written or held. Where the clauses rest on the model's own choices, these are log entry 49. -/
def Obligations.CompletionPosted : Prop :=
  ∀ (fn : Nat) (c : Cpl) (s : State), c.bound = none → c.flags = 0 →
    let f := s.fn fn
    let t := post fn c s
    (s.sys.linkUp = true → f.held = [] → f.cplRoom = true → f.mayWrite = true →
      Out.completion fn (f.cplBase.toNat + 32 * f.cplTail.toNat) (c.word f.cplPhase 0 s.now.toNat) ∈ t.out ∧
      (t.fn fn).cplTail = (if f.cplTail.toNat + 1 = 2 ^ f.cplSize.toNat then 0 else f.cplTail + 1) ∧
      (t.fn fn).cplPhase = (if f.cplTail.toNat + 1 = 2 ^ f.cplSize.toNat then !f.cplPhase else f.cplPhase) ∧
      (t.fn fn).held = []) ∧
    (s.sys.linkUp = true → (f.held ≠ [] ∨ f.cplRoom = false ∨ f.mayWrite = false) → (t.fn fn).held = f.held ++ [c] ∧ t.out = s.out) ∧
    (s.sys.linkUp = false → t = s)

/-- The order of the common refusals: a PF command of another function is BAD_COMMAND, an object of another instance NOT_AVAILABLE, an instance in TDI ERROR (but for SESSION) or frozen REFUSED_STATE, no stall REFUSED_STATE (BAD_COMMAND for the PF; log entry 27), a missing object NOT_AVAILABLE, an undefined bit or encoding BAD_COMMAND. A refused command changes nothing but its ring and its completion; one not in its ring, or whose object is busy, changes nothing. -/
def Obligations.CommandRefused : Prop :=
  ∀ (fn : FnId) (e : Entry) (r : Rules) (act : State → State) (s : State),
    let i := fn.toNat
    let n := s.inst i
    ((s.fn i).taken.contains e = false ∨ r.busy = true → runCmd i e r act s = s) ∧
    ((s.fn i).taken.contains e = true → r.busy = false →
      let no := fun (st : Nat) => runCmd i e r act s = if st = St.notAvailable then notHere i e (takeOff i e s) else refuseCmd i e st (takeOff i e s)
      if r.pf = true ∧ i ≠ 0 then no St.badCommand
      else if r.foreign = true then no St.notAvailable
      else if n.tdi = .error ∧ eFamily e ≠ 1 then no St.refusedState
      else if n.frozen = true ∧ r.frozen = false then no St.refusedState
      else if r.stall = true ∧ n.stall = none then no (if i = 0 then St.badCommand else St.refusedState)
      else if r.missing = true then no St.notAvailable
      else if onlyFields e r.fields = false ∨ addrsOk e = false ∨ r.bad = true then no St.badCommand
      else runCmd i e r act s = act (takeOff i e s))

/-- SESSION. REPORT writes the report and completes with its length. LINK_POLICY stores one 384-bit digest for every 48 bytes. CONSENT records DEBUG and PROFILE of an instance other than 0, and answers 3 for instance 0. Where the clauses rest on the model's own choices, these are log entries 8, 14. -/
def Obligations.SessionCompletes : Prop :=
  ∀ (fn : FnId) (e : Entry) (bs : Bytes) (s : State),
    let i := fn.toNat
    let s0 := takeOff i e s
    let n := eBytes e
    (Accepted fn e { fields := buf1, frozen := true } s → (s0.inst i).reported = blockInputs s0 i → (s0.inst i).report.length ≤ n → (s0.fn i).mayWrite = true →
      exec (.sessionReport fn e) s = .next (answerCmd i e St.done (s0.inst i).report.length (hostWrite i (eAddr e) (s0.inst i).report s0))) ∧
    (Accepted fn e { fields := buf1, pf := true, frozen := true, bad := n == 0 || n % 48 != 0 } s → n ≤ 3072 → (s0.fn i).mayWrite = true →
      exec (.linkPolicy fn e (some bs)) s =
        .next (answerCmd i e St.done 0 (s0.updSys (fun y => { y with linkPolicy := (chunks 48 (n / 48) (sub bs 0 n)).map (fun d => BitVec.ofNat 384 (leNat d)) })))) ∧
    (Accepted fn e { fields := objBits ++ [(353, 352)], frozen := true, foreign := eObj e != i, busy := s.instBusy i } s →
      exec (.consent fn e) s = .next (if i = 0 then answerCmd i e St.done 3 s0
        else answerCmd i e St.done (fld e 353 352) (s0.updInst i (fun x => { x with debug := bit e 352, profile := bit e 353 }))))

/-- INSTANCE. CREATE gives a function that exists and has no stall the stall that fits, with its cores and objects cleared and its generation raised. RESIZE that only replaces groups out of service swaps them under a loaded image. SHARES records the set weights. DESTROY begins the removal of an instance other than 0, and moves a locked or running TDI to ERROR. QUERY answers the instance's record. Where the clauses rest on the model's own choices, these are log entries 28, 43. -/
def Obligations.InstanceCompletes : Prop :=
  ∀ (fn : FnId) (e : Entry) (bs : Bytes) (st : Stall) (s s1 : State),
    let i := fn.toNat
    let o := eObj e
    let s0 := takeOff i e s
    (Accepted fn e { fields := askFields, pf := true, bad := decide (o ≥ 64) || (askOf e).groups == 0, busy := s.instBusy o } s →
      s0.stall o = none → s0.fnExists o = true → s0.sys.testState = false → planStall s0 o (askOf e) = some (st, s1) →
      exec (.instanceCreate fn e) s =
        .next (answerCmd i e St.done st.ranges (followHeat o ((raiseOrWait o (clearCores st.cores (dropObjects st s1))).updInst o (fun n => { n with stall := some st }))))) ∧
    (Accepted fn e { fields := askFields, pf := true, bad := decide (o ≥ 64) || (askOf e).groups == 0, busy := s.instBusy o } s →
      s0.stall o = some st → (s0.inst o).image.isSome = true → onlyReplaces s0 st (askOf e) = true →
      exec (.instanceResize fn e) s = .next (answerCmd i e St.done st.ranges (swapGroups relocateAgain o st (askOf e) s0))) ∧
    (Accepted fn e { fields := objBits ++ buf1, pf := true, bad := decide (o ≥ 64) || eBytes e != 128, busy := s.instBusy o } s →
      (s0.stall o).isSome = true → (s0.fn i).mayWrite = true →
      exec (.instanceShares fn e (some bs)) s = .next (sharesStall i e (sub bs 0 128) s0)) ∧
    (Accepted fn e { fields := objBits, pf := true, bad := decide (o ≥ 64), missing := decide (o < 64) && !s.fnExists o, busy := s.instBusy o } s → o ≠ 0 →
      exec (.instanceDestroy fn e) s =
        .next ((removeInst o (some (eTag e)) false s0).updInst o (fun n => { n with tdi := if tdiHolds n then .error else n.tdi }))) ∧
    (Accepted fn e { fields := objBits, frozen := true, foreign := i != 0 && o != i, missing := decide (o ≥ 64) || !s.fnExists o, busy := i == 0 && s.instBusy o } s →
      exec (.instanceQuery fn e) s = .next (answerCmd i e St.done (queryResult s0 o) s0))

/-- IMAGE. LOAD of an image without a step map, while no base model is being checked, checks and loads what the buffer holds. UNLOAD of an image without steps or jobs closes its flows, drops its objects and pages, and completes. Where the clauses rest on the model's own choices, these are log entry 42. -/
def Obligations.ImageCompletes : Prop :=
  ∀ (fn : FnId) (e : Entry) (bs : Bytes) (map : Buf) (st : Stall) (im : Image) (s : State),
    let i := fn.toNat
    let s0 := takeOff i e s
    (Accepted fn e { fields := buf1 ++ buf2, stall := true, busy := s.instBusy i || s.mapWaits i } s → (s0.inst i).image = none → eBytes2 e = 0 → s0.sys.baseRecheck = false →
      (s0.fn i).mayWrite = true → exec (.imageLoad fn e (some bs) map) s = .next (loadImage i (eTag e) (sub bs 0 (eBytes e)) (parseMap []) s0)) ∧
    (Accepted fn e { fields := [], stall := true, busy := s.instBusy i } s → s0.stall i = some st → (s0.inst i).image = some im → (s0.inst i).steps = [] → (s0.inst i).jobs = [] →
      exec (.imageUnload fn e) s = .next (answerCmd i e St.done 0 (unloadImage i st im s0)))

/-- WEIGHTS. LOAD, with no base model held and no image loaded, and REPAIR begin with the manifest and the handles of their buffers. DROP, with no image loaded, drops the base model. ADAPTER. REGISTER enters an adapter of the fast or slow tier under a free id and within the share. WRITE hands the bytes over. READ of a master on the device writes it. FETCH of a resident adapter completes at once; else the fetch joins the order of claims. UNREGISTER ends the waiting steps that name the adapter, and takes effect at a step boundary. Where the clauses rest on the model's own choices, these are log entries 19, 31. -/
def Obligations.WeightsAndAdapters : Prop :=
  (∀ (fn : FnId) (e : Entry) (m h : Bytes) (s : State),
    let i := fn.toNat
    let s0 := takeOff i e s
    (Accepted fn e (weightsRules s e) s → s0.base.loaded = false → anyImage s0 = false → (s0.fn i).mayWrite = true →
      exec (.weightsLoad fn e (some m) (some h)) s = .next (startWeights e (sub m 0 (eBytes e)) (sub h 0 (eBytes2 e)) s0)) ∧
    (Accepted fn e (weightsRules s e) s → (s0.fn i).mayWrite = true →
      exec (.weightsRepair fn e (some m) (some h)) s = .next (startRepair e (sub m 0 (eBytes e)) (sub h 0 (eBytes2 e)) s0)) ∧
    (Accepted fn e { fields := [], pf := true, busy := s.base.load.isSome || s.sys.baseRecheck } s → anyImage s0 = false →
      exec (.weightsDrop fn e) s = .next (answerCmd i e St.done 0 (dropBase s0)))) ∧
  (∀ (fn : FnId) (e : Entry) (bs : Bytes) (a : Adapter) (st : Stall) (s : State),
    let i := fn.toNat
    let id := eObj e
    let s0 := takeOff i e s
    (Accepted fn e { fields := objBits ++ buf1 ++ [(356, 352), (383, 368), (384, 384), (447, 416)], stall := true, foreign := ownerBits id != i, busy := adapterBusy s i id
                     bad := id % 2 ^ 26 == 2 ^ 26 - 1 || decide (fld e 354 352 > 4) || (bit e 355 && bit e 356) || fld e 447 416 == 0 || (eAddr e != 0 || eBytes e != 0) } s →
      bit e 384 = false → s0.adapterOf i id = none → s0.catalogue < 65536 → (s0.inst i).stall = some st → (s0.inst i).adapters.length < st.cat →
      exec (.adapterRegister fn e none) s = .next (answerCmd i e St.done 0 (s0.updInst i (fun n => { n with adapters := n.adapters ++ [regOf s0 i e []] })))) ∧
    (Accepted fn e { adapterRules s i e buf1 with bad := eBytes e != a.size } s → s.adapterOf i id = some a → s0.inJob i id = false → (s0.fn i).mayWrite = true →
      exec (.adapterWrite fn e (some bs)) s = .next (applyWrite i id (s0.updAdapter i id (fun a => { a with pendingWrite := some (eTag e, sub bs 0 (eBytes e)) })))) ∧
    (Accepted fn e (adapterRules s i e buf1) s → s0.adapterOf i id = some a → a.size ≤ eBytes e → a.master.length = a.size → a.poisoned = false → a.away = false → (s0.fn i).mayWrite = true →
      exec (.adapterRead fn e) s = .next (answerCmd i e St.done a.size (hostWrite i (eAddr e) a.master s0))) ∧
    (Accepted fn e (adapterRules s i e []) s → s0.adapterOf i id = some a → s0.stall i = some st → a.resident = true →
      exec (.adapterFetch fn e) s = .next (answerCmd i e St.done 0 s0)) ∧
    (Accepted fn e (adapterRules s i e []) s → s0.adapterOf i id = some a → s0.stall i = some st → a.resident = false → st.hot ≠ 0 → s0.fixedUnits i + a.pages ≤ st.fast →
      exec (.adapterFetch fn e) s = .next (startFetches i (s0.updAdapter i id (fun a => { a with
        fetchTag := some (eTag e), fetchBehind := ((s0.inst i).steps.filter Step.waits).map (·.tag) })))) ∧
    (Accepted fn e (adapterRules s i e []) s → s0.inJob i id = false → (s0.inst i).steps = [] →
      exec (.unregister fn e) s = .next (stepBoundary i (s0.updAdapter i id (fun a => { a with unregTag := some (eTag e) })))))

/-- JOB. OPEN of a sound record reads its tensor table. CLOSE of a job that no step uses, without re-shard or contribution, closes it. QUERY answers COMMITTED, the state, the export's mode and WORKING. RESHARD of a ready job within its square is accepted. Where the clauses rest on the model's own choices, these are log entries 33, 43. -/
def Obligations.JobCompletes : Prop :=
  ∀ (fn : FnId) (e : Entry) (bs tab : Bytes) (sets hostSet : Buf) (j : Job) (s : State),
    let i := fn.toNat
    let s0 := takeOff i e s
    (Accepted fn e { fields := buf1 ++ buf2, stall := true, busy := s.instBusy i || s.mapWaits i, bad := decide (eBytes e < 72) || eBytes2 e % 64 != 0 } s → (s0.fn i).mayWrite = true →
      recordBad s0.sys.devId.toNat e (sub bs 0 (eBytes e)) = false →
      exec (.jobOpen fn e (some bs) (some tab)) s = .next (readTable i e (sub bs 0 (eBytes e)) (sub tab 0 (eBytes2 e)) s0)) ∧
    (Accepted fn e { jobRules s i e [] with busy := j.snapshot.isSome } s → s.jobOf i (eObj e) = some j → (s0.inst i).steps = [] → j.reshard = none → j.contributed = false →
      exec (.jobClose fn e) s = .next (answerCmd i e St.done 0 (startFetches i (closeJob i j s0)))) ∧
    (Accepted fn e (jobRules s i e []) s → s0.jobOf i (eObj e) = some j →
      exec (.jobQuery fn e) s = .next (answerCmd i e St.done (j.committed % 2 ^ 64 + j.st.code <<< 64 + (match j.exp with | some x => x.spec.mode | none => 0) <<< 66 + b2n j.working <<< 68) s0)) ∧
    (Accepted fn e { jobRules s i e (buf1 ++ buf2 ++ [(415, 352), (416, 416)]) with
                     busy := j.reshard.isSome, bad := eBytes e == 0 || eBytes e % 8 != 0 || (eAddr2 e != 0 || eBytes2 e != 0) } s → bit e 416 = false →
      s.jobOf i (eObj e) = some j → (s0.fn i).mayWrite = true → reshardMapOk s0.sys.devId.toNat j (sub bs 0 (eBytes e)) = true →
      reshardReady j (parseMap (sub bs 0 (eBytes e))) (fld e 415 352) false = true → jobSquares s0 i (parseMap (sub bs 0 (eBytes e))) = true →
      exec (.reshard fn e (some bs) sets hostSet) s = .next (acceptReshard i e (parseMap (sub bs 0 (eBytes e))) [] none s0))

/-- STEP. RUN of a step that is not fine-tuning, with its list, whose adapters are its own, whose runs fill its rows and which admission takes, joins the instance's steps. CANCEL ends a step that waits with ABORTED_HOST and answers 1; a step that has been accepted stays, with the answer 0. Where the clauses rest on the model's own choices, these are log entry 43. -/
def Obligations.StepCommands : Prop :=
  ∀ (fn : FnId) (e : Entry) (bs : Bytes) (param : Buf) (st : Stall) (pr : Program) (p : Step) (s : State),
    let i := fn.toNat
    let s0 := takeOff i e s
    let runs := parseRuns (bit e 362) (sub bs 0 (listBytes e)) (listCount e) 0
    let q : Step := { stepOfEntry e with runs := runs, lr := 0, gmul := 0, eTs := [] }
    (Accepted fn e { fields := stepFields, stall := true, bad := stepBad s i e } s → fld e 361 360 ≠ 1 → (s0.inst i).image.isSome = true → (s0.fn i).mayWrite = true →
      runs.any (fun r => idMissing s0 i r.1) = false → runsBad q runs = false → s0.stall i = some st → s0.progOf i (fld e 359 352) = some pr → stepRefusal s0 i st pr q = none →
      exec (.stepRun fn e (some bs) param) s = .next (enterStep i q s0)) ∧
    (Accepted fn e { fields := objBits, stall := true } s → s0.stepOf i (eObj e) = some p →
      exec (.stepCancel fn e) s = .next (if p.waits then answerCmd i e St.done 1 (startFetches i (endStep i p.tag St.abortedHost 0 s0)) else answerCmd i e St.done 0 s0))

/-- ALMANAC. SET of a sound table, for a stall with an image whose programs suit the slots, lets it wait for its START: the next cycle's boundary where START is 0. QUERY answers START, CYCLE and the number of slots. SYNC. READ answers the record of Table 8-9, SIGNAL acts on an object of its kind, RESET gives back the declared initial state. Where the clauses rest on the model's own choices, these are log entries 29, 43, 46. -/
def Obligations.AlmanacAndSync : Prop :=
  (∀ (fn : FnId) (e : Entry) (bs : Bytes) (tbl : Almanac) (st : Stall) (im : Image) (s : State),
    let i := fn.toNat
    let s0 := takeOff i e s
    (Accepted fn e { fields := buf1, stall := true, bad := decide (eBytes e < 32) || decide (eBytes e > 1040), busy := (s.inst i).nextAlmanac.isSome } s → (s0.fn i).mayWrite = true →
      parseTable (sub bs 0 (eBytes e)) = some tbl → s0.stall i = some st → (s0.inst i).image = some im →
      wrongClass im tbl = false →
      tbl.slots.any (fun sl => sl.bubble && !outlasts s0 st sl.length) = false → unaligned s0 = false →
      exec (.almanacSet fn e (some bs)) s = .next (s0.updInst i (fun n => { n with
        nextAlmanac := some { tbl with start := if tbl.start = 0 then (s0.now.toNat / tbl.cycle + 1) * tbl.cycle else tbl.start, tag := some (eTag e) } }))) ∧
    (Accepted fn e { fields := [], stall := true } s →
      exec (.almanacQuery fn e) s = .next (answerCmd i e St.done (match (s0.inst i).almanac with | some t => t.start + t.cycle <<< 64 + t.slots.length <<< 96 | none => 0) s0))) ∧
  (∀ (fn : FnId) (e : Entry) (s : State),
    let i := fn.toNat
    let o := eObj e
    let s0 := takeOff i e s
    (Accepted fn e { fields := objBits, stall := true, foreign := !s.ownsObj i o } s → exec (.syncRead fn e) s = .next (answerCmd i e St.done (objRecord s0 i o) s0)) ∧
    (Accepted fn e { fields := objBits ++ [(353, 352), (415, 384)], stall := true, foreign := !s.ownsObj i o
                     bad := fld e 353 352 == 3 || (fld e 353 352 == 0) != (fld e 415 384 != 0) || (s.obj o).kind.toNat != fld e 353 352 } s →
      exec (.syncSignal fn e) s = .next (answerCmd i e St.done 0 (signalKind i o (fld e 353 352) (fld e 415 384) s0).1)) ∧
    (Accepted fn e { fields := objBits, stall := true, foreign := !s.ownsObj i o } s →
      exec (.syncReset fn e) s = .next (answerCmd i e St.done 0 (s0.updObj o SyncObj.renew))))

/-- EXPORT. SET with MODE 0 ends the export. ACK frees the slots up to COMMITTED and lets the next set go. SHARD without storage takes the snapshot of the named shard. Where the clauses rest on the model's own choices, these are log entry 43. -/
def Obligations.ExportCommands : Prop :=
  ∀ (fn : FnId) (e : Entry) (ids : Bytes) (handle : Buf) (j : Job) (s : State),
    let i := fn.toNat
    let o := eObj e
    let s0 := takeOff i e s
    (Accepted fn e { fields := objBits ++ buf1 ++ [(319, 256), (353, 352), (354, 354), (367, 360), (415, 384)], stall := true, missing := (s.jobOf i o).isNone } s →
      fld e 353 352 = 0 → s.jobOf i o = some j → j.exp = none →
      exec (.exportSet fn e handle) s = .next (answerCmd i e St.done 0 s0)) ∧
    (Accepted fn e { fields := objBits ++ [(415, 352)], stall := true, missing := j.exp.isNone } s → s.jobOf i o = some j →
      exec (.exportAck fn e) s = .next (exportPump i o (answerCmd i e St.done 0 (s0.updJob i o (fun j => { j with
        exp := j.exp.map (fun x => { x with acked := max x.acked (min (fld e 415 352) j.committed) }) }))))) ∧
    (Accepted fn e { fields := objBits ++ buf1 ++ buf2 ++ [(354, 354), (399, 384), (415, 400)], stall := true
                     busy := j.snapshot.isSome || shardOpen s i
                     bad := eBytes2 e % 4 != 0 || eBytes2 e == 0 || decide (fld e 399 384 ≥ fld e 415 400) } s →
      bit e 354 = false → s.jobOf i o = some j → (s0.fn i).mayWrite = true →
      exec (.exportShard fn e handle (some ids)) s = .next (startShard i e [] (sub ids 0 (eBytes2 e)) s0))

/-- MAINT. PORT_MODE of a port that is not in use sets the mode; PORT_RETRY takes a refused port to DOWN; DEVICE_ID, with no flow open, records the identity; QP_OPEN on a storage port gives the lowest free number; QP_CLOSE removes a pair without requests; ENGINE_RESET resets a DMA engine or a link engine. MAINT activities: GROUP_TEST of a group of no stall, RECAL of one channel, HOLD of parts for 1 to 60 seconds and FW_UPDATE of a signed patch are declared, and start at once where the arbiter lets them; else they are answered QUEUED. Where the clauses rest on the model's own choices, these are log entries 43, 48. -/
def Obligations.MaintCommands : Prop :=
  (∀ (fn : FnId) (e : Entry) (s : State),
    let i := fn.toNat
    let o := eObj e
    let s0 := takeOff i e s
    let port := fld e 358 352
    let m := modeOf (fld e 361 360)
    (Accepted fn e (maintRules [(358, 352), (361, 360)] (decide (port ≥ 96) || fld e 361 360 == 3)) s → (s0.port port).loop = false → (s0.port port).mode ≠ m →
      portInUse s0 port = false → (m ≠ .storage ∨ storagePorts s0 port < 8) → exec (.portMode fn e) s = .next (answerCmd i e St.done 0 (setMode port m s0))) ∧
    (Accepted fn e (maintRules [(358, 352)] (decide (port ≥ 96))) s → (s0.port port).st = .refused →
      exec (.portRetry fn e) s = .next (answerCmd i e St.done 0 (s0.updPort port (fun p => { p with st := .down })))) ∧
    (Accepted fn e (maintRules [(365, 352), (375, 368), (381, 376)] (fld e 365 352 != fld e 375 368 * 48 + fld e 381 376 || decide (fld e 381 376 ≥ 48))) s →
      s0.flowSrc.any (fun f => f.2.opened) = false → s0.flowDst.any (fun f => f.2.opened) = false →
      exec (.deviceId fn e) s = .next (answerCmd i e St.done 0 (ownTopoChange (s0.updSys (fun y => { y with
        devId := BitVec.ofNat 14 (fld e 365 352), square := BitVec.ofNat 8 (fld e 375 368), pos := BitVec.ofNat 6 (fld e 381 376) }))))) ∧
    (Accepted fn e { maintRules (objBits ++ [(358, 352), (384, 384), (639, 512)]) (decide (port ≥ 96)) with missing := decide (o ≥ 64) || !s.fnExists o, busy := s.instBusy o } s →
      (s0.port port).mode = .storage → (s0.qps.filter (fun q => q.port == port)).length < 256 →
      exec (.qpOpen fn e) s = .next (answerCmd i e St.done (freeQpn s0 port) { s0 with qps := s0.qps ++ [{ port := port, qpn := freeQpn s0 port, fn := o, gen := (s0.inst o).gen.toNat, lgid := BitVec.ofNat 128 (fld e 639 512), ipv6 := bit e 384 }] })) ∧
    (Accepted fn e { maintRules [(358, 352), (407, 384)] (decide (port ≥ 96)) with missing := s.qps.all (fun q => !(q.port == port && q.qpn == fld e 407 384)) } s →
      s0.rdmas.any (fun r => r.port == port && r.qpn == fld e 407 384) = false →
      exec (.qpClose fn e) s = .next (answerCmd i e St.done 0 { s0 with qps := s0.qps.filter (fun q => !(q.port == port && q.qpn == fld e 407 384)) })) ∧
    (Accepted fn e (maintRules [(359, 352)] (decide (fld e 359 353 ≥ if bit e 352 then 96 else 32))) s →
      exec (.engineReset fn e) s = .next (answerCmd i e St.done 0 (if bit e 352 then resetLink (fld e 359 353) s0 else resetDma (fld e 359 353) s0)))) ∧
  (∀ (fn : FnId) (e : Entry) (bs : Bytes) (patch : Patch) (s : State),
    let i := fn.toNat
    let s0 := takeOff i e s
    let part := fld e 356 353 + (if bit e 352 then 12 else 0)
    (Accepted fn e (maintRules [(357, 352)] false) s → s0.ownerOf (fld e 357 352) = none →
      exec (.groupTest fn e) s = .next (runActivity e .cg [.group (fld e 357 352)] (fld e 357 352) none s0)) ∧
    (Accepted fn e (maintRules [(363, 352)] (!bit e 352 && decide (part ≥ 12))) s →
      exec (.recal fn e) s = .next (runActivity e .pc [.channel part (fld e 363 357)] (part + fld e 363 357 <<< 5) none s0)) ∧
    (Accepted fn e (maintRules [(379, 352), (391, 384)] (fld e 391 384 == 0 || decide (fld e 391 384 > 60))) s →
      exec (.hold fn e) s = .next (runActivity e .mh ((bitsOf 28 (fld e 379 352)).map .part) (fld e 391 384) (some (s0.now.toNat + fld e 391 384 * 1000000000)) s0)) ∧
    (Accepted fn e (maintRules buf1 false) s → (s0.fn i).mayWrite = true → patch.sigOk = true →
      exec (.fwUpdate fn e (some bs) patch) s = .next (runActivity e .fw [.otherClerk, .token] patch.level.toNat none s0)) ∧
    (Accepted fn e (maintRules buf1 false) s → (s0.fn i).mayWrite = true → patch.sigOk = false →
      exec (.fwUpdate fn e (some bs) patch) s = .next (refuseCmd i e St.badImage (raiseDev 11 6 0 s0))))

/-- MIGRATE. FREEZE of an instance without waiting steps begins its freeze; THAW lets a frozen one go on; SAVE and RESTORE, without a region, take their package to and from the host buffer. TELEMETRY. CORES writes Table 3-2 of every core of the stall in its order, GROUPS Table 8-7 of every group, CLIPS the counts of every pair of the image, each with the number of records; ENERGY of a group of no stall answers what was measured. Where the clauses rest on the model's own choices, these are log entries 34, 43. -/
def Obligations.MigrateAndTelemetry : Prop :=
  (∀ (fn : FnId) (e : Entry) (bs : Bytes) (handle : Buf) (st : Stall) (key : BitVec 256) (s : State),
    let i := fn.toNat
    let o := eObj e
    let s0 := takeOff i e s
    (Accepted fn e (migrateRules s e []) s → o ≠ 0 → (s0.inst o).stall.isSome = true → (s0.inst o).frozen = false → tdiHolds (s0.inst o) = false → flowsOpen s0 o = false → (s0.inst o).steps = [] →
      exec (.freeze fn e) s = .next (settleFreeze o (s0.updInst o (fun n => { n with freezing := some (eTag e) })))) ∧
    (Accepted fn e (migrateRules s e []) s → (s0.inst o).frozen = true →
      exec (.thaw fn e) s = .next (answerCmd i e St.done 0 (s0.updInst o (fun n => { n with frozen := false })))) ∧
    (Accepted fn e { migrateRules s e regionFields with bad := bit e 352 && eBytes e != 64 } s → s0.stall o = some st → (s0.inst o).migKey = some key → (s0.inst o).frozen = true → bit e 352 = false →
      exec (.save fn e handle) s = .next (savePackage e st key none s0)) ∧
    (Accepted fn e { migrateRules s e regionFields with bad := bit e 352 && eBytes e != 64 } s → (s0.fn i).mayWrite = true → bit e 352 = false →
      exec (.restore fn e (some bs)) s = .next (restorePackage o (eTag e) (sub bs 0 (eBytes e)) s0))) ∧
  (∀ (fn : FnId) (e : Entry) (eArray eFull : BitVec 32) (mv tenths : BitVec 16) (st : Stall) (im : Image) (s : State),
    let i := fn.toNat
    let o := eObj e
    let s0 := takeOff i e s
    let cores := st.cores.flatMap (fun c => coreRecord (s0.core c))
    let groups := st.groupList.flatMap (groupRecord s0)
    let clips := im.counters.flatMap (fun c => let p := Tbl.get (0, 0) (s0.inst o).clips c.cnt; leBytes 8 p.1 ++ leBytes 8 p.2)
    (Accepted fn e (telemetryRules s i e) s → s0.stall o = some st → cores.length ≤ eBytes e → (s0.fn i).mayWrite = true →
      exec (.telemetryCores fn e) s = .next (answerCmd i e St.done st.cores.length (hostWrite i (eAddr e) cores s0))) ∧
    (Accepted fn e (telemetryRules s i e) s → s0.stall o = some st → groups.length ≤ eBytes e → (s0.fn i).mayWrite = true →
      exec (.telemetryGroups fn e) s = .next (answerCmd i e St.done st.groupList.length (hostWrite i (eAddr e) groups s0))) ∧
    (Accepted fn e (telemetryRules s i e) s → (s0.inst o).image = some im → clips.length ≤ eBytes e → (s0.fn i).mayWrite = true →
      exec (.telemetryClips fn e) s = .next (answerCmd i e St.done im.counters.length (hostWrite i (eAddr e) clips s0))) ∧
    (Accepted fn e { fields := [(357, 352)], pf := true, frozen := true } s → s0.ownerOf (fld e 357 352) = none →
      exec (.telemetryEnergy fn e eArray eFull mv tenths) s =
        .next (answerCmd i e St.done (eArray.toNat + eFull.toNat <<< 32 + mv.toNat <<< 64 + tenths.toNat <<< 80) s0)))

/-! ## The vector engine, continued -/

/-- CONST, LANE and, in the row section, ROWNUM and LDS of stream 0 of an epilogue, which reads the prepared accumulators (R132, R142). CVT takes every lane through the format M; RSCALE gives every lane the multiplier of one code and latches it, the row scale of lane 0 where that is no negative number, of which R49 states no scale; BSCALE does so for the two blocks of 32 lanes, with code 0xFF and multiplier 1.0 for a block that holds a non-finite value (R47, R49, R50, R137, R139). -/
def Obligations.LaneSourcesConversions : Prop :=
  (∀ (core : CoreId) (d : BitVec 5) (m : BitVec 6) (s : State), s.runs core →
    let e := (s.work core.toNat).eng
    (∃ t, exec (.const core d m) s = .next t ∧ ∀ j < 64, t.lane core d j = canon32 (constOf e.args m.toNat)) ∧
    (∃ t, exec (.lane core d) s = .next t ∧ ∀ j < 64, t.lane core d j = canon32 (toF32 (.fin false j 0))) ∧
    (e.inTail = false → ∃ t, exec (.rownum core d) s = .next t ∧ ∀ j < 64, t.lane core d j = canon32 (toF32 (.fin false (e.runRow % 2 ^ 24) 0))) ∧
    (e.inTail = false → e.epilogue = true → (streamD e.args 0).out = false →
      ∃ t, exec (.lds core d 0 []) s = .next t ∧ ∀ j < 64, t.lane core d j = canon32 (e.acc.getD j 0))) ∧
  (∀ (core : CoreId) (d a : BitVec 5) (m : BitVec 6) (s : State), s.runs core →
    let e := (s.work core.toNat).eng
    let x := fun j => s.lane core a j
    let f := streamFmt (m.toNat + 1)
    let row := rowScale (f32 (x 0)) f
    let block := fun b => blockScale ((List.range 32).map (fun k => f32 (x (32 * b + k))))
    (m.toNat ≤ 3 → ∃ t, exec (.cvt core d a m) s = .next t ∧ ∀ j < 64, t.lane core d j =
      if f = fp4 ∧ (f32 (x j)).isFin = false then nan32 else canon32 (toF32 (decode f (convert f (f32 (x j))).code))) ∧
    (m.toNat = 1 ∨ m.toNat = 2 → e.inTail = false → ∃ t code, exec (.rscale core d a m) s = .next t ∧
      (∀ j < 64, t.lane core d j = multiplier code) ∧ (t.work core.toNat).eng.latch = .row code ∧
      (((f32 (x 0)).isFin = true → Num.lt (f32 (x 0)) (.fin false 0 0) = false) → code = row)) ∧
    (e.inTail = false → ∃ t, exec (.bscale core d a) s = .next t ∧
      (∀ j < 64, t.lane core d j = if block (j / 32) = 0xFF then one32 else multiplier (block (j / 32))) ∧ (t.work core.toNat).eng.latch = .blocks (block 0) (block 1)))

/-- LDS of a stream in SRAM gives the values of its current row under its scale codes (R136); stream 0 of an epilogue has a statement of its own. It changes its register alone, beside what the code of SRAM finds on the way (R71). With every memory in its canonical form (an invariant: StepKeepsMemories), STS writes its stream's row, value or record, with its pieces and scale codes, and no other byte (R137 to R139): for every address outside the ranges that the stream's descriptor gives, SRAM reads as before, and so do the other cores and device memory. A row stream without pieces holds each lane rounded into the stream's format. Where the clauses rest on the model's own choices, these are log entry 40. -/
def Obligations.TileLoadsAndStores : Prop :=
  (∀ (core : CoreId) (d : BitVec 5) (m : BitVec 6) (words : List SramFind) (s : State), s.runs core →
    let c := core.toNat
    let e := (s.work c).eng
    let st := streamD e.args m.toNat
    let s1 := sramFound c words s
    e.inTail = false → m.toNat ≤ 1 + (argHdr e.args).nextra → st.out = false → (e.epilogue && m.toNat == 0) = false →
    (st.reads e.tile e.row e.runRow).all (fun r => decide (r.1 + r.2 ≤ sramBytes) && !s1.sramPoison c r.1 r.2) = true →
    ∃ t, exec (.lds core d m words) s = .next t ∧ (∀ j < 64, t.lane core d j = canon32 ((loadLanes c st e.tile e.row e.runRow s).getD j 0)) ∧
      (∀ k p n, t.sramRead k p n = s.sramRead k p n) ∧ t.lines = s.lines ∧ ∀ q, q ≠ d → (t.work c).eng.reg q.toNat = e.reg q.toNat) ∧
  (∀ (core : CoreId) (a : BitVec 5) (m : BitVec 6) (s : State), s.runs core →
    let c := core.toNat
    let e := (s.work c).eng
    let st := streamD e.args m.toNat
    let w := st.writes e.tile e.row e.runRow
    let f := streamFmt st.fmt
    s.memWf = true → m.toNat ≤ 1 + (argHdr e.args).nextra → st.out = true → (st.kind == 2) = e.inTail →
    w.all (fun r => decide (r.1 + r.2 ≤ sramBytes) && !s.areaHit c r.1 r.2) = true →
    (st.maxw = true → st.kind = 1 ∧ s.sramPoison c (st.row e.tile e.row) st.width = false) →
    ∃ t, exec (.sts core a m) s = .next t ∧
      (∀ x, w.all (fun r => decide (x < r.1) || decide (r.1 + r.2 ≤ x)) = true → t.sramRead c x 1 = s.sramRead c x 1) ∧
      (∀ k, k ≠ c → t.core k = s.core k) ∧ t.lines = s.lines ∧ (t.work c).eng = e ∧
      (st.kind = 0 → st.pstride = 0 → st.scl = false →
        t.sramRead c (st.row e.tile e.row) st.width = packElems f.bits ((List.range 64).map (fun j => (convert f (f32 (s.lane core a j))).code))))

/-- A send of a tile program hands the stream's rows of the tile, rounded up to 64 bytes, to the sender, and changes no memory (R141). A region past the end of SRAM on either side, or a core outside the stall, is a descriptor fault. The engine takes the next tile in the order of R127: an epilogue tile that its streams allow, else a tile of the attached prologue, else the next tile of the first run that may start; with none ready only the sender and a held FENCE or END go on. Where the clauses rest on the model's own choices, these are log entry 44. -/
def Obligations.TileSendsAndOrder : Prop :=
  (∀ (core : CoreId) (m : BitVec 6) (s : State), s.runs core →
    let c := core.toNat
    let w := s.work c
    let e := w.eng
    let st := streamD e.args (m.toNat % 8)
    let x := sendEnt e.args (m.toNat / 8)
    let len := cdiv (e.tileRows * st.rowStride) 64 * 64
    let src := st.tile e.tile
    let dest := x.dest * 64 + e.tile * st.tileStride * 16
    e.inTail = true → m.toNat < 16 → m.toNat % 8 ≤ 1 + (argHdr e.args).nextra →
    (0 < len → src + len ≤ sramBytes → dest + len ≤ sramBytes → (x.remote = false → s.sameStall c x.core = true) → (x.remote = true → dest % 64 = 0) →
      (x.sig = true → x.remote = false → s.coreObj c x.sync 0 = true) → s.sramPoison c src len = false →
      ∃ t, exec (.tileSend core m) s = .next t ∧
        (t.work c).sendQ = w.sendQ ++ [{ seq := w.seq, remote := x.remote, sig := x.sig, ledger := false, data := s.sramRead c src len, dcore := x.core, dest := dest, flow := x.flow, sync := x.sync }] ∧
        (∀ k p n, t.sramRead k p n = s.sramRead k p n) ∧ t.lines = s.lines) ∧
    (src + len > sramBytes ∨ dest + len > sramBytes ∨ (x.remote = false ∧ s.sameStall c x.core = false) →
      exec (.tileSend core m) s = .next (descFaultAt c w.seq s))) ∧
  (∀ (core : CoreId) (s : State),
    let c := core.toNat
    let w := s.work c
    let after := fun u => exec (.tileBegin core) s = .next (settle c (drainSends c u))
    (∀ q rest a, w.epiQ = q :: rest → attOf s c q.att = some a → s.streamsReady a.args = true →
      after (runTile c a q.acc q.acc.length (s.updWork c (fun w => { w with epiQ := rest })))) ∧
    (∀ a, w.epiQ = [] → prologueReady c s = some a → after (runTile c a [] (a.tileRows a.tilesDone) s)) ∧
    (∀ id a, w.epiQ = [] → prologueReady c s = none → w.runReady = some id → attOf (takeEffect c id s) c id = some a → a.loaded = true →
      (takeEffect c id s).streamsReady a.args = true → after (runTile c a [] (a.tileRows a.tilesDone) (takeEffect c id s))) ∧
    (w.epiQ = [] → prologueReady c s = none → w.runReady = none → after s))

/-- The frame of the instructions that compute a register, and the non-finite indicator (R48, R134): such an instruction changes register D of its core and nothing else, but that the step of the core is marked where a lane of D is an infinity or a NaN. Every byte of SRAM and of device memory, every other register, sync object, ring, cause and port keeps its value. -/
def Obligations.LaneFrame : Prop :=
  ∀ (i : Instr) (core : CoreId) (d : BitVec 5) (s t : State), i.laneDest (s.work core.toNat).eng.inTail = some (core, d) → s.runs core → exec i s = .next t →
    let v := (t.work core.toNat).eng.reg d.toNat
    t = markNonfinite core.toNat (v.any (fun x => !(f32 x).isFin)) (s.updEng core.toNat (fun e => { e with regs := Tbl.set e.regs d.toNat v })) ∧
    (∀ q, q ≠ d → (t.work core.toNat).eng.reg q.toNat = (s.work core.toNat).eng.reg q.toNat) ∧
    (∀ k p n, t.sramRead k p n = s.sramRead k p n) ∧ (∀ k, k ≠ core.toNat → t.core k = s.core k) ∧
    t.lines = s.lines ∧ t.sync = s.sync ∧ t.fns = s.fns ∧ t.causes = s.causes ∧ t.out = s.out ∧ t.ports = s.ports ∧ t.sys = s.sys

/-! ## Core descriptors (03_core_array) -/

/-- A core that does not issue (it holds on WAIT, FENCE or END, is stopped, or runs no task) issues no descriptor, and a descriptor that breaks a rule of R85 is a descriptor fault. Where the clauses rest on the model's own choices, these are log entries 11, 45. -/
def Obligations.DescriptorFaults : Prop :=
  ∀ (core : CoreId) (d : Desc) (residues : List Residue) (words : List SramFind) (s : State),
    let c := core.toNat
    let stays := fun (i : Instr) => s.mayIssue c = false → exec i s = .next s
    let faults := fun (i : Instr) (ok : Bool) => s.mayIssue c = true → ok = false → exec i s = .next (descFault c s)
    (stays (.loadBlock core d) ∧ stays (.pass core d residues words) ∧ stays (.side core d) ∧ stays (.tileprogPrologue core d) ∧ stays (.tileprogEpilogue core d)
      ∧ stays (.tileprogRun core d) ∧ stays (.tileprogDetach core d) ∧ stays (.move core d words) ∧ stays (.send core d) ∧ stays (.wait core d)
      ∧ stays (.signal core d) ∧ stays (.fence core d) ∧ stays (.spill core d) ∧ stays (.spillRestore core d) ∧ stays (.endTask core d)) ∧
    (faults (.loadBlock core d) (loadOk d) ∧ faults (.pass core d residues words) (passIssueOk c d s) ∧ faults (.side core d) (sideOk d)
      ∧ faults (.tileprogPrologue core d) (tileOk d && (tileD d).place == 0) ∧ faults (.tileprogEpilogue core d) (tileOk d && (tileD d).place == 1)
      ∧ faults (.tileprogRun core d) (tileOk d && (tileD d).place == 2) ∧ faults (.tileprogDetach core d) (tileOk d && (tileD d).place == 3)
      ∧ faults (.move core d words) (moveIssueOk c d s) ∧ faults (.send core d) (sendIssueOk c d s) ∧ faults (.wait core d) (waitIssueOk c d s)
      ∧ faults (.signal core d) (signalOk d && s.coreObj c (fld d 29 16) (BitVec.ofNat 2 (fld d 9 8))) ∧ faults (.fence core d) (fenceOk d)
      ∧ faults (.spill core d) (spillIssueOk c d false s) ∧ faults (.spillRestore core d) (spillIssueOk c d true s) ∧ faults (.endTask core d) (endOk d))

/-- An exception of a core that works for a serving or an evaluation step (R30, R92): its cause is recorded, the core issues nothing more, jobs of the faulting descriptor and later are discarded, nothing waits in its array, and the step is over. Where the clauses rest on the model's own choices, these are log entry 45. -/
def Obligations.ExceptionStops : Prop :=
  ∀ (core : CoreId) (tk : TaskRef) (p : Step) (s : State),
    let c := core.toNat
    let w := s.work c
    let t := descFault c s
    w.task = some tk → s.stepOf tk.fn tk.tag = some p → p.kind ≠ 1 → p.failed = false →
    t.coreStopped c = true ∧ (t.work c).arrayQ = [] ∧ (t.work c).epiQ = [] ∧ (t.work c).loadQ = w.loadQ.filter (fun j => decide (j.seq < w.seq)) ∧
    (t.work c).sigQ = w.sigQ.filter (fun j => decide (j.seq < w.seq)) ∧ t.stepOf tk.fn tk.tag = none ∧
    (Tbl.get {} t.causes (causeKey tk.fn 1 0)).bit = true

/-- LOAD_BLOCK, MOVE, SPILL, SPILL with RESTORE and SIGNAL are handed to their queues, and the sequencer goes on (R84): the descriptor is counted, and no byte of SRAM or of device memory changes. PASS and SIDE queue for the array, and TILEPROG attaches, runs or detaches a program, in issue order (R84, R125, R126); the array then goes as far as it may. Where the clauses rest on the model's own choices, these are log entries 40, 45. -/
def Obligations.UnitAndArrayJobs : Prop :=
  (∀ (core : CoreId) (d : Desc) (words : List SramFind) (s : State), s.mayIssue core.toNat = true →
    let c := core.toNat
    let w := s.work c
    let inst := s.coreInst c
    let s1 := sramFound c words s
    let job : UnitJob := { d := d, seq := w.seq, predicted := false }
    let m := moveD d
    let p := spillD d
    let la := ((s.spillArea inst).getD (0, 0)).1 + p.offset * 128
    let counted := fun (t : State) => (t.work c).seq = w.seq + 1 ∧ (t.work c).pos = w.pos + 16 ∧ (∀ k a n, t.sramRead k a n = s.sramRead k a n) ∧ t.lines = s.lines
    (loadOk d = true → ∃ t, exec (.loadBlock core d) s = .next t ∧ (t.work c).loadQ = w.loadQ ++ [job] ∧ counted t) ∧
    (moveIssueOk c d s = true → m.pred = false → m.dir = 2 ∨ rangeFault inst m.mem m.len (m.dir == 1) s1 = none →
      ∃ t, exec (.move core d words) s = .next t ∧ (t.work c).moveQ = w.moveQ ++ [job] ∧ counted t) ∧
    (moveIssueOk c d s = true → m.pred = true →
      ∃ t, exec (.move core d words) s = .next t ∧ (t.work c).moveQ = w.moveQ ++ [{ job with predicted := true }] ∧ counted t) ∧
    (spillIssueOk c d false s = true → rangeFault inst la p.len true s = none →
      ∃ t, exec (.spill core d) s = .next t ∧ (t.work c).moveQ = w.moveQ ++ [job] ∧ counted t) ∧
    (spillIssueOk c d true s = true → rangeFault inst la p.len false s = none →
      ∃ t, exec (.spillRestore core d) s = .next t ∧ (t.work c).moveQ = w.moveQ ++ [job] ∧ counted t) ∧
    (signalOk d = true → s.coreObj c (fld d 29 16) (BitVec.ofNat 2 (fld d 9 8)) = true →
      ∃ t, exec (.signal core d) s = .next t ∧
        (t.work c).sigQ = w.sigQ ++ [{ kind := fld d 9 8, obj := fld d 29 16, value := fld d 63 32, seq := w.seq }] ∧ counted t)) ∧
  (∀ (core : CoreId) (d : Desc) (residues : List Residue) (words : List SramFind) (s : State), s.mayIssue core.toNat = true →
    let c := core.toNat
    let w := s.work c
    let att : Att := { id := w.nextAtt, d := d, seq := w.seq }
    let place := (tileD d).place
    let then_ := fun (f : Work → Work) => issued c (s.updWork c f)
    (passIssueOk c d s = true → exec (.pass core d residues words) s = .next (pumpArray c (issued c (queuePass c d residues (sramFound c words s))))) ∧
    (sideOk d = true → exec (.side core d) s = .next (pumpArray c (then_ (fun w => { w with arrayQ := w.arrayQ ++ [.side (sideCfg d) w.seq], sideIssued := true })))) ∧
    (tileOk d = true → place = 0 → exec (.tileprogPrologue core d) s = .next (pumpArray c (then_ (fun w => { w with
      atts := w.atts ++ [att], arrayQ := w.arrayQ ++ [.prologue (some w.nextAtt) w.seq], nextAtt := w.nextAtt + 1 })))) ∧
    (tileOk d = true → place = 1 → exec (.tileprogEpilogue core d) s = .next (takeEffect c w.nextAtt (then_ (fun w => { w with
      atts := w.atts ++ [att], epilogue := some w.nextAtt, nextAtt := w.nextAtt + 1 })))) ∧
    (tileOk d = true → place = 2 → exec (.tileprogRun core d) s = .next (then_ (fun w => { w with
      atts := w.atts ++ [att], runs := w.runs ++ [w.nextAtt], nextAtt := w.nextAtt + 1 }))) ∧
    (tileOk d = true → place = 3 → exec (.tileprogDetach core d) s = .next (pumpArray c (then_ (fun w => { w with
      epilogue := none, arrayQ := w.arrayQ ++ [.prologue none w.seq] })))))

/-- SEND hands its data to the sender, where a remote one at the front goes to its flow. WAIT goes on where its condition holds and else holds issue, with its TIMEOUT in microseconds of device time. FENCE and END hold issue until the classes they name are complete (R84, R86, R452). Where the clauses rest on the model's own choices, these are log entry 45. -/
def Obligations.SequencerHolds : Prop :=
  ∀ (core : CoreId) (d : Desc) (tk : TaskRef) (s : State), s.mayIssue core.toNat = true →
    let c := core.toNat
    let w := s.work c
    let m := sendD d
    let obj := fld d 29 16
    let thresh := if (s.obj obj).kind = 1 then (s.obj obj).phase.toNat else fld d 63 32
    let u := fun (mode : SeqMode) => (issued c s).updWork c (fun w => { w with mode := mode })
    (sendIssueOk c d s = true → s.sramPoison c m.src m.len = false → exec (.send core d) s = .next (drainSends c (issued c (s.updWork c (fun w => { w with
      sendQ := w.sendQ ++ [{ seq := w.seq, remote := m.remote, sig := m.sig, ledger := m.oper == 1, data := s.sramRead c m.src m.len, dcore := m.core, dest := m.dest * 64, flow := m.flow, sync := m.sync }] }))))) ∧
    (waitIssueOk c d s = true → s.satisfied c obj thresh = true → exec (.wait core d) s = .next (issued c s)) ∧
    (waitIssueOk c d s = true → s.satisfied c obj thresh = false →
      exec (.wait core d) s = .next (u (.waiting obj thresh (if fld d 95 64 = 0 then none else some (s.now.toNat + 1000 * fld d 95 64))))) ∧
    (fenceOk d = true → ∃ t, exec (.fence core d) s = .next t ∧
      (t.work c).mode = (if (u (.fencing (fld d 11 8))).fenceClear c (fld d 11 8) then .running else .fencing (fld d 11 8)) ∧ (t.work c).seq = w.seq + 1) ∧
    (d = 0x0B → w.task = some tk → w.sigQ = [] → (u .ending).fenceClear c 15 = true →
      exec (.endTask core d) s = .next (tasksMayEnd tk.fn tk.tag ((u .ending).updWork c (fun w => { w with mode := .idle, task := none, remoteQ := [] })))) ∧
    (d = 0x0B → w.sigQ ≠ [] ∨ (u .ending).fenceClear c 15 = false → exec (.endTask core d) s = .next (u .ending))

/-- Units complete their jobs in issue order, a signal behind its data (R79, R84, R86, R87): a LOAD_BLOCK fills the shadow bank; a MOVE's or a SPILL's transfer, where it is done, leaves the queue and adds 1 to its object; a local SEND lands whole; the front SIGNAL acts once every earlier descriptor is complete. Where the clauses rest on the model's own choices, these are log entries 7, 11, 21. -/
def Obligations.UnitsComplete : Prop :=
  ∀ (core : CoreId) (waited : Nat) (finds : List LineFind) (j : UnitJob) (js : List UnitJob) (k : SendJob) (ks : List SendJob) (g : SigJob) (gs : List SigJob) (s s1 : State),
    let c := core.toNat
    let w := s.work c
    let m := moveD j.d
    let p := spillD j.d
    let inst := s.coreInst c
    let la := ((s.spillArea inst).getD (0, 0)).1 + p.offset * 128
    let ended := fun (sig : Bool) (obj : Nat) (region : Option (Nat × Nat)) =>
      Host.Outcome.next (settle c (if sig then coreAdd c obj 1 (dropMove c j.seq region s1) else dropMove c j.seq region s1))
    (w.loadQ = j :: js → w.newPassBefore j.seq = false →
      loadPoison c (loadD j.d) s = none → w.waitingPass = none →
      exec (.loadBlockComplete core waited) s = .next (settle c (pumpArray c (s.updWork c (fun w => { w with loadQ := js, shadow := some (blockOf c (loadD j.d) s) }))))) ∧
    (w.nextMove = some j → fld j.d 7 0 = 5 → j.predicted = false → moveRun c j finds s = .done s1 →
      exec (.moveComplete core finds) s = ended m.sig m.sync (if m.dir = 0 then some (m.sram, m.len) else if m.dir = 2 then some (m.mem, m.len) else none)) ∧
    (w.nextMove = some j → fld j.d 7 0 = 10 → p.restore = false → takeOut c inst la p.sram p.len j.seq finds s = .done s1 →
      exec (.spillComplete core finds) s = ended p.sig p.sync none) ∧
    (w.nextMove = some j → fld j.d 7 0 = 10 → p.restore = true → bringIn c inst la p.sram p.len j.seq finds s = .done s1 →
      exec (.spillComplete core finds) s = ended p.sig p.sync (some (p.sram, p.len))) ∧
    (w.sendQ = k :: ks → k.remote = false → k.sig = false → k.ledger = false →
      exec (.sendArrival core) s = .next (settle c (drainSends c (writeFor (s.coreBubble c) k.dcore k.dest k.data false (s.updWork c (fun w => { w with sendQ := ks })))))) ∧
    (w.sigQ = g :: gs → s.doneBefore c g.seq = true → g.kind = 0 →
      exec (.signalTakesEffect core) s = .next (settle c (coreAdd c g.obj g.value (s.updWork c (fun w => { w with sigQ := gs }))))) ∧
    (w.sigQ = g :: gs → s.doneBefore c g.seq = false → exec (.signalTakesEffect core) s = .next s)

/-- WAIT_RESUME counts the steps waited and issue goes on, once the condition holds; WAIT_TIMEOUT is an exception once TIMEOUT has passed (R86, R91). A ring pass takes its next segment of at most 64 rows once its object holds at least 1, which it takes (R89). A PASS held by a full epilogue queue, or by the side-array's first block, goes on. Where the clauses rest on the model's own choices, these are log entries 7, 11. -/
def Obligations.HeldWorkResumes : Prop :=
  ∀ (core : CoreId) (waited obj thresh limit : Nat) (dl : Option Nat) (p : PassJob) (s : State),
    let c := core.toNat
    let w := s.work c
    let d := passD p.d
    (w.mode = .waiting obj thresh dl → s.satisfied c obj thresh = true → ∃ t, exec (.waitResume core waited) s = .next t ∧
      (t.work c).mode = .running ∧ (t.core c).waitSteps = (s.core c).waitSteps + BitVec.ofNat 64 waited ∧ t.sync = s.sync ∧ t.lines = s.lines) ∧
    (w.mode = .waiting obj thresh (some limit) → limit ≤ s.now.toNat → s.satisfied c obj thresh = false →
      exec (.waitTimeout core) s = .next (coreException c 1 6 (c + obj <<< 12) .device w.seq s)) ∧
    (w.waitingPass = some p → d.srcRing ≠ 0 → p.started = true → d.final = false → (s.obj d.srcSync).count ≠ 0 → s.coreStopped c = false →
      exec (.ringSegmentEntry core waited) s = .next (pumpArray c (addGap c waited (enterRows c p (min 64 (d.rows - p.entered)) (pace d.srcSync s))))) ∧
    (w.waitingPass = some p → d.final = true → p.started = true → p.mayEnter w ≠ 0 → s.coreStopped c = false →
      exec (.epilogueQueueResume core waited) s = .next (pumpArray c (addGap c waited s))) ∧
    (w.side.isSome = true → w.sideReady = false → s.coreStopped c = false → w.waitingPass = some p → d.tick = true → p.started = false →
      exec (.sideArrayLoadComplete core waited) s = .next (pumpArray c ((addGap c waited s).updWork c (fun w => { w with sideReady := true })))) ∧
    (s.coreStopped c = false → w.arrayQ = [.pass p] → p.written < p.entered →
      let n := p.entered - p.written
      let s1 := rowsGo c p ((List.range n).map (fun i => p.written + i)) (if p.written = 0 then 0 else passResults.lastTicket c s p) (if p.written = 0 then 0xFFFF else passResults.lastTicket c s p) s
      s1.coreStopped c = false →
      exec (.passResultsWritten core) s = .next (settle c (pumpArray c (s1.updWork c (fun w => { w with
        epiQ := w.epiQ ++ tilesDone p p.written p.entered
        arrayQ := if p.entered = d.rows then w.arrayQ.filter (fun q => q.seq != p.seq) else w.arrayQ })))))

/-! ## The almanac, bubble work and heat (08_almanac) -/

/-- DECISION_POINT of a real-time slot, at most 20 µs before its occurrence, on an instance that is not frozen and for an occurrence that has neither a step nor been lent (R203, R207, R208, R210, R214, R216). While a new table waits, no step is admitted and the occurrence is lent (R202). Otherwise the boundary's work and the gap check are done first. At heat level 2 every waiting step of the slot's program is refused. While a speed fault is outstanding each is refused without the THERMAL flag, and the occurrence is lent. Otherwise the front step of the ring order is offered: where its program is the slot's, its adapters are resident, it fits and its rows are here, it is accepted for the occurrence, with the occurrence's start as its begin and start + BOUND as its bound; where an adapter is missing it parks, and the occurrence is lent; where its program is another or it does not fit, or no step waits, the occurrence is lent. Where the clauses rest on the model's own choices, these are log entries 46, 51. -/
def Obligations.DecisionPoints : Prop :=
  ∀ (fn : FnId) (slot occ start : Nat) (tbl : Almanac) (sl : Slot) (st : Stall) (im : Image) (pr : Program) (p : Step) (s : State),
    let i := fn.toNat
    let n := s.inst i
    let u := gapCheck i (stepBoundary i s)
    let hot := (u.heat st).1 ≥ 2 ∨ u.sys.forceSafeN = false
    let waiting := (u.inst i).steps.find? (fun q => q.kind == 0 && q.waits)
    let answers := fun t => exec (.decisionPoint fn slot occ) s = .next t
    n.stall = some st → n.image = some im → n.almanac = some tbl → tbl.startOf slot occ = some (sl, start) → im.program sl.program = some pr → sl.bubble = false →
    n.frozen = false → s.sys.fatal = false → st.lent ≠ some (slot, occ) → start ≤ s.now.toNat + 20000 → s.now.toNat < start →
    n.steps.any (fun q => q.begins == start && !q.waits) = false →
    (n.nextAlmanac.isSome = true → answers (lend i slot occ sl.length st s)) ∧
    (n.nextAlmanac = none →
      (hot → answers (refuseWaiting i sl.program true u)) ∧
      (¬hot → u.sys.stoppedHalf = none →
        (u.stallFaulted st = true → answers (lend i slot occ sl.length st (refuseWaiting i sl.program false u))) ∧
        (u.stallFaulted st = false →
          (waiting = none → answers (lend i slot occ sl.length st u)) ∧
          (waiting = some p →
            (p.program ≠ sl.program → answers (lend i slot occ sl.length st u)) ∧
            (p.program = sl.program →
              (u.allResident i p = false → answers (lend i slot occ sl.length st (park i p.tag u))) ∧
              (u.allResident i p = true → u.fits i st im pr p sl = false → answers (lend i slot occ sl.length st u)) ∧
              (u.allResident i p = true → u.serves st = true → u.fits i st im pr p sl = true → u.rowsHere p = true →
                answers (startFetches i (writeTickets i p.tag false st im pr
                  ((u.updStall i (fun st => { st with busyUntil := start + sl.length })).updStep i p.tag
                    (fun p => { p with at_ := .accepted slot occ start, begins := start, bound := some (start + sl.bound) }))))))))))

/-- Bubble work (R216 to R219, R245): outside its time a stall's work in progress is suspended, its cores spilled below the reserved area; inside its time a suspended stall is restored; and the next sub-step of the step in progress starts once its tasks have ended, else the first waiting fine-tuning or evaluation step. Where the clauses rest on the model's own choices, these are log entries 11, 22. -/
def Obligations.BubbleWork : Prop :=
  ∀ (fn : FnId) (st : Stall) (im : Image) (pr : Program) (p : Step) (k : Nat) (s : State),
    let i := fn.toNat
    let u := stepBoundary i (startReshards i s)
    (s.stall i = some st → s.bubbleTime i st = false → st.suspended = false → bubbleInProgress (s.inst i) = true → st.cores.all (fun c => (s.work c).moveQ.isEmpty) = true →
      exec (.bubbleSuspend fn) s = .next (forEach (spillCore (s.areaStart i)) st.cores (s.updStall i (fun st => { st with suspended := true })))) ∧
    (s.stall i = some st → s.bubbleTime i st = true → exec (.bubbleSuspend fn) s = .next s) ∧
    (s.stall i = some st → st.suspended = true → s.bubbleTime i st = true → s.serves st = true → (s.inst i).frozen = false →
      exec (.bubbleResume fn) s = .next (forEach (restoreCore (s.areaStart i)) st.cores (s.updStall i (fun st => { st with suspended := false })))) ∧
    (u.stall i = some st → (u.inst i).image = some im → st.suspended = false → u.bubbleTime i st = true → u.serves st = true → (u.inst i).frozen = false → u.sys.forceSafeN = true →
      ((u.inst i).steps.find? (fun q => q.runsBubble) = some p → p.at_ = .bubble k → im.program p.program = some pr → p.cores = [] → k < im.lastSub pr →
        exec (.bubbleSubstepStart fn) s = .next (startTasks i p.tag true (im.tasksOf pr (k + 1)) (u.updStep i p.tag (fun p => { p with at_ := .bubble (k + 1) })))) ∧
      ((u.inst i).steps.find? (fun q => q.runsBubble) = none → (u.inst i).steps.find? (fun q => q.kind != 0 && q.waits) = some p → p.at_ = .queued →
        exec (.bubbleSubstepStart fn) s = .next (startBubble i st im p u)))

/-- A spilled core comes back as it was (R218, R219): SRAM below the reserved area, its poison marks and the state of its task; SRAM of the reserved area keeps what real-time work wrote there. Where the clauses rest on the model's own choices, these are log entry 22. -/
def Obligations.SpillRoundTrip : Prop :=
  ∀ (area core : Nat) (s : State), Mem.wf (s.core core).sram = true →
    let a := spillCore area core s
    let t := restoreCore area core a
    (a.core core).spilled.isSome = true ∧ (a.work core).task = none ∧ (t.core core).spilled = none ∧ t.work core = s.work core ∧
    (∀ x, x < area → t.sramRead core x 1 = s.sramRead core x 1) ∧ (∀ x, area ≤ x → t.sramRead core x 1 = a.sramRead core x 1) ∧ (t.core core).sram = (s.core core).sram ∧
    (∀ w, w ∈ (t.core core).poison ↔ w ∈ (s.core core).poison)

/-- OCCURRENCE_START of an accepted step, from its begin on: the clip counts of real-time work start at zero, every real-time object of the stall returns to its declared state, the tasks of sub-step 0 are placed and the rows are asked for (R198, R225). SLOT_END_STOP, from the end of LENGTH on: a step that still runs is stopped with SLOT_STOP, and a lent occurrence ends (R206, R208). Before that time neither does anything. ALMANAC_SWITCH: a new table takes effect at a start of one of its cycles, once no occurrence of the old one is open and the last one with an accepted step has ended; the command that set it completes, and waiting steps that fit no slot of it end (R202, R210). Where the clauses rest on the model's own choices, these are log entries 11, 46. -/
def Obligations.OccurrencesRun : Prop :=
  (∀ (fn : FnId) (slot occ start : Nat) (tbl : Almanac) (sl : Slot) (im : Image) (pr : Program) (p : Step) (s : State),
    let i := fn.toNat
    let n := s.inst i
    let ended := s.updStall i (fun st => if st.lent == some (slot, occ) then { st with lent := none } else st)
    let front := (ended.inst i).steps.find? (Step.inOccurrence slot occ)
    (acceptedStep n slot occ = some p → n.image = some im → im.program p.program = some pr →
      exec (.occurrenceStart fn slot occ) s = .next (if s.now.toNat < p.begins then s else
        askRows i p.tag (startTasks i p.tag false (im.tasksOf pr 0)
          ((clearClips i false (renewRealTime i s)).updStep i p.tag (fun p => { p with at_ := .running slot occ p.begins }))))) ∧
    (n.almanac = some tbl → tbl.startOf slot occ = some (sl, start) → s.now.toNat < start + sl.length → exec (.slotEndStop fn slot occ) s = .next s) ∧
    (n.almanac = some tbl → tbl.startOf slot occ = some (sl, start) → start + sl.length ≤ s.now.toNat → front = none → exec (.slotEndStop fn slot occ) s = .next ended) ∧
    (n.almanac = some tbl → tbl.startOf slot occ = some (sl, start) → start + sl.length ≤ s.now.toNat → front = some p →
      exec (.slotEndStop fn slot occ) s = .next (stepBoundary i (failStep i p.tag (stopCause ended i) (raise i 1 8 (p.tag % 2 ^ 32) ended))))) ∧
  (∀ (fn : FnId) (tbl : Almanac) (tag : BitVec 32) (s : State),
    let i := fn.toNat
    (s.inst i).nextAlmanac = some tbl →
    (occurrencesOpen (s.inst i) = true ∨ s.now.toNat < tbl.start ∨ (s.now.toNat - tbl.start) % tbl.cycle ≠ 0 ∨ s.now.toNat < lastEnd s i → exec (.almanacSwitch fn) s = .next s) ∧
    (occurrencesOpen (s.inst i) = false → tbl.start ≤ s.now.toNat → (s.now.toNat - tbl.start) % tbl.cycle = 0 → lastEnd s i ≤ s.now.toNat → tbl.tag = some tag.toNat → exec (.almanacSwitch fn) s =
      .next (refitWaiting i (finish i tag.toNat St.done 0 ((s.updInst i (fun n => { n with almanac := some { tbl with tag := none }, nextAlmanac := none })).updStall i (fun st => { st with lent := none }))))))

/-- TRANSIT_MEASUREMENT of a group in service (R212 to R214): RATE and the lowest RATE are kept; below GUARD the requested supply rises by 10 mV, to 850 mV at most, and the group is in state 2 while it has work; at or above GUARD + 100 a hundred times in a row it falls by 5 mV, never below the calibrated value; below FLOOR it is a speed fault. A group out of service keeps RATE and LOW alone. GROUP_THERMAL_LEVEL and STACK_THERMAL_LEVEL record the temperature in tenths of a degree and the level that it gives under the thresholds of Tables 8-8 and 7-5; the causes follow, and bubble work of a hot stall is suspended at once (R191, R215, R216). The level of a temperature (R191, R215): level n + 1 or more holds exactly where some threshold from n on has been reached, or was reached before and is not yet left by more than 3 degrees. A level is entered at its threshold and left 3 degrees below it. -/
def Obligations.ThermalEvents : Prop :=
  (∀ (group : GroupId) (rate : BitVec 16) (s : State),
    let g := group.toNat
    let x := s.group g
    let r := rate.toNat
    let s1 := s.updGroup g (fun x => { x with rate := rate, low := if x.low = 0 ∨ r < x.low.toNat then rate else x.low })
    (x.outOfService = true → exec (.transitMeasurement group rate) s = .next s1) ∧
    (x.outOfService = false → r < 2000 → exec (.transitMeasurement group rate) s = .next (speedFault g (countSteps g r s1))) ∧
    (x.outOfService = false → 2000 ≤ r → ∃ t, exec (.transitMeasurement group rate) s = .next t ∧
      (t.group g).rate = rate ∧ (t.group g).low = (if x.low = 0 ∨ r < x.low.toNat then rate else x.low) ∧
      (r < 2100 → (t.group g).vreq = some (BitVec.ofNat 10 (min 850 (x.vreqMv g + 10))) ∧ (t.group g).mstate = if groupBusy s g then 2 else 0) ∧
      (2100 ≤ r → r < 2200 ∨ x.high + 1 < 100 → (t.group g).vreq = x.vreq) ∧
      (2200 ≤ r → 100 ≤ x.high + 1 → (t.group g).vreq = some (BitVec.ofNat 10 (max (Config.vreqCal g) (x.vreqMv g - 5)))) ∧
      (∀ h, h ≠ g → t.group h = s.group h) ∧ t.lines = s.lines ∧ t.out = s.out)) ∧
  (∀ (group : GroupId) (stack : Fin 12) (tenths : Nat) (s : State),
    let follows := fun s => shed (followAllHeat (followLevels s))
    exec (.groupThermalLevel group tenths) s =
      .next (follows (s.updGroup group.toNat (fun x => { x with temp := tenths, level := thermalLevel [950, 1000, 1100] x.level tenths }))) ∧
    exec (.stackThermalLevel stack tenths) s =
      .next (follows { s with stackTemp := Tbl.set s.stackTemp stack tenths, stackLevel := Tbl.set s.stackLevel stack (thermalLevel [850, 950, 1000, 1050] (Tbl.get 0 s.stackLevel stack) tenths) })) ∧
  (∀ (l : List Nat) (old tenths n : Nat), n < l.length →
    (n < thermalLevel l old tenths ↔ ∃ i, n ≤ i ∧ i < l.length ∧ (l.getD i 0 ≤ tenths ∨ (i < old ∧ l.getD i 0 < tenths + 30))))

/-- ADAPTER_RESIDENT ends a fetch (R116 to R118): the slot holds the adapter's data, the FETCH that asked completes, and the steps that waited are offered again; a poisoned or unanswered one fails with FAILED_MEMORY or TIMEOUT_FABRIC. EARLY_READ brings an adapter with a history into a free slot and free quota alone (R120). EXPERT_PREDICTED_FETCH queues a predicted MOVE into the image's expert window (R168). Where the clauses rest on the model's own choices, these are log entry 11. -/
def Obligations.ResidencyEvents : Prop :=
  ∀ (fn : FnId) (adapter : BitVec 32) (core : CoreId) (sram : BitVec 19) (len : BitVec 24) (mem : BitVec 48) (a : Adapter) (st : Stall) (k : Nat) (im : Image) (owner : Nat) (s : State),
    let i := fn.toNat
    let id := adapter.toNat
    let c := core.toNat
    let d : Desc := BitVec.ofNat 128 (5 + 1 <<< 10 + sram.toNat <<< 16 + len.toNat <<< 40 + mem.toNat <<< 64)
    (s.adapterOf i id = some a → a.fetching = true → a.away = false → a.poisoned = false → a.fetchTag = none →
      exec (.adapterResident fn adapter .arrived) s = .next (stepBoundary i (stateWrite i a.waddr (homeData a)
        (s.updAdapter i id (fun a => { a with fetching := false, fetchTag := none, lastUse := s.now.toNat }))))) ∧
    (s.adapterOf i id = some a → a.fetching = true → exec (.adapterResident fn adapter .poisoned) s = .next (fetchFails i id St.failedMemory s)) ∧
    (s.adapterOf i id = some a → a.fetching = true → exec (.adapterResident fn adapter .noAnswer) s = .next (fetchFails i id St.timeoutFabric s)) ∧
    (s.stall i = some st → s.adapterOf i id = some a → a.slot = none → a.poisoned = false → (s.inst i).adapters.any (fun x => x.lastUse != 0) = true →
      s.fixedUnits i + s.adapterUnits i + a.pages ≤ st.fast → freeSlot (s.inst i) st.hot = some k →
      exec (.earlyRead fn adapter) s = .next (placeFetch i st a k true s)) ∧
    (s.ownerOf (c / 64) = some owner → (s.inst owner).image = some im → moveOk d = true → im.expertAddr ≤ sram.toNat → sram.toNat + len.toNat ≤ im.expertAddr + im.expertLen →
      (s.work c).task.isSome = true → ∃ t, exec (.expertPredictedFetch core sram len mem) s = .next t ∧
        (t.work c).moveQ = (s.work c).moveQ ++ [{ d := d, seq := (s.work c).seq, predicted := true }] ∧
        (∀ k p n, t.sramRead k p n = s.sramRead k p n) ∧ t.lines = s.lines)

/-! ## Maintenance of device memory (06_memory_tiers, 07_memory_protection) -/

/-- A queued activity starts when the arbiter lets it; one that ends completes its command, a group test with what it found, a firmware update once both Clerks run the patch set; a hold ends when its time has run out (R192 to R194, R433). Where the clauses rest on the model's own choices, these are log entry 11. -/
def Obligations.ActivitiesRun : Prop :=
  ∀ (id tag limit : Nat) (result : BitVec 128) (a : Act) (s : State), findAct s id = some a →
    let off := endAct id s
    (a.running = false → mayStart s.acts a = true → a.kind ≠ .mh → exec (.maintActivityStart id) s = .next (startAct id none s)) ∧
    (a.running = false → mayStart s.acts a = true → a.kind = .mh → exec (.maintActivityStart id) s = .next (startAct id (some (s.now.toNat + min a.arg 60 * 1000000000)) s)) ∧
    (a.running = true → a.kind = .cg → a.tag = some tag →
      exec (.maintActivityEnd id result) s = .next (finishMaint tag St.done (result.toNat % 4) (endGroupTest a.arg (bit result 0) (bit result 1) off))) ∧
    (a.running = true → a.kind = .pc → a.tag = none → exec (.maintActivityEnd id result) s = .next off) ∧
    (a.running = true → a.kind = .fw → a.tag = some tag → s.sys.fwStage = 3 →
      let s1 := (endAct a.id s).updSys (fun y => { y with fwStage := 0 })
      exec (.maintActivityEnd id result) s = .next (finishMaint tag St.done s1.fwVersion s1)) ∧
    (a.kind = .mh → a.running = true → a.endBy = some limit → limit ≤ s.now.toNat → a.tag = some tag →
      exec (.measurementHoldEnd id) s = .next (finishMaint tag St.done 0 off))

/-- PAGE_MOVE of a declared page to the slow tier (Table 6-5 steps 1 and 2): a free frame and the lowest free move record are taken, the entry is marked MOVING, and the activity runs; nothing of the page's data changes. PAGE_MOVE_COMPLETE (Table 6-5 steps 3 to 5): the stored lines are copied as they stand, one write switches the entry to the new frame, the source frame is written as ZERO, and the record and the activity end. Where the clauses rest on the model's own choices, these are log entries 16, 23. -/
def Obligations.PageMoves : Prop :=
  (∀ (inst : FnId) (page f : Nat) (a : Act) (st : Stall) (s : State),
    let i := inst.toNat
    let la := page * 65536
    let key := (s.pageOf i la).1
    let e := (s.pageOf i la).2
    let packed := match regionOf s i la with | some r => r.offload | none => false
    let run := { a with res := Res.page key :: (partsOf s e.set ++ partsOf s st.slowSet).map Res.part, running := true }
    s.stall i = some st → e.valid = true → e.moving = false → e.home = .fast → e.base = false → (e.rt && s.rtRunning i) = false →
    actFor s .mv (.page key) = some a → freeFrame s st.slowSet ({ e with packed := packed } : Pte).frames (if e.big && !packed then 32 else 1) = some f →
    mayStart s.acts { a with res := run.res } = true →
    ∃ t, exec (.pageMove inst page .slow) s = .next t ∧
      t.pte key = { e with moving := true, moveId := freeMoveId s } ∧ t.lines = s.lines ∧
      t.moves = s.moves ++ [{ id := freeMoveId s, inst := i, page := page, home := .slow, set := st.slowSet, frame := f, done := none }] ∧
      t.acts = s.acts.map (fun x => if x.id == a.id then run else x)) ∧
  (∀ (id : Nat) (finds : List LineFind) (m : MoveRec) (s : State),
    let la := m.page * 65536
    let key := (s.pageOf m.inst la).1
    let e := (s.pageOf m.inst la).2
    let e' := { e with home := m.home, set := m.set, frame := m.frame, moving := false, moveId := 0, packed := false }
    let s2 := zeroPage e e.frames ((copyLines m.inst key e e' (pageFirstLine la e) finds s).setPte key e')
    let s3 := { s2 with moves := s2.moves.filter (fun x => x.id != id) }
    s.moves.find? (fun m => m.id == id) = some m → e.valid = true → e.moving = true → e.moveId = id → e.packed = false → m.home = .fast → m.done = none →
    exec (.pageMoveComplete id finds) s = .next (match actFor s3 .mv (.page key) with | some a => endAct a.id s3 | none => s3))

/-- Re-keying (Table 7-4): REKEY_PAGE of a marked page takes a fresh record and lets its activity start; LINE_REKEY_COMPLETE re-keys the line that a write waits for; REKEY_COMPLETE re-keys every line, then changes the entry's epoch and MAP in one write, and ends the record and the activity. Scrub and repair (R189, R190, R192, R391): a visit to a line or a frame beyond its part's capacity is no visit, and stops; a visit to a line of no page counts what it corrects against the device alone; a frame that is declared for retirement and that holds no page is never given out again; interface errors recalibrate a channel; a run of freed frames is written as ZERO and goes back to the pool. Where the clauses rest on the model's own choices, these are log entries 11, 47. -/
def Obligations.RekeyScrubRepair : Prop :=
  (∀ (inst : FnId) (page line : Nat) (finds : List LineFind) (r r' : RekeyRec) (a : Act) (s : State),
    let i := inst.toNat
    let key := (s.pageOf i (page * 65536)).1
    let e := (s.pageOf i (page * 65536)).2
    let lkey := (s.pageOf i (line * 128)).1
    let le := (s.pageOf i (line * 128)).2
    (e.valid = true → e.base = false → actFor s .rk (.page key) = some a →
      exec (.rekeyPage inst page) s = .next (if a.running then ensureRekey i key s else if mayStart s.acts a then ensureRekey i key (startAct a.id none s) else s)) ∧
    (s.rekeyOf e key = some r → actFor s .rk (.page key) = some a → a.running = true →
      let s2 := (forEach (fun k s => rekeyLine i key e r (128 * k) (pageFirstLine (page * 65536) e + k) (findAt finds k) s) (List.range (e.frames * 512)) s).setPte key { e with epoch := r.epoch, map := r.map }
      exec (.rekeyComplete inst page finds) s = .next (endAct a.id { s2 with rekeys := s2.rekeys.filter (fun x => x != r) })) ∧
    (s.rekeyOf le lkey = some r' →
      exec (.lineRekeyComplete inst line) s = .next (retryIngests i (rekeyLine i lkey le r' (line * 128 % le.bytes) line goodFind s)))) ∧
  (∀ (part : Fin 28) (channel : BitVec 7) (frame : Nat) (row : Nat) (find : LineFind) (a : Act) (r : ScrubRun) (s : State),
    (find.line ≥ partLines part → exec (.patrolScrubVisit part find) s = .fault .beyondPart) ∧
    (frame * 512 ≥ partLines part → exec (.tenantScrub part frame) s = .fault .beyondPart ∧ ∀ spare, exec (.frameRetirement part frame spare) s = .fault .beyondPart) ∧
    (find.line < partLines part → scrubFree s part = true → ownerOfLine s part find.line = none → findCorrected find = true → findBadWords find = 0 → find.mdata ≠ .bad →
      exec (.patrolScrubVisit part find) s = .next (raiseDev 8 0 (frameDetail part (frameOfLine find.line)) (noteCorrections part find.line find s))) ∧
    (find.line < partLines part → scrubFree s part = false → exec (.patrolScrubVisit part find) s = .next s) ∧
    (frame * 512 < partLines part → actFor s .fr (.frame part frame) = some a → a.running = true ∨ mayStart s.acts a = true → pagesOnFrame s part frame = [] →
      let s2 := endAct a.id (raiseDev 8 2 (frameDetail part frame) { s with retired := s.retired ++ [(part.val, frame)] })
      exec (.frameRetirement part frame none) s = .next s2 ∧ exec (.frameRetirement part frame (some row)) s = .next (spareRow part row s2)) ∧
    (let s1 := declareAct .pc [.channel part channel.toNat] none (part + channel.toNat <<< 5) (raiseDev 8 5 (part + channel.toNat <<< 5) s)
     findAct s1 s.nextAct = some a → exec (.channelRecal part channel) s = .next (if mayStart s1.acts a then startAct a.id none s1 else s1)) ∧
    (frame * 512 < partLines part → scrubRun s part frame = some r →
      exec (.tenantScrub part frame) s = .next (zeroPage { set := r.set, frame := r.frame } r.count { s with scrub := s.scrub.filter (fun x => x != r) })))

/-! ## Fine-tuning (09_fine_tuning) -/

/-- SWEEP_START sweeps every tensor of the step's job into the pending banks, with the digest begun over its first 20 bytes, unless a snapshot still reads the pending bank (R236 to R240, R254). SWEEP_END contributes the device's byte and digest (R241). WORKING_COPY_CONVERTED and EXPORT_WINDOW_RESUME take a commit on to its last step (R252, Table 9-5). -/
def Obligations.SweepAndCommit : Prop :=
  ∀ (fn : FnId) (job : BitVec 32) (finds : List LineFind) (p : Step) (j : Job) (s : State),
    let i := fn.toNat
    let swept := sweepAll i j p finds j.tensors 0 ({ crc := crc64Go 0xFFFFFFFFFFFFFFFF (digestHead j p) }, s)
    let acc := swept.1
    (sweepReady s i = some (p, j) → j.snapshot = none →
      exec (.sweepStart fn finds) s =
        .next ((swept.2.updJob i j.id (fun j => { j with sweep := acc.res, digest := BitVec.ofNat 64 (acc.crc ^^^ 0xFFFFFFFFFFFFFFFF) })).updStep i p.tag (fun p => { p with
          at_ := .sweeping, nonfinite := p.nonfinite || acc.wild, failed := p.failed || acc.poisoned
          cause := if acc.poisoned then some (p.cause.getD .memory) else p.cause }))) ∧
    ((s.inst i).steps.find? (fun p => p.at_ == .sweeping) = some p → sweepPaused s i = false → s.jobOf i p.job = some j →
      exec (.sweepEnd fn) s = .next (contribute i p.job p.contribution j.digest (s.updStep i p.tag (fun p => { p with at_ := .verdict })))) ∧
    (s.jobStep i job.toNat = some p → p.at_ = .committing false →
      exec (.workingCopyConverted fn job) s =
        .next (stepBoundary i (completeCommit i job.toNat ((convertWorking i job.toNat s).updStep i p.tag (fun p => { p with at_ := .committing true }))))) ∧
    (s.jobStep i job.toNat = some p → p.at_ = .committing true → exec (.exportWindowResume fn job) s = .next (stepBoundary i (completeCommit i job.toNat s)))

/-- VERDICT_TIMEOUT of a device that contributed and whose verdict has not come within the job's timeout (R242): VERDICT_TIMEOUT is recorded, the pending banks are dropped, the device leaves the job, and its step completes with TIMEOUT_FABRIC. RECORD_SET_DELIVERED writes the notify word behind the set and lets the next one go (R316, R345). SHARD_SNAPSHOT_COMPLETE to the host writes the shard and completes with its length and step (R254). Where the clauses rest on the model's own choices, these are log entry 11. -/
def Obligations.JobEvents : Prop :=
  ∀ (fn : FnId) (job : BitVec 32) (c : Nat) (bs : Bytes) (rest : List (Nat × Bytes)) (x : Export) (sh : Snapshot) (p : Step) (j : Job) (s : State),
    let i := fn.toNat
    let id := job.toNat
    s.jobOf i id = some j →
    (j.contributed = true → j.contribAt + j.timeoutUs * 1000 ≤ s.now.toNat → j.reshard = none →
      let s2 := (raise i 3 7 id (clearVotes i id s)).updJob i id (fun j => { j with sweep := [], pendClips := [], st := .jLost, lost := j.lost ++ [s.sys.devId.toNat] })
      s2.jobStep i id = some p → exec (.verdictTimeout fn job) s = .next (endStep i p.tag St.timeoutFabric j.committed s2)) ∧
    (s.now.toNat < j.contribAt + j.timeoutUs * 1000 → exec (.verdictTimeout fn job) s = .next s) ∧
    (j.exp = some x → x.queue = (c, bs) :: rest → x.delivered = c → s.rdmaOpen i (.recordSet id) = false → (s.fn i).mayWrite = true →
      exec (.recordSetDelivered fn job) s = .next (exportPump i id (replaceExport i id
        ((setExportBit i (s.emit (.notify i x.spec.notify (BitVec.ofNat 64 c)))).updJob i id (fun j => { j with exp := some { x with queue := rest } }))))) ∧
    (j.snapshot = some sh → sh.storage = false →
      exec (.shardSnapshotComplete fn job) s = .next (finish i sh.tag St.done (sh.shard.length + sh.step <<< 64) (hostWrite i sh.addr sh.shard (s.updJob i id (fun j => { j with snapshot := none })))))

/-! ## The fabric (10_fabric) -/

/-- Each frame row acts once the link has accepted the frame in its LSEQ, its header has no fault, its port is UP (bring-up and link messages come earlier) and it is for this device (R257 to R264, Table 10-2): flow frames by their flow's entry, EPOCH and SEQ, the others at once. A frame whose TYPE another row names has no effect as this row. Where the clauses rest on the model's own choices, these are log entries 11, 17, 44. -/
def Obligations.FramesReceived : Prop :=
  ∀ (port : Fin 96) (f : RxFrame) (rtt : BitVec 16) (s s1 : State),
    let h := Hdr.parse f.hdr
    let p := port.val
    let bs := f.payload
    let got := fun (typ : Nat) (i : Instr) (u : State) =>
      (Received p typ f s s1 → exec i s = .next u) ∧ (h.typ ≠ typ → knownTypes.contains h.typ = true → exec i s = .next s)
    got 0 (.dataFrame port f) (flowFrame p h (dataLands p h bs) s1) ∧
    got 1 (.signalFrame port f) (flowFrame p h (signalLands p h) s1) ∧
    got 2 (.collFrame port f) (flowFrame p h (collLands p h bs) s1) ∧
    got 3 (.verdictFrame port f) (verdictLands p h bs s1) ∧
    got 4 (.e2eAck port f) (ackLands h bs s1) ∧
    got 5 (.pathDown port f) (if (s1.src (flowKey (num bs 0 2) h.flow)).opened && (s1.src (flowKey (num bs 0 2) h.flow)).epoch == h.epoch then reroute (flowKey (num bs 0 2) h.flow) s1 else s1) ∧
    got 6 (.loss port f) (if (s1.insts.filter (fun n => n.2.jobs.any (fun j => j.id == num bs 0 4 && j.members.any (fun e => e.device == num bs 4 2) && !j.lost.contains (num bs 4 2)))).isEmpty then s1
      else forEach (fun n s => loseMember n.1 (num bs 0 4) (num bs 4 2) s)
        (s1.insts.filter (fun n => n.2.jobs.any (fun j => j.id == num bs 0 4 && j.members.any (fun e => e.device == num bs 4 2) && !j.lost.contains (num bs 4 2))))
        (raiseDev 10 4 (num bs 4 2 % 2 ^ 14) s1)) ∧
    got 8 (.hail port f rtt) (hailLands p bs rtt s1) ∧
    got 9 (.linkAck port f) (linkAckLands p bs s1) ∧
    got 0xA (.topo port f) (topoLands p bs s1) ∧
    got 0xB (.spdmFrame port f) (spdmLands p bs s1)

/-- With every memory in its canonical form (an invariant: StepKeepsMemories), a DATA frame of an open flow, from the flow's source, under the current EPOCH (R272, R274). With the expected SEQ, for a core of the stall and within SRAM below the reserved area's rules, its payload is in the core's SRAM whole, no other byte of SRAM and no byte of device memory changes, and the next SEQ is expected; with a lower SEQ it is dropped, counted and acknowledged again; with a higher one dropped and answered with a NAK. Where the clauses rest on the model's own choices, these are log entries 17, 44. -/
def Obligations.DataFrames : Prop :=
  ∀ (port : Fin 96) (f : RxFrame) (d : FlowDst) (st : Stall) (s s1 : State),
    let h := Hdr.parse f.hdr
    let a := h.dst * 64
    let bs := f.payload
    let n := bs.length
    let diff := (h.seq + 2 ^ 24 - d.expSeq % 2 ^ 24) % 2 ^ 24
    let s2 := updDst h.flow (fun d => { d with epoch := h.epoch, port := port.val }) s1
    s1.memWf = true → Received port.val 0 f s s1 → s1.dstOf h.flow = some d → d.opened = true → d.src = h.src → d.epoch = h.epoch →
    (diff = 0 → h.inst = d.fn → h.gen = (s1.inst d.fn).gen.toNat → d.gen = h.gen → (h.cls == 1) = d.bubble → reshardFrom s1 d.fn h.src d.bubble = none →
      areaOk d a n s1 = true → s1.stall d.fn = some st → st.holds h.core = true → (s1.core h.core).spilled = none →
      h.oper = 0 → h.sig = false → h.poison = false → h.lovf = false → h.lnf = false → d.unacked < 15 →
      ∃ t, exec (.dataFrame port f) s = .next t ∧ t.sramRead h.core a n = bs ∧ (∀ x, x < a ∨ a + n ≤ x → t.sramRead h.core x 1 = s1.sramRead h.core x 1) ∧
        (∀ k, k ≠ h.core → t.core k = s1.core k) ∧ t.lines = s1.lines ∧
        t.dstOf h.flow = some { d with epoch := h.epoch, port := port.val, expSeq := d.expSeq + 1, unacked := d.unacked + 1 }) ∧
    (0 < diff → diff < 2 ^ 23 → exec (.dataFrame port f) s = .next (answer h.flow 1 (dropOther port.val s2))) ∧
    (2 ^ 23 ≤ diff → exec (.dataFrame port f) s = .next (answer h.flow 0 (dropOther port.val s2)))

/-- What arrives for an instance's resource carries its instance and generation; a frame under another generation is discarded, counted and answered as gone, and changes no SRAM (R274, R364, R365, R393). -/
def Obligations.OldFramesDiscarded : Prop :=
  ∀ (port : Nat) (h : Hdr) (bs : Bytes) (d : FlowDst) (s : State),
    h.gen ≠ (s.inst d.fn).gen.toNat →
    (dataLands port h bs d s).1 = 3 ∧ (signalLands port h d s).1 = 3 ∧ (collLands port h bs d s).1 = 3 ∧
    (∀ k x n, (dataLands port h bs d s).2.sramRead k x n = s.sramRead k x n) ∧ (dataLands port h bs d s).2.lines = s.lines ∧
    ∀ o, (signalLands port h d s).2.obj o = s.obj o

/-- MEMBER_LOSS_TIMEOUT of a device that no path reaches is reported to every job that holds it (R275). FLOW_MATCH with the peer's declaration opens the flow, and the image is installed once all its flows are open; a refusal fails the load with REFUSED_FIT, a timeout with TIMEOUT_FABRIC (R286). The timers of a flow (R272, R273): the destination acknowledges what is unacknowledged; the source resends once on the same path and then reroutes; a fenced flow that finds no path is broken. A collective completes once every member's part is in DST, and adds 1 to DONE; past its TIMEOUT it fails (R278). Where the clauses rest on the model's own choices, these are log entries 11, 17, 44. -/
def Obligations.MembersMatchesTimers : Prop :=
  (∀ (dev : BitVec 14) (fn : FnId) (flow : BitVec 20) (cls : Bool) (rate : BitVec 24) (tag k : Nat) (im : Image) (left : List Nat) (st : Stall) (fd : FlowDecl) (s s1 : State),
    let i := fn.toNat
    let waits := (s.inst i).loading = some (tag, im, left, false) ∧ s.stall i = some st ∧ matching im left flow.toNat cls rate.toNat = some k ∧ im.flows[k]? = some fd
    (routeTo s dev.toNat = none → dev ≠ s.sys.devId → exec (.memberLossTimeout dev) s = .next (reportLoss dev.toNat s)) ∧
    ((routeTo s dev.toNat).isSome = true → exec (.memberLossTimeout dev) s = .next s) ∧
    (waits → openFlow i st im fd s = .opened s1 → left.filter (· != k) ≠ [] →
      exec (.flowMatch fn flow cls rate false) s = .next (s1.updInst i (fun n => { n with loading := some (tag, im, left.filter (· != k), false) }))) ∧
    (waits → openFlow i st im fd s = .opened s1 → left.filter (· != k) = [] → exec (.flowMatch fn flow cls rate false) s = .next (installImage i tag st im s1)) ∧
    (waits → exec (.flowMatch fn flow cls rate true) s = .next (failLoad i tag St.refusedFit s)) ∧
    (waits → k ∈ left → fd.flow = flow.toNat → exec (.flowMatchTimeout fn flow) s = .next (failLoad i tag St.timeoutFabric s))) ∧
  (∀ (dest : BitVec 14) (flow : BitVec 20) (fn : FnId) (coll : BitVec 16) (d : FlowDst) (c : Coll) (r : CollRun) (s : State),
    let key := flowKey dest.toNat flow.toNat
    let f := s.src key
    let i := fn.toNat
    let k := coll.toNat
    let ended := addObj i c.done 1 { s with colls := s.colls.filter (fun x => !(x.fn == i && x.coll == c.coll)) }
    (s.dstOf flow.toNat = some d → exec (.e2eAckTimer flow) s = .next (if d.unacked = 0 then s else
      sendE2eAck d.src flow.toNat (b2n d.bubble) (d.expSeq % 2 ^ 24) d.epoch 0 (updDst flow.toNat (fun d => { d with unacked := 0 }) s))) ∧
    (f.opened = true → f.broken = false → f.fenced = false → f.retained ≠ [] →
      exec (.flowResendTimeout dest flow) s = .next (if f.timeouts = 0 then resendAll key (s.updSrc key (fun f => { f with timeouts := f.timeouts + 1 })) else reroute key s)) ∧
    (f.opened = true → f.broken = false → f.fenced = true → exec (.flowNoPathTimeout dest flow) s = .next (breakFlow key s)) ∧
    (collOf s i k = some c → runOf s i k = some r → collFull c r = true →
      exec (.collectiveComplete fn coll) s = .next (if ended.2 then failRunning i c.bubble .device ended.1 else ended.1)) ∧
    (collOf s i k = some c → runOf s i k = some r → collFull c r = false → exec (.collectiveComplete fn coll) s = .next s) ∧
    (collOf s i k = some c → runOf s i k = some r →
      exec (.collectiveTimeout fn coll) s = .next (if r.startedAt + c.timeout * 1000 ≤ s.now.toNat then failColl i c s else s)))

/-- The ports (R267 to R269): a DOWN port that sees signal trains; a trained SFL port hails, a trained storage port is UP; an attesting port goes UP only where the peer's identity chain verifies and its digest is in the link policy, else it is REFUSED; an UP port that loses lock or is silent goes DOWN; hails and acknowledgements go out by their timers; a new link key is announced. Where the clauses rest on the model's own choices, these are log entries 11, 17, 44. -/
def Obligations.PortStates : Prop :=
  ∀ (port : Fin 96) (digest : BitVec 384) (s : State),
    let i := port.val
    let p := s.port i
    let becomes := fun st => s.updPort i (fun p => { p with st := st })
    (s.linksRun = true → p.mode = .sfl → p.st = .down → exec (.portSignalDetect port) s = .next (becomes .training)) ∧
    (s.linksRun = true → p.mode = .sfl → p.st = .training → exec (.linkTrainingDone port) s = .next (s.updPort i (fun p => { p with st := .hailing, hailCount := 0, echo := 0 }))) ∧
    (s.linksRun = true → p.mode = .storage → p.st = .down → exec (.linkTrainingDone port) s = .next (becomes .up)) ∧
    (p.st = .attesting →
      exec (.attestationDone port false digest) s = .next (raiseDev 10 2 (i + 1 <<< 8) (becomes .refused)) ∧
      (s.sys.linkPolicy.contains digest = false → exec (.attestationDone port true digest) s = .next (raiseDev 10 2 (i + 2 <<< 8) (becomes .refused))) ∧
      (s.sys.linkPolicy.contains digest = true → exec (.attestationDone port true digest) s =
        .next (ownTopoChange (raiseDev 10 1 i (drainPort i (s.updPort i (fun p => { p with st := .up, lkey := false, keySwitch := false, firstTx := 0 }))))))) ∧
    (p.st = .up → p.mode = .sfl →
      exec (.portLossOfLock port) s = .next (portDown i 1 s) ∧ exec (.portSilenceTimeout port) s = .next (portDown i 2 s) ∧
      exec (.hailTimer port) s = .next (sendHail i p.st.code s) ∧ exec (.linkAckTimer port) s = .next (sendLinkAck i false s) ∧
      (p.keySwitch = false → exec (.linkKeyUpdate port) s =
        .next (sendControl i 0xB [0x13, 0xE9, 1, 0] (s.updPort i (fun p => { p with lkey := !p.lkey, keySwitch := true, firstTx := 0 })))))

/-- The storage ports (R280 to R282, R365): an answer to an open request of the current generation acts on what asked for it, one of an old generation is discarded and counted, one for no request is dropped and counted; a NAK sends again; the eighth expiry or 500 ms without progress ends the request; PFC pauses the port; CNPs and incoming requests are counted. Where the clauses rest on the model's own choices, these are log entries 11, 35. -/
def Obligations.StorageEvents : Prop :=
  ∀ (port : Fin 96) (req : Nat) (data : Bytes) (ok : Bool) (qpn psn : BitVec 24) (r : Rdma) (s : State), storageUp s port.val = true →
    let i := port.val
    (reqOf s i req false = some r →
      exec (.rdmaReadResponse port req data ok false) s = .next (if stale s r then lateDiscard r.fn 3 (dropReq r s) else readArrives r data ok (dropReq r s))) ∧
    (reqOf s i req false = none → exec (.rdmaReadResponse port req data ok false) s = .next (dropOther i s)) ∧
    (reqOf s i req true = some r → exec (.rdmaAck port req) s = .next (if stale s r then lateDiscard r.fn 3 (dropReq r s) else writeVisible r (dropReq r s))) ∧
    (reqOf s i req true = none → exec (.rdmaAck port req) s = .next (dropOther i s)) ∧
    exec (.rdmaNak port qpn psn) s = .next (forEach resend (s.rdmas.filter (fun r => r.sent && r.port == i && r.qpn == qpn.toNat)) s) ∧
    (s.qps.any (fun q => q.port == i && q.qpn == qpn.toNat) = true → exec (.cnp port qpn) s = .next (s.updPort i (fun p => { p with cnps := p.cnps + 1 }))) ∧
    exec (.incomingRequestDrop port) s = .next (dropOther i s) ∧
    (s.rdmas.find? (fun r => r.port == i && r.id == req && r.sent) = some r → 7 ≤ r.retries → exec (.rdmaAckTimeout port req) s = .next (timeOut r s)) ∧
    (s.rdmas.find? (fun r => r.port == i && r.id == req && r.sent) = some r → r.retries < 7 → (s.port i).paused = false →
      exec (.rdmaAckTimeout port req) s = .next (resend r { s with rdmas := s.rdmas.map (fun q => if q.id == r.id then { q with retries := q.retries + 1 } else q) })) ∧
    (s.rdmas.find? (fun r => r.port == i && r.id == req) = some r → exec (.storageNoProgress port req) s = .next (timeOut r s)) ∧
    exec (.pfcFrame port true) s = .next (s.updPort i (fun p => { p with paused := true })) ∧
    exec (.pfcFrame port false) s = .next (pumpRdma i (s.updPort i (fun p => { p with paused := false })))

/-! ## The registers and the rings (12_host_interface, 15_errors) -/

/-- The shadows of a 64-bit register (R304): a read of its low half latches the high half; a read of the high half that the read shadow records returns and empties it, and any other returns the live high half; a write of its low half is held; a write of the high half that the write shadow records writes both halves at once, and any other combines with the current low half. Of the writable ones, a ring's base takes the 64 bits while its ring is disabled. A function reset, by FLR or by the Porter, empties both shadows. -/
def Obligations.RegisterShadows : Prop :=
  ∀ (fn : FnId) (r : BitVec 16) (v lo : BitVec 32) (w : BitVec 64) (tee : Tee) (elapsed : BitVec 16) (s : State),
    let i := fn.toNat
    let a := r.toNat
    let f := s.fn i
    let high := regWord s i (a + 4)
    let holds := fun (g : Fn → Option (Nat × BitVec 32)) => ∃ x, g f = some (a, x)
    let empty := fun (t : State) => (t.fn i).rdShadow = none ∧ (t.fn i).wrShadow = none
    (is64 i a = true → s.barOpen i tee = true →
      exec (.regLowHalfRead fn r tee) s = .next ((s.updFn i (fun f => { f with rdShadow := some (a, BitVec.ofNat 32 high) })).emit (.readDone i a (some (BitVec.ofNat 64 (regWord s i a))))) ∧
      (f.rdShadow = some (a, v) →
        exec (.regHighHalfRead fn (r + 4) tee) s = .next ((s.updFn i (fun f => { f with rdShadow := none })).emit (.readDone i (a + 4) (some (v.setWidth 64))))) ∧
      (¬holds Fn.rdShadow → exec (.regHighHalfRead fn (r + 4) tee) s = .next (s.emit (.readDone i (a + 4) (some (BitVec.ofNat 64 high))))) ∧
      exec (.regLowHalfWrite fn r v 15 tee) s = .next (s.updFn i (fun f => { f with wrShadow := some (a, v) })) ∧
      (f.wrShadow = some (a, lo) →
        exec (.regHighHalfWrite fn (r + 4) v 15 tee) s = .next (write64 i a 15 (lo.toNat + v.toNat * 2 ^ 32) (s.updFn i (fun f => { f with wrShadow := none })))) ∧
      (¬holds Fn.wrShadow → exec (.regHighHalfWrite fn (r + 4) v 15 tee) s = .next (write64 i a 15 (regWord s i a + v.toNat * 2 ^ 32) s))) ∧
    (w.toNat % 4096 = 0 → (f.cmdEnable = false → ((write64 i 0x200 15 w.toNat s).fn i).cmdBase = w) ∧ (f.cplEnable = false → ((write64 i 0x220 15 w.toNat s).fn i).cplBase = w)) ∧
    (f.flr = true → (s.inst i).raiseWaits = false → ∃ t, exec (.flrComplete fn) s = .next t ∧ empty t) ∧
    (s.porterRuns = true → s.sys.porter.busy = false → s.fnExists i = true → (s.inst i).removal = none → ∃ t, exec (.functionReset .mgmt fn elapsed) s = .next t ∧ empty t)

/-- Clearing CMD_ENABLE stops fetching (R311): no new read of the command ring is issued, by the doorbell or by what lets other fetches go on; the fetches outstanding stay outstanding, and their entries are taken as fetched, CMD_HEAD advancing past each; one with an unknown code completes at once with BAD_COMMAND, the others wait as taken, as those fetched before do, and each is acted on by the same rules as with the ring enabled. CMD_STOPPED reads 1 once no fetch is outstanding. -/
def Obligations.FetchStops : Prop :=
  ∀ (fn : FnId) (v w : BitVec 32) (tee : Tee) (es : List Entry) (e : Entry) (r : Rules) (s : State),
    let i := fn.toNat
    let f := s.fn i
    let known := fun (e : Entry) => !decide (fld e 7 0 = 0 ∨ fld e 7 0 > familyCodes (fld e 15 8))
    let cleared := s.updFn i (fun f => { f with cmdEnable := false })
    let past := fun (n : Nat) => (f.cmdHead.toNat + n) % 2 ^ f.cmdSize.toNat
    (s.barOpen i tee = true → v.toNat % 2 = 0 → exec (.cmdEnableWrite fn v 15 tee) s = .next cleared ∧ whyNot i e r cleared = whyNot i e r s) ∧
    (f.cmdEnable = false → pumpRing i s = s ∧ ∃ t, exec (.cmdDoorbell fn w 15 tee) s = .next t ∧ (t.fn i).fetching = f.fetching ∧ ∀ a n, Out.cmdFetch i a n ∈ t.out → Out.cmdFetch i a n ∈ s.out) ∧
    (f.cmdSize.toNat ≤ 16 → past 0 = f.cmdHead.toNat → f.mayWrite = true → es.length ≤ f.fetching → ∃ t, exec (.commandFetchReturn fn es) s = .next t ∧
      (t.fn i).cmdHead.toNat = past es.length ∧ (t.fn i).fetching = f.fetching - es.length ∧ (t.fn i).taken = f.taken ++ es.filter known) ∧
    (f.mayWrite = true → f.fetching ≠ 0 → known e = false → exec (.commandFetchReturn fn [e]) s =
      .next (finishCmd i (fld e 15 8) (fld e 63 32) St.badCommand 0 (s.updFn i (fun f => { f with cmdHead := BitVec.ofNat 16 (past 1), fetching := f.fetching - 1 })))) ∧
    (f.cmdEnable = false → (regWord s i 0x20C / 2 % 2 = 1 ↔ f.fetching = 0))

/-- A write of a register that BAR0 does not take changes nothing; one with some byte enables clear is ignored and logged (R14, R303, R305). Taken whole, the doorbell and the enables of the rings act (R309, R310, R314), a write of up to 8 bytes is one access or two in rising order, and a read of an RC register returns it and clears it (R14). Interrupts and causes (R308, R324, R398): writing 1s to SUMMARY_STATUS clears its three summary bits and SUMMARY_ENABLE takes nine bits, and neither touches a cause; writing 1s to a CAUSE register clears those causes with their records, but no live cause and no cause of another group; a message that was due goes out when the holdoff ends; unmasking sends what the PBA holds. -/
def Obligations.AccessAndInterrupts : Prop :=
  (∀ (fn : FnId) (off : BitVec 16) (v : BitVec 32) (be : BitVec 4) (w : BitVec 64) (p : Fin 96) (tee : Tee) (s : State),
    let i := fn.toNat
    let f := s.fn i
    let size := 2 ^ f.cmdSize.toNat
    let d := v.toNat % 65536
    let port := s.port p.val
    (∀ x ∈ [(Instr.cmdDoorbell fn v be tee, 0x210), (.cmdEnableWrite fn v be tee, 0x20C), (.cplEnableWrite fn v be tee, 0x22C), (.cplHeadWrite fn v be tee, 0x230),
        (.summaryStatusWrite fn v be tee, 0x100), (.summaryEnableWrite fn v be tee, 0x104), (.causeWrite fn off v be tee, off.toNat), (.regLowHalfWrite fn off v be tee, off.toNat),
        (.regHighHalfWrite fn off v be tee, off.toNat)],
      (s.barOpen i tee = false → exec x.1 s = .next s) ∧ (s.barOpen i tee = true → be ≠ 15 → exec x.1 s = .next (regIgnored i x.2 be.toNat true s))) ∧
    (s.barOpen i tee = false → exec (.rcRegisterRead fn off 15 tee) s = .next (s.emit (.readDone i off.toNat none)) ∧ exec (.registerWrite fn off w 255 tee) s = .next s) ∧
    (s.barOpen i tee = true →
      exec (.cmdDoorbell fn v 15 tee) s = .next (if f.cmdEnable = false ∨ d ≥ size then regIgnored i 0x210 15 true s else pumpRing i (s.updFn i (fun f => { f with doorbell := BitVec.ofNat 16 d }))) ∧
      (v.toNat % 2 = 1 → f.cmdEnable = false → f.cmdSize ≠ 0 → exec (.cmdEnableWrite fn v 15 tee) s = .next (s.updFn i (fun f => { f with cmdEnable := true, cmdHead := 0, doorbell := 0 }))) ∧
      (v.toNat % 2 = 1 → f.cplEnable = false → f.cplSize ≠ 0 →
        exec (.cplEnableWrite fn v 15 tee) s = .next (releaseHeld i (s.updFn i (fun f => { f with cplEnable := true, cplHead := 0, cplTail := 0, cplPhase := true })))) ∧
      (f.cplSize ≠ 0 → d < 2 ^ f.cplSize.toNat → exec (.cplHeadWrite fn v 15 tee) s = .next (releaseHeld i (s.updFn i (fun f => { f with cplHead := BitVec.ofNat 16 d })))) ∧
      (off.toNat % 8 = 0 → is64 i off.toNat = true → exec (.registerWrite fn off w 255 tee) s = .next (write64 i off.toNat 15 w.toNat s)) ∧
      (is64 i off.toNat = false →
        exec (.registerWrite fn off w 255 tee) s = .next (write32 i (off.toNat + 4) 15 (w.toNat / 2 ^ 32) (write32 i off.toNat 15 (w.toNat % 2 ^ 32) s))) ∧
      (i = 0 → exec (.rcRegisterRead fn 0x7008 15 tee) s = .next ((s.updSys (fun y => { y with topoChanges := 0 })).emit (.readDone 0 0x7008 (some (s.sys.topoChanges.setWidth 64)))) ∧
        exec (.rcRegisterRead fn (0xA008 + BitVec.ofNat 16 (64 * p.val)) 15 tee) s =
          .next ((s.updPort p.val (fun x => { x with replays := 0, downs := 0 })).emit (.readDone 0 (0xA008 + 64 * p.val) (some (BitVec.ofNat 64 (port.replays.toNat + port.downs.toNat * 65536)))))))) ∧
  (∀ (fn : FnId) (off : BitVec 16) (v : BitVec 32) (tee : Tee) (tree g : Nat) (s : State),
    let i := fn.toNat
    let f := s.fn i
    let msg := fun (t : State) => Out.msix i (f.msixTable.setWidth 64) ((f.msixTable >>> 64).setWidth 32) ∈ t.out ∧ (t.fn i).pba = false ∧ (t.fn i).msgDue = false
    let idle := ∀ m, f.lastMsg = some m → m + f.holdoff.toNat * 1000 ≤ s.now.toNat
    (s.barOpen i tee = true →
      (∃ t, exec (.summaryStatusWrite fn v 15 tee) s = .next t ∧ t.causes = s.causes ∧
        (t.fn i).sumCpl = (f.sumCpl && !v.getLsbD 0) ∧ (t.fn i).sumExport = (f.sumExport && !v.getLsbD 7) ∧ (t.fn i).sumMaint = (f.sumMaint && !v.getLsbD 8)) ∧
      (∃ t, exec (.summaryEnableWrite fn v 15 tee) s = .next t ∧ t.causes = s.causes ∧ (t.fn i).sumEnable = v.setWidth 9 ∧
        (t.fn i).sumCpl = f.sumCpl ∧ (t.fn i).sumExport = f.sumExport ∧ (t.fn i).sumMaint = f.sumMaint) ∧
      (causeAt i off.toNat = some (tree, g) → ∃ t, exec (.causeWrite fn off v 15 tee) s = .next t ∧
        ∀ tree' g' b, b < 32 → Tbl.get {} t.causes (causeKey tree' g' b) =
          if causeKey tree' g' 0 = causeKey tree g 0 ∧ b < 24 ∧ v.getLsbD b = true ∧ isLive g b = false then {} else Tbl.get {} s.causes (causeKey tree' g' b))) ∧
    (f.msgDue = false → exec (.intrHoldoffExpiry fn) s = .next s) ∧
    (f.msgDue = true → f.msixEnable = true → f.masked = false → f.mayWrite = true → idle → ∃ t, exec (.intrHoldoffExpiry fn) s = .next t ∧ msg t) ∧
    (s.fnExists i = true → f.pba = true → f.mayWrite = true → idle → ∃ t, exec (.msixUnmask fn) s = .next t ∧ (t.fn i).pba = false ∧ (t.fn i).masked = false ∧ (t.fn i).msixEnable = true ∧
      ∃ a d, Out.msix i a d ∈ t.out))

/-! ## The host: reads, requests, resets, the link (12_host_interface) -/

/-- The end of a host read (R319, R320, R365): data of the asked length goes to the ingest that asked; a poisoned, failed or timed-out read ends its transfer; one of an old generation is discarded and counted; an unknown tag is only freed. With Bus Master Enable cleared or in D3hot a function's reads and fetches are forgotten and the transfers they served end; its held completions go on when it may issue requests again (R300, R321). FLR, VF Enable and the link (R298, R299, R322, R323, R373): an FLR of a VF drops everything keyed to its generation, and its TDI returns to CONFIG_UNLOCKED; one of the PF also clears VF Enable, and one without a command in progress ends with rings disabled and requests off. Enabled VFs exist with reset registers. A link that comes up has its rate and width, one that retrains is recorded, one that is lost is down. Where the clauses rest on the model's own choices, these are log entries 11, 25, 36. -/
def Obligations.HostReadsAndResets : Prop :=
  (∀ (fn : FnId) (tag : BitVec 14) (status : RcStatus) (data : Bytes) (finds : List LineFind) (q : DmaRead) (t : Nat) (s : State),
    let i := fn.toNat
    let f := s.fn i
    let k := tag.toNat
    let free := freeReadTag k s
    let found := s.dmaReads.find? (fun r => r.tag == k) = some q
    let forgets := fun (c : Instr) (g : Fn → Fn) => exec c s = .next (withdraw i (s.updFn i g)) ∧
      (readingSteps s i = [] → exec c s = .next ({ s.updFn i g with dmaReads := s.dmaReads.filter (fun r => r.fn != i) }.updFn i (fun f => { f with fetching := 0 })))
    (s.dmaReads.find? (fun r => r.tag == k) = none → exec (.completionTimeout tag) s = .next free ∧ exec (.hostReadCompletion tag status data finds) s = .next free) ∧
    (found → q.gen ≠ (s.inst q.fn).gen.toNat →
      exec (.completionTimeout tag) s = .next (lateDiscard q.fn 1 free) ∧ exec (.hostReadCompletion tag status data finds) s = .next (lateDiscard q.fn 1 free)) ∧
    (found → q.gen = (s.inst q.fn).gen.toNat → q.engGen = Tbl.get 0 s.dmaGen q.engine → q.use = .ingest t →
      exec (.completionTimeout tag) s = .next (abortTransfer q.fn t free) ∧
      (status ≠ .successful ∨ data.length ≠ q.len → exec (.hostReadCompletion tag status data finds) s = .next (abortTransfer q.fn t free)) ∧
      (status = .successful → data.length = q.len → exec (.hostReadCompletion tag status data finds) s = .next (ingestPiece q.fn t q.offset data finds free))) ∧
    (s.fnExists i = true → f.bme = true → forgets (.busMasterDisable fn) (fun f => { f with bme := false })) ∧
    (s.fnExists i = true → f.d3hot = false → forgets (.d3hotEntry fn) (fun f => { f with d3hot := true })) ∧
    (s.fnExists i = true → s.sys.linkUp = true → f.flr = false → f.d3hot = false → exec (.busMasterEnable fn) s = .next (goOn i (s.updFn i (fun f => { f with bme := true })))) ∧
    (s.fnExists i = true → f.d3hot = true → f.bme = true → f.flr = false → exec (.d0Return fn) s = .next (goOn i (s.updFn i (fun f => { f with d3hot := false }))))) ∧
  (∀ (fn : FnId) (n : BitVec 6) (rate : BitVec 3) (width : BitVec 5) (s : State),
    let i := fn.toNat
    let gone := fun (k : Nat) (t : State) => (t.inst k).image = none ∧ (t.inst k).steps = [] ∧ (t.inst k).jobs = [] ∧ (t.inst k).adapters = [] ∧ (t.inst k).tdi = .unlocked ∧
      (t.inst k).removal.isSome = true ∧ (t.fn k).taken = [] ∧ (t.fn k).held = []
    (i ≠ 0 → s.fnExists i = true → s.sys.linkUp = true → (s.fn i).flr = false → exec (.flr fn) s = .next (startFlr i s) ∧ gone i (startFlr i s)) ∧
    (s.sys.linkUp = true → (s.fn 0).flr = false → ∃ t, exec .pfFlr s = .next t ∧ t = startFlr 0 (clearVfs true (dropPfCommands s)) ∧ gone 0 t) ∧
    ((s.fn i).flr = true → (s.inst i).raiseWaits = false → ∃ t, exec (.flrComplete fn) s = .next t ∧
      (t.fn i).flr = false ∧ (t.fn i).cmdEnable = false ∧ (t.fn i).cplEnable = false ∧ (t.fn i).bme = false ∧ t.lines = s.lines) ∧
    (s.sys.vfEnable = true → ∃ t, exec .vfEnableClear s = .next t ∧ t = clearVfs false s ∧ t.sys.vfEnable = false ∧ t.sys.numVFs = 0) ∧
    (s.sys.vfEnable = false → s.sys.linkUp = true → n ≠ 0 → ∃ t, exec (.vfEnableSet n) s = .next t ∧ t.sys.numVFs = n ∧
      ∀ k, 1 ≤ k → k ≤ n.toNat → t.fnExists k = true ∧ (t.fn k).cmdEnable = false ∧ (t.fn k).bme = false ∧ (t.fn k).mse = true) ∧
    (s.sys.linkUp = false → s.sys.perstN = true → s.sys.pcieRefclkOk = true → s.sys.pcieLoop = false → s.sys.phase = .operational ∨ s.sys.phase = .starting →
      ∃ t, exec (.pcieLinkUp rate width) s = .next t ∧ t.sys.linkUp = true ∧ t.sys.linkRate = rate ∧ t.sys.linkWidth = width ∧ (t.fn 0).mse = true) ∧
    (s.sys.linkUp = true → exec (.linkRetrain rate width) s = .next (raiseDev 13 3 (rate.toNat + width.toNat <<< 4) (s.updSys (fun y => { y with linkRate := rate, linkWidth := width })))) ∧
    (s.sys.linkUp = true → ∃ t, exec .pcieLinkDown s = .next t ∧ t = linkLost s ∧ t.sys.linkUp = false) ∧
    (s.sys.linkUp = false → exec .pcieLinkDown s = .next s))

/-! ## Isolation, attestation, removal, time (14_isolation, 16_power_reset) -/

/-- SPDM (R369 to R373): a function that responds answers each request; an invalid one is counted and changes nothing else. A signed report of all blocks is kept as the last report. KEY_EXCHANGE opens the lowest free of two sessions. Secrets are taken in a session, with a locked or running TDI only in the session that locked it. TDISP locks, starts, reports and stops. A stream's integrity failure takes its TDI to ERROR. A removal ends when every engine and port has reported its drain, or by its fence after 2 ms, which is recorded (Table 14-7, R391 to R394). A generation raise that waits goes on once nothing bears the new value (R366): the generation is one more, and keys, secrets, consents and sessions of the old one are gone. A neighbour's alignment request is answered on an UP port; a device that is not its own root takes the offset of its exchange, and sets its time by it while no almanac is installed (R426). Where the clauses rest on the model's own choices, these are log entry 14. -/
def Obligations.AttestationRemovalTime : Prop :=
  (∀ (fn : FnId) (via : SpdmVia) (index which hb : BitVec 8) (slot : BitVec 1) (nonce key : BitVec 256) (stream : Nat) (id : Nat) (old : Bool) (s : State),
    let i := fn.toNat
    let n := s.inst i
    let tells := fun (bs : Bytes) (u : State) => u.emit (.doe i bs)
    let signed := fun (bs : Bytes) => bs ++ Config.spdmSign slot.toNat bs
    let report := signedReport s i slot.toNat (leBytes 32 nonce.toNat)
    let through := fun (c : Instr) (u : State) => (viaOk n via = true → exec c s = .next u) ∧ (viaOk n via = false → exec c s = .next (raiseDevFor 14 2 i i s))
    let secret := fun (c : Instr) (g : Inst → Inst) => (viaOk n via = true → secretsAllowed n via = true → exec c s = .next (tells [0] (s.updInst i g))) ∧
      (viaOk n via = true → secretsAllowed n via = false → exec c s = .next (tells [1] s)) ∧ (viaOk n via = false → exec c s = .next (raiseDevFor 14 2 i i s))
    let inSession := fun (m : Tdisp) (g : Inst → Inst) (extra : Bytes) => i ≠ 0 → viaOk n (.session id old) = true →
      exec (.tdispRequest fn m (.session id old)) s = .next (tells ([0, BitVec.ofNat 8 (g n).tdi.code] ++ extra) (s.updInst i g))
    s.responds i = true →
    through (.spdmGetMeasurements fn via 0xFF true slot nonce) (tells report (s.updInst i (fun n => { n with report := report, reported := blockInputs s i }))) ∧
    (1 ≤ index.toNat → index.toNat ≤ 8 → through (.spdmGetMeasurements fn via index false slot nonce) (tells (blockRecord s i index.toNat) s)) ∧
    through (.spdmGetMeasurements fn via 0 false slot nonce) (tells [8] s) ∧
    through (.spdmGetCertificate fn via slot) (tells (certOf s slot.toNat) s) ∧
    through (.spdmChallenge fn via slot nonce) (tells (signed (leBytes 48 (Config.sha384 (certOf s slot.toNat)).toNat ++ leBytes 32 nonce.toNat)) s) ∧
    (n.sessions = [] → ∃ t, exec (.spdmKeyExchange fn slot hb) s = .next t ∧ (t.inst i).sessions = [{ id := 1, slot := slot.toNat, heartbeat := hb.toNat, keyGen := 0, updating := false }]) ∧
    (viaOk n (.session id old) = true → ∃ t, exec (.spdmKeyUpdate fn (.session id old) false) s = .next t ∧
      (t.inst i).sessions = n.sessions.map (fun x => if x.id == id then { x with keyGen := x.keyGen + 1, updating := true } else x)) ∧
    secret (.setSealSecret fn via key) (fun n => { n with sealSecret := some key }) ∧
    secret (.setMigrationKey fn via key) (fun n => { n with migKey := some key }) ∧
    secret (.clearSecrets fn via which) (fun n => { n with sealSecret := if which.getLsbD 0 then none else n.sealSecret, migKey := if which.getLsbD 1 then none else n.migKey }) ∧
    (n.tdi = .unlocked → stream < 64 → s.insts.all (fun x => x.1 == i || x.2.tdi == .unlocked || x.2.stream != stream) = true →
      inSession (.lock stream) (fun n => { n with tdi := .locked, stream := stream, lockSession := some id }) []) ∧
    (n.tdi = .locked → n.lockSession = some id → inSession .start (fun n => { n with tdi := .run }) []) ∧
    (n.lockSession = some id → inSession .stop (fun n => { n with tdi := .unlocked, stream := 0, lockSession := none }) []) ∧
    (n.tdi = .locked ∨ n.tdi = .run → inSession .getReport (fun n => n) tdiReport ∧ exec (.ideIntegrityFailure fn) s = .next (tdiError i (raise i 2 4 n.stream s)))) ∧
  (∀ (fn : FnId) (engine : Nat) (r : Removal) (port : Fin 96) (t1 t2 t3 t4 : BitVec 64) (parent : Nat) (s : State),
    let i := fn.toNat
    let n := s.inst i
    let off := alignOf t1.toNat t2.toNat t3.toNat t4.toNat
    let left := r.waiting.filter (· != engine)
    let s1 := s.updInst i (fun n => { n with removal := some { r with waiting := left } })
    (n.removal = some r → n.raiseWaits = false → drained s i engine = true → exec (.engineDrainReport fn engine) s = .next (if left = [] then endRemoval i false s1 else s1)) ∧
    (n.removal = some r → n.raiseWaits = false → r.fenceAt ≤ s.now.toNat → exec (.removalFenceExpiry fn) s = .next (endRemoval i true s)) ∧
    (n.removal = some r → s.now.toNat < r.fenceAt → exec (.removalFenceExpiry fn) s = .next s) ∧
    (n.raiseWaits = true → s.stateOfGen i (n.gen + 1).toNat = false → ∃ t, exec (.generationRaiseResume fn) s = .next t ∧
      (t.inst i).gen = n.gen + 1 ∧ (t.inst i).raiseWaits = false ∧ (t.inst i).sealSecret = none ∧ (t.inst i).migKey = none ∧ (t.inst i).sessions = [] ∧ (t.inst i).debug = decide (i = 0) ∧ (t.inst i).profile = decide (i = 0)) ∧
    (n.raiseWaits = true → s.stateOfGen i (n.gen + 1).toNat = true → exec (.generationRaiseResume fn) s = .next s) ∧
    ((s.port port.val).mode = .sfl → (s.port port.val).st = .up → exec (.timeAlign port t1) s =
      .next (sendControl port.val 0xB ([0x13, 0x7E, 0x10, 0] ++ leBytes 8 t1.toNat ++ leBytes 8 s.now.toNat ++ leBytes 8 s.now.toNat) s)) ∧
    (s.sys.devId ≠ 0x3FFF → timeRoot s ≠ s.sys.devId.toNat → timeParent s = some parent → ∃ t, exec (.timeAlignTimer t1 t2 t3 t4) s = .next t ∧ t.sys.alignOffset = off ∧
      (s.noAlmanac = false → t.now = s.now) ∧ (s.noAlmanac = true → 0 ≤ off → t.now = s.now + BitVec.ofNat 64 off.toNat) ∧ (s.noAlmanac = true → off < 0 → t.now = s.now ∧ t.sys.heldBack = s.sys.heldBack + (-off).toNat)))

/-! ## The Porter, the management bus, the TAP (15_errors, 17_pins_test) -/

/-- A Porter operation that the window holds, or that comes over the bus while none runs, has its effect and ends with DONE, its elapsed time and its result, recorded as PORTER_ACTED (R405 to R407). Over the bus one that meets another is answered 1; without device power nothing answers. Where the clauses rest on the model's own choices, these are log entries 17, 36. -/
def Obligations.PorterOperations : Prop :=
  ∀ (fn : FnId) (elapsed : BitVec 16) (s : State),
    let i := fn.toNat
    let p := s.sys.porter
    let runs := fun (c : PorterVia → Instr) (op : Nat) (inst : Option Nat) (act : State → State) (result : State → Bytes) =>
      (s.porterRuns = false → exec (c .window) s = .next s ∧ exec (c .mgmt) s = .next s) ∧
      (s.porterRuns = true → p.busy = true → exec (c .mgmt) s = .next (s.emit (.mgmt 1 []))) ∧
      (s.porterRuns = true → p.busy = false → exec (c .window) s = .next s) ∧
      (s.porterRuns = true → p.busy = false → exec (c .mgmt) s = .next (endPorter .mgmt op elapsed (result (act s)) (act s))) ∧
      (s.porterRuns = true → p.busy = true → p.op = op → (∀ k, inst = some k → p.inst.toNat = k) → exec (c .window) s = .next (endPorter .window op elapsed (result (act s)) (act s)))
    runs (fun v => .functionReset v fn elapsed) 1 (some i) (functionResetOf i) noResult ∧
    runs (fun v => .stallReset v fn elapsed) 2 (some i) (stallResetOf i) noResult ∧
    runs (fun v => .deviceReset v elapsed) 3 none deviceResetOf noResult ∧
    runs (fun v => .zeroise v elapsed) 4 none zeroiseAll noResult ∧
    runs (fun v => .porterThermal v elapsed) 5 none (fun s => s) thermalResult ∧
    runs (fun v => .porterReport v fn elapsed) 6 (some i) (fun s => s) (fun s => (s.inst i).report) ∧
    (thermalResult s).length = 152 ∧
    ∀ (via : PorterVia) (op : Nat) (result : Bytes), op < 16 → let t := endPorter via op elapsed result s
      t.sys.porter.done = true ∧ t.sys.porter.busy = false ∧ t.sys.porter.lastOp.toNat = op ∧ t.sys.porter.elapsed = elapsed ∧ t.sys.porter.result = result ∧ (Tbl.get {} t.causes (causeKey devTree 15 0)).bit = true

/-- The management bus (R442 to R448, Table 17-6), while the device has power: TREE_READ answers a word of the cause trees or refuses the offset; TEST_ENTER asks for a quiet device; a loop-back needs valid fields, no other one, and what its target needs, and ends by itself with its records or with TEST_EXIT; MCTP, I3C and PLDM set their addresses and read their sensors. The PCIe link partner takes the port into Loopback and out. Where the clauses rest on the model's own choices, these are log entries 11, 14, 17, 36, 48. -/
def Obligations.ManagementBus : Prop :=
  ∀ (offset ms : BitVec 16) (target : LoopTarget) (depth : BitVec 3) (pattern : BitVec 4) (records : Bytes) (eid : BitVec 8) (addr : BitVec 7) (sensor : Sensor) (measured : BitVec 32) (l : LoopTest) (s : State),
    let o := offset.toNat
    let loop : LoopTest := { target := target, depth := depth.toNat }
    let tells := fun (status : Nat) (bs : Bytes) (u : State) => u.emit (.mgmt status bs)
    let valid := loopValid target depth.toNat pattern.toNat ms.toNat = true
    (s.porterRuns = true →
      exec (.treeRead offset) s = .next (if 0x100 ≤ o ∧ o < 0x6000 ∧ o % 4 = 0 then tells 0 (leBytes 4 (regWord s 0 o)) s else tells 3 [] s) ∧
      exec .testEnter s = .next (if s.mayTest then tells 0 [] (s.updSys (fun y => { y with testState := true })) else tells 2 [] s) ∧
      (s.sys.loop = none → exec .testExit s = .next (tells 0 [] (s.updSys (fun y => { y with testState := false })))) ∧
      (s.sys.loop = some l → l.needsTest = true → exec .testExit s = .next (tells 0 [] ((endLoop s).updSys (fun y => { y with testState := false })))) ∧
      (¬valid → exec (.loopback target depth pattern ms) s = .next (tells 3 [] s)) ∧
      (valid → s.sys.loop = some l → exec (.loopback target depth pattern ms) s = .next (tells 1 [] s)) ∧
      (valid → s.sys.loop = none → loopNeeds s loop = false → exec (.loopback target depth pattern ms) s = .next (tells 2 [] s)) ∧
      (valid → s.sys.loop = none → loopNeeds s loop = true → ∃ t, exec (.loopback target depth pattern ms) s = .next t ∧ t.sys.loop = some loop ∧ t.out = s.out ∧ t.lines = s.lines) ∧
      exec (.mctpSetEndpointId eid) s = .next (if eid = 0 ∨ eid = 0xFF then tells 2 [] s else tells 0 [eid] (s.updSys (fun y => { y with mctpEid := eid }))) ∧
      exec (.dynamicAddressAssignment addr) s = .next (if s.i3c then s.updSys (fun y => { y with i3cAddr := addr }) else s) ∧
      exec (.pldmGetSensor sensor measured) s = .next (s.emit (.pldm (sensorBytes sensor measured s))) ∧
      exec (.pldmSetEventReceiver eid) s = .next (s.updSys (fun y => { y with eventRx := eid })) ∧
      (s.sys.perstN = true → s.sys.pcieRefclkOk = true → s.sys.pcieLoop = false → exec (.pcieLoopbackEntry true) s = .next ((linkLost s).updSys (fun y => { y with pcieLoop := true })))) ∧
    exec (.pcieLoopbackEntry false) s = .next (s.updSys (fun y => { y with pcieLoop := false })) ∧
    (s.sys.loop = none → exec (.loopbackEnd records []) s = .next s) ∧
    (s.sys.loop = some l → exec (.loopbackEnd records []) s = .next (tells 0 records (endLoop s)))

/-- The TAP reaches the balls and nothing else (R450): each of its rows goes on and changes nothing but the TAP's own instruction, its preload and what it shifts out. -/
def Obligations.TapReachesNothing : Prop :=
  ∀ (preload : Bytes) (s : State), ∀ c ∈ [Instr.tapBypass, .tapIdcode, .tapSamplePreload preload, .tapExtest, .tapExtestPulse, .tapExtestTrain, .tapReset],
    ∃ t, exec c s = .next t ∧ { t with sys := s.sys, free := s.free, out := s.out } = s ∧ t.sys = { s.sys with tapIr := t.sys.tapIr, preload := t.sys.preload } ∧ t.sys.tapIr ≤ 5

/-! ## Power, resets, inputs and recovery (16_power_reset, 15_errors) -/

/-- Power and resets (R415 to R420): PWROK's rise starts device time at 0, samples the straps and gives West the token; its fall leaves the device off, orderly or not. PERST_N low is a device reset, without completions; its rise, or the release of any other start, lets the device start, with a kept base model to be checked; once memory is trained the device is operational; the base model's window opens only on its digest. Inputs, clocks and supplies (R412, R421 to R424): FORCE_SAFE_N low sheds bubble work and calms idle groups at once; a glitch is only counted; TIMEREF's loss in service is remembered and a device that waited for it starts with it; without LINK_REFCLK every port that is not OFF is DOWN; without PCIE_REFCLK the link is; an excursion is recorded, a failed supply is device-fatal and drops the base model, and a trip drives THERMTRIP_N low and leaves its record. Where the clauses rest on the model's own choices, these are log entries 2, 11, 36. -/
def Obligations.PowerAndInputs : Prop :=
  (∀ (otp flash : Option Patch) (straps : BitVec 3) (rails : Bool) (failed : BitVec 28) (computed : BitVec 384) (s : State),
    let y := s.sys
    let started := fun (o : Host.Outcome State Fault Refusal) => ∃ t, o = .next t ∧ t.sys.phase = .starting ∧ t.sys.perstN = true ∧ t.sys.baseRecheck = s.base.loaded ∧ t.lines = s.lines ∧ t.base = s.base
    (y.pwrok = false → y.timerefOk = true → ∃ t, exec (.pwrokRise otp flash straps) s = .next t ∧
      t.now = 0 ∧ t.sys.phase = .starting ∧ t.sys.pwrok = true ∧ t.sys.straps = straps ∧ t.sys.token = some .west ∧ t.sys.patch = newestPatch (otp.toList ++ flash.toList)) ∧
    (y.pwrok = true → ∃ t, exec (.pwrokFall rails) s = .next t ∧ t.sys.phase = .off ∧ t.sys.pwrok = false ∧ t.lines = [] ∧ t.sync = [] ∧ t.fns = [] ∧ t.insts = [] ∧ t.causes = [] ∧ t.sys.attnN = true) ∧
    (y.perstN = true → y.phase = .operational ∨ y.phase = .starting → ∃ t, exec .perstNFall s = .next t ∧
      t.sys.phase = .reset ∧ t.sys.linkUp = false ∧ t.sys.vfEnable = false ∧ t.sys.testState = false ∧ t.fns = [] ∧ t.sync = [] ∧ t.acts = [] ∧ t.flowDst = [] ∧ t.padded = []) ∧
    (y.perstN = true → y.phase = .cold → exec .perstNFall s = .next (s.updSys (fun y => { y with perstN := false }))) ∧
    (y.perstN = false → y.phase = .reset → y.loop = none → started (exec .perstNRise s)) ∧
    (y.perstN = true → y.phase = .reset → started (exec .deviceResetRelease s)) ∧
    (y.perstN = false ∨ y.phase ≠ .reset → exec .deviceResetRelease s = .next s) ∧
    (y.phase = .starting → y.perstN = true → ∃ t, exec (.memoryTrainingComplete failed) s = .next t ∧ t.sys.phase = .operational ∧ t.sys.failedParts = failed ∧ t.lines = s.lines) ∧
    (y.baseRecheck = true →
      let u := s.updSys (fun y => { y with baseRecheck := false })
      exec (.baseDigestRecheck computed) s = .next (resumeLoads (if computed = s.base.digest then { u with base := { u.base with window := true } } else dropBase u))) ∧
    (y.baseRecheck = false → exec (.baseDigestRecheck computed) s = .next s)) ∧
  (∀ (pin : InPin) (rail : Fin 10) (isStack : Bool) (index : BitVec 6) (s : State),
    let y := s.sys
    let safe := s.updSys (fun y => { y with forceSafeN := false })
    let code := match pin with | .pwrok => 1 | .perstN => 2 | .forceSafeN => 3
    (y.forceSafeN = true → exec .forceSafeNFall s =
      .next (forEach calmGroup (List.range 64) (forEach (fun i s => suspend i (s.updStall i (fun st => { st with lent := none }))) safe.instNums safe))) ∧
    exec .forceSafeNRise s = .next (s.updSys (fun y => { y with forceSafeN := true })) ∧
    exec (.inputGlitch pin) s = .next (raiseDev 11 7 code s) ∧
    exec .timerefLoss s = .next (s.updSys (fun y => { y with timerefOk := false, timerefLost := y.timerefLost || y.phase.timed })) ∧
    (∃ t, exec .timerefReturn s = .next t ∧ t.sys.timerefOk = true ∧ t.sys.phase = (if y.pwrok = true ∧ y.phase = .cold then .starting else y.phase) ∧ t.sys.timerefLost = y.timerefLost) ∧
    (∃ t, exec .linkRefclkLoss s = .next t ∧ t = forEach (fun p s => if (s.port p).mode == .off || (s.port p).st == .off then s else (loseLink p 1 s).updPort p (fun q => { q with st := .down })) (List.range 96)
      (s.updSys (fun y => { y with linkRefclkOk := false }))) ∧
    exec .linkRefclkReturn s = .next (s.updSys (fun y => { y with linkRefclkOk := true })) ∧
    (∃ t, exec .pcieRefclkLoss s = .next t ∧ t = linkLost (s.updSys (fun y => { y with pcieRefclkOk := false })) ∧ t.sys.linkUp = false) ∧
    exec .pcieRefclkReturn s = .next (s.updSys (fun y => { y with pcieRefclkOk := true })) ∧
    (y.pwrok = true → exec (.supplyExcursion rail) s = .next (raiseDev 12 2 rail.val s)) ∧
    (s.live = true → exec (.supplyFailed rail) s = .next (dropBase (deviceFatal 12 3 rail.val s))) ∧
    (s.live = true → isStack = false ∨ index.toNat < 12 → ∃ t, exec (.thermalTrip isStack index) s = .next t ∧ t.sys.phase = .tripped ∧ t.sys.flashTrip = true))

/-- Escalation (Table 15-7, Table 15-10): a key-engine or Porter fault is device-fatal, and a device-fatal error ends in a device reset with no stall, ring, sync object or flow left; a stall whose state is in error is reset, and one under way absorbs it; the Porter finishes a stall reset and a function reset that overrun. Where the clauses rest on the model's own choices, these are log entry 36. -/
def Obligations.Escalation : Prop :=
  ∀ (fn : FnId) (half : Half) (silent : BitVec 64) (st : Stall) (g b detail : Nat) (s : State),
    let i := fn.toNat
    let fatal := deviceFatal g b detail s
    (s.live = true → fatal.sys.phase = .reset ∧ fatal.sys.fatal = false ∧ fatal.fns = [] ∧ fatal.sync = [] ∧ fatal.flowDst = [] ∧ fatal.acts = [] ∧ ∀ k, (fatal.inst k).stall = none ∧ (fatal.inst k).removal = none) ∧
    (s.live = false → fatal = s) ∧
    exec .keyEngineError s = .next (deviceFatal 11 8 0 s) ∧
    (s.sys.stoppedHalf ≠ some half → exec (.porterFault half) s = .next (deviceFatal 15 1 0 s)) ∧
    (s.sys.stoppedHalf = some half → exec (.porterFault half) s = .next s) ∧
    (s.stall i = some st → st.inReset = false → exec (.stallStateError fn) s = .next (recoverStall i 1 s)) ∧
    (s.stall i = some st → st.inReset = true →
      exec (.stallStateError fn) s = .next s ∧
      exec (.stallResetComplete fn) s = .next (writeArea i (s.updStall i (fun st => { st with inReset := false }))) ∧
      exec (.stallResetOverrun fn silent) s = .next (endStallReset i (forEach (fun g s => if silent.getLsbD g then groupOut g 3 s else s) st.groupList s))) ∧
    ((s.fn i).flr = true → (s.inst i).raiseWaits = false → exec (.functionResetOverrun fn) s = .next (finishFlr i s))

/-- The Clerks and the bridge (R428 to R434): the holder's missed watchdog moves the token to the other Clerk, a miss of the other only restarts it, and where neither answers the error is device-fatal. A live update passes the token by OFFER, READY and GRANT in this order, and between READY and GRANT no Clerk holds it. A failed bridge leaves one half, with its link at x8. Where the clauses rest on the model's own choices, these are log entry 36. -/
def Obligations.ClerksAndToken : Prop :=
  ∀ (half : Half) (a : Act) (s : State),
    let y := s.sys
    let t := exec (.clerkWatchdogMiss half true) s
    let up := s.live = true ∧ s.clerkUp half = true ∧ y.stoppedHalf = none
    (up → s.clerkUp (otherHalf half) = true → y.bridgeOk = true → y.token = some half → t = .next (takeover half s)) ∧
    (up → s.clerkUp (otherHalf half) = true → y.bridgeOk = true → y.token ≠ some half → fwAct s = none → ∃ u, t = .next u ∧ u.clerkUp half = false ∧ u.clerkUp (otherHalf half) = true ∧ u.sys.token = y.token) ∧
    (up → exec (.clerkWatchdogMiss half false) s = .next (deviceFatal 11 5 0 (setClerk .west false (setClerk .east false s)))) ∧
    (fwAct s = none → y.stoppedHalf = none → exec (.clerkRestartComplete true) s = .next (setClerk .west true (setClerk .east true s))) ∧
    (fwAct s = some a → y.fwStage = 0 → y.token = some half → exec (.clerkRestartComplete true) s = .next ((setClerk (otherHalf half) true s).updSys (fun y => { y with fwStage := 1 }))) ∧
    (y.bridgeOk = true → y.token = some half → fwAct s = some a → y.fwStage = 1 → y.lastMsg = .none → exec .offer s = .next (s.updSys (fun y => { y with lastMsg := .offer }))) ∧
    (y.bridgeOk = true → y.token = some half → y.lastMsg = .offer → exec .ready s = .next (s.updSys (fun y => { y with lastMsg := .ready, token := none, grantTo := some (otherHalf half) }))) ∧
    (y.bridgeOk = true → y.grantTo = some half → s.clerkUp half = true → ∃ u, exec .grant s = .next u ∧ u.sys.token = some half ∧ u.sys.grantTo = none ∧ u.sys.lastMsg = .grant ∧ (y.fwStage = 1 → u.sys.fwStage = 2)) ∧
    (y.bridgeOk = true → y.phase = .operational ∨ y.phase = .starting → exec .bridgeFailure s = .next (enterHalf (y.token.getD .west) s)) ∧
    (y.bridgeOk = false → exec .bridgeFailure s = .next s) ∧
    (s.insts = [] → s.ports = [] → s.acts = [] → let u := enterHalf half s
      u.sys.bridgeOk = false ∧ u.sys.stoppedHalf = some (otherHalf half) ∧ u.sys.token = some half ∧ u.clerkUp (otherHalf half) = false ∧ (y.linkUp = true → u.sys.linkWidth = 8) ∧
      ∀ p ∈ halfPorts (otherHalf half), (u.port p).st = .off)

/-- A barrier (R223): an arrival adds 1 to COUNT; when COUNT reaches MEMBERS, PHASE advances and COUNT returns to 0. A core's arrival is remembered with the object and the phase, and its WAIT there is satisfied when PHASE differs from that phase; where its last arrival was at another object, or none, a WAIT that began at a phase is satisfied at the next opening. -/
def Obligations.Barriers : Prop :=
  ∀ (core : CoreId) (o : SyncObj) (g : SigJob) (gs : List SigJob) (k at_ : Nat) (s : State),
    let c := core.toNat
    let w := s.work c
    let b := s.obj g.obj
    (o.count + 1 ≠ o.members → o.arrive.count = o.count + 1 ∧ o.arrive.phase = o.phase) ∧
    (o.count + 1 = o.members → o.arrive.count = 0 ∧ o.arrive.phase = o.phase + 1) ∧
    (w.sigQ = g :: gs → s.doneBefore c g.seq = true → g.kind = 1 → exec (.signalTakesEffect core) s =
      .next (settle c ((s.updWork c (fun w => { w with sigQ := gs, lastBarrier := some (g.obj, b.phase.toNat) })).updObj g.obj SyncObj.arrive))) ∧
    ((s.obj k).kind = 1 →
      (∀ ph, w.lastBarrier = some (k, ph) → (s.satisfied c k at_ = true ↔ (s.obj k).phase.toNat ≠ ph)) ∧
      ((∀ ph, w.lastBarrier ≠ some (k, ph)) → (s.satisfied c k at_ = true ↔ (s.obj k).phase.toNat ≠ at_)))

/-- The state after reset (R26, R70, R304, Table 12-4, Tables 15-8, 10-9, 12-5): no command waits, every memory has its form and reads zero, every register of a function has the value its table gives, no cause is set, and the West Clerk holds the token. Where the clauses rest on the model's own choices, these are log entries 2, 3. -/
def Obligations.ResetState : Prop :=
  let s := State.reset
  s.pending = [] ∧ s.memWf = true ∧ s.now = 0 ∧ s.sys.token = some .west ∧ s.sys.bridgeOk = true ∧ s.sys.westClerk = true ∧ s.sys.eastClerk = true ∧ s.sys.devId = 0x3FFF ∧
  (∀ c a n, s.sramRead c a n = List.replicate n 0) ∧
  (∀ fn : FnId, let f := s.fn fn.toNat
    f.cmdEnable = false ∧ f.cplEnable = false ∧ f.cmdSize = 0 ∧ f.cplSize = 0 ∧ f.cmdBase = 0 ∧ f.cplBase = 0 ∧ f.cmdHead = 0 ∧ f.cplHead = 0 ∧ f.cplTail = 0 ∧ f.cplPhase = true ∧
    f.sumEnable = 0 ∧ f.holdoff = 0 ∧ f.attnEnable = 0xFE ∧ f.rdShadow = none ∧ f.wrShadow = none ∧ s.summary fn.toNat = 0 ∧ (s.inst fn.toNat).stall = none) ∧
  (∀ tree g b, (Tbl.get {} s.causes (causeKey tree g b)).bit = false)
end

