-- ==== Sys2Proof/Laws/Table.lean ====
section
/-! SUPPORT. Laws of the sparse tables and of the byte memories: read after write, reads of other keys, and the canonical form. -/

namespace Sys2Proof.Machine

variable {α : Type}

@[simp] theorem Tbl.get_nil (d : α) (i : Nat) : Tbl.get d [] i = d := rfl

/-- A key reads back what was set. -/
@[simp] theorem Tbl.get_set_self (d : α) (t : Tbl α) (i : Nat) (v : α) : Tbl.get d (Tbl.set t i v) i = v := by
  induction t with
  | nil => simp [Tbl.set, Tbl.get]
  | cons x t ih =>
    obtain ⟨k, w⟩ := x
    by_cases h1 : i < k
    · simp [Tbl.set, Tbl.get, h1]
    · by_cases h2 : i = k
      · simp [Tbl.set, Tbl.get, h2]
      · simp [Tbl.set, Tbl.get, h1, h2, ih]

/-- Setting a key leaves every other key alone. -/
theorem Tbl.get_set_ne (d : α) (t : Tbl α) (i j : Nat) (v : α) (h : j ≠ i) : Tbl.get d (Tbl.set t i v) j = Tbl.get d t j := by
  induction t with
  | nil => by_cases h1 : j < i <;> simp [Tbl.set, Tbl.get, h, h1]
  | cons x t ih =>
    obtain ⟨k, w⟩ := x
    by_cases h1 : i < k
    · by_cases h3 : j < i
      · have h4 : j < k := by omega
        simp [Tbl.set, Tbl.get, h1, h3, h4]
      · simp [Tbl.set, Tbl.get, h1, h, h3]
    · by_cases h2 : i = k
      · subst h2
        simp [Tbl.set, Tbl.get, h]
      · simp [Tbl.set, Tbl.get, h1, h2, ih]

@[simp] theorem Tbl.get_upd_self (d : α) (t : Tbl α) (i : Nat) (f : α → α) : Tbl.get d (Tbl.upd d t i f) i = f (Tbl.get d t i) := by
  simp [Tbl.upd]

theorem Tbl.get_upd_ne (d : α) (t : Tbl α) (i j : Nat) (f : α → α) (h : j ≠ i) : Tbl.get d (Tbl.upd d t i f) j = Tbl.get d t j :=
  Tbl.get_set_ne d t i j _ h

/-- The value at a key is the default or is listed. -/
theorem Tbl.get_mem_or (d : α) (t : Tbl α) (i : Nat) : Tbl.get d t i = d ∨ ∃ x ∈ t, x.2 = Tbl.get d t i := by
  induction t with
  | nil => exact .inl rfl
  | cons x t ih =>
    obtain ⟨k, w⟩ := x
    by_cases h1 : i < k
    · exact .inl (by simp [Tbl.get, h1])
    · by_cases h2 : i = k
      · exact .inr ⟨(k, w), by simp, by simp [Tbl.get, h2]⟩
      · rcases ih with h | ⟨y, hy, he⟩
        · exact .inl (by simpa [Tbl.get, h1, h2] using h)
        · exact .inr ⟨y, by simp [hy], by simpa [Tbl.get, h1, h2] using he⟩

/-- A property of every listed value holds of the table with one more. -/
theorem Tbl.all_set (P : α → Bool) (t : Tbl α) (i : Nat) (v : α) (ht : t.all (fun x => P x.2) = true) (hv : P v = true) :
    (Tbl.set t i v).all (fun x => P x.2) = true := by
  induction t with
  | nil => simp [Tbl.set, hv]
  | cons x t ih =>
    obtain ⟨k, w⟩ := x
    simp only [List.all_cons, Bool.and_eq_true] at ht
    by_cases h1 : i < k
    · simp [Tbl.set, h1, hv, ht.1, ht.2]
    · by_cases h2 : i = k
      · simp only [Tbl.set, h1, h2]; simpa [hv] using ht.2
      · simp only [Tbl.set, h1, h2]; simp [ht.1, ih ht.2]

theorem Tbl.all_get (P : α → Bool) (d : α) (t : Tbl α) (i : Nat) (ht : t.all (fun x => P x.2) = true) (hd : P d = true) : P (Tbl.get d t i) = true := by
  rcases Tbl.get_mem_or d t i with h | ⟨x, hx, he⟩
  · rw [h]; exact hd
  · rw [← he]; exact List.all_eq_true.mp ht x hx

/-! ## Canonical form -/

section canonical
variable [DecidableEq α]

theorem Tbl.wfFrom_mono (d : α) (t : Tbl α) (lo lo' : Nat) (h : lo' ≤ lo) (ht : Tbl.wfFrom d lo t = true) : Tbl.wfFrom d lo' t = true := by
  cases t with
  | nil => rfl
  | cons x t =>
    obtain ⟨k, w⟩ := x
    simp only [Tbl.wfFrom, Bool.and_eq_true, decide_eq_true_eq] at ht ⊢
    exact ⟨⟨by omega, ht.1.2⟩, ht.2⟩

/-- A write keeps the canonical form. -/
theorem Tbl.wfFrom_put (d : α) (t : Tbl α) (i : Nat) (v : α) (lo : Nat) (hi : lo ≤ i) (ht : Tbl.wfFrom d lo t = true) :
    Tbl.wfFrom d lo (Tbl.put d t i v) = true := by
  induction t generalizing lo with
  | nil =>
    by_cases hv : v = d
    · simp [Tbl.put, hv, Tbl.wfFrom]
    · simp [Tbl.put, hv, Tbl.wfFrom, hi]
  | cons x t ih =>
    obtain ⟨k, w⟩ := x
    simp only [Tbl.wfFrom, Bool.and_eq_true, decide_eq_true_eq] at ht
    by_cases h1 : i < k
    · by_cases hv : v = d
      · simp only [Tbl.put, h1, if_true, hv, Tbl.wfFrom, Bool.and_eq_true, decide_eq_true_eq]
        exact ht
      · simp only [Tbl.put, h1, if_true, hv, if_false, Tbl.wfFrom, Bool.and_eq_true, decide_eq_true_eq]
        exact ⟨⟨hi, hv⟩, ⟨by omega, ht.1.2⟩, ht.2⟩
    · by_cases h2 : i = k
      · by_cases hv : v = d
        · simp only [Tbl.put, h1, h2, if_true, if_false, hv]
          simp only [Nat.lt_irrefl, if_false]
          exact Tbl.wfFrom_mono d t _ _ (by omega) ht.2
        · subst h2
          simp only [Tbl.put, h1, if_true, if_false, hv, Tbl.wfFrom, Bool.and_eq_true, decide_eq_true_eq]
          exact ⟨⟨hi, hv⟩, ht.2⟩
      · simp only [Tbl.put, h1, h2, if_false, Tbl.wfFrom, Bool.and_eq_true, decide_eq_true_eq]
        exact ⟨ht.1, ih (k + 1) (by omega) ht.2⟩

theorem Tbl.wf_put (d : α) (t : Tbl α) (i : Nat) (v : α) (ht : Tbl.wf d t = true) : Tbl.wf d (Tbl.put d t i v) = true :=
  Tbl.wfFrom_put d t i v 0 (Nat.zero_le i) ht

/-- A canonical table holds nothing below its bound. -/
theorem Tbl.get_below (d : α) (t : Tbl α) (lo i : Nat) (ht : Tbl.wfFrom d lo t = true) (h : i < lo) : Tbl.get d t i = d := by
  cases t with
  | nil => rfl
  | cons x t =>
    obtain ⟨k, w⟩ := x
    simp only [Tbl.wfFrom, Bool.and_eq_true, decide_eq_true_eq] at ht
    have : i < k := by omega
    simp [Tbl.get, this]

/-- Read after write of a canonical table. -/
theorem Tbl.get_put (d : α) (t : Tbl α) (i j : Nat) (v : α) (lo : Nat) (ht : Tbl.wfFrom d lo t = true) :
    Tbl.get d (Tbl.put d t i v) j = if j = i then v else Tbl.get d t j := by
  induction t generalizing lo with
  | nil =>
    by_cases hv : v = d
    · by_cases hj : j = i <;> simp [Tbl.put, Tbl.get, hv, hj]
    · by_cases hj : j = i
      · simp [Tbl.put, Tbl.get, hv, hj]
      · by_cases h3 : j < i <;> simp [Tbl.put, Tbl.get, hv, hj, h3]
  | cons x t ih =>
    obtain ⟨k, w⟩ := x
    simp only [Tbl.wfFrom, Bool.and_eq_true, decide_eq_true_eq] at ht
    by_cases h1 : i < k
    · by_cases hv : v = d
      · by_cases hj : j = i
        · subst hj; simp [Tbl.put, Tbl.get, h1, hv]
        · simp [Tbl.put, h1, hv, hj]
      · by_cases hj : j = i
        · subst hj; simp [Tbl.put, Tbl.get, h1, hv]
        · by_cases h3 : j < i
          · have h4 : j < k := by omega
            simp [Tbl.put, Tbl.get, h1, hv, hj, h3, h4]
          · simp [Tbl.put, Tbl.get, h1, hv, hj, h3]
    · by_cases h2 : i = k
      · subst h2
        by_cases hv : v = d
        · by_cases hj : j = i
          · subst hj
            simp only [Tbl.put, Nat.lt_irrefl, if_false, if_true, hv]
            exact Tbl.get_below d t _ _ ht.2 (by omega)
          · simp only [Tbl.put, Nat.lt_irrefl, if_false, if_true, hv, hj]
            by_cases h3 : j < i
            · simp only [Tbl.get, h3, if_true]
              exact Tbl.get_below d t _ _ ht.2 (by omega)
            · simp [Tbl.get, h3, hj]
        · by_cases hj : j = i
          · subst hj; simp [Tbl.put, Tbl.get, hv]
          · simp [Tbl.put, Tbl.get, hv, hj]
      · simp only [Tbl.put, h1, h2, if_false]
        by_cases hj : j = i
        · subst hj; simp [Tbl.get, h1, h2, ih (k + 1) ht.2]
        · by_cases h3 : j < k
          · simp [Tbl.get, h3, hj]
          · by_cases h4 : j = k
            · simp [Tbl.get, h4, Ne.symm h2]
            · simp [Tbl.get, h3, h4, hj, ih (k + 1) ht.2]

/-- What a filter keeps of a canonical table is canonical. -/
theorem Tbl.wfFrom_filter (d : α) (t : Tbl α) (p : Nat × α → Bool) (lo : Nat) (ht : Tbl.wfFrom d lo t = true) :
    Tbl.wfFrom d lo (t.filter p) = true := by
  induction t generalizing lo with
  | nil => rfl
  | cons x t ih =>
    obtain ⟨k, w⟩ := x
    simp only [Tbl.wfFrom, Bool.and_eq_true, decide_eq_true_eq] at ht
    by_cases hp : p (k, w) = true
    · simp only [List.filter_cons, hp, if_true, Tbl.wfFrom, Bool.and_eq_true, decide_eq_true_eq]
      exact ⟨ht.1, ih (k + 1) ht.2⟩
    · simp only [List.filter_cons, hp]
      exact Tbl.wfFrom_mono d _ _ _ (by omega) (ih (k + 1) ht.2)

theorem Tbl.wf_filter (d : α) (t : Tbl α) (p : Nat × α → Bool) (ht : Tbl.wf d t = true) : Tbl.wf d (t.filter p) = true :=
  Tbl.wfFrom_filter d t p 0 ht

/-- Two canonical tables, one below the other. -/
theorem Tbl.wfFrom_append (d : α) (t u : Tbl α) (lo mid : Nat) (hm : lo ≤ mid) (ht : Tbl.wfFrom d lo t = true) (hu : Tbl.wfFrom d mid u = true)
    (hlt : ∀ x ∈ t, x.1 < mid) : Tbl.wfFrom d lo (t ++ u) = true := by
  induction t generalizing lo with
  | nil => exact Tbl.wfFrom_mono d u mid lo hm hu
  | cons x t ih =>
    obtain ⟨k, w⟩ := x
    simp only [Tbl.wfFrom, Bool.and_eq_true, decide_eq_true_eq] at ht
    have hk : k < mid := hlt (k, w) (by simp)
    simp only [List.cons_append, Tbl.wfFrom, Bool.and_eq_true, decide_eq_true_eq]
    exact ⟨ht.1, ih (k + 1) (by omega) ht.2 (fun x hx => hlt x (by simp [hx]))⟩

/-- The part of a canonical table at or above a key. -/
theorem Tbl.wfFrom_above (d : α) (t : Tbl α) (lo a : Nat) (ht : Tbl.wfFrom d lo t = true) :
    Tbl.wfFrom d a (t.filter (fun c => decide (a ≤ c.1))) = true := by
  induction t generalizing lo with
  | nil => rfl
  | cons x t ih =>
    obtain ⟨k, w⟩ := x
    simp only [Tbl.wfFrom, Bool.and_eq_true, decide_eq_true_eq] at ht
    by_cases hp : a ≤ k
    · simp only [List.filter_cons, hp, decide_true, if_true, Tbl.wfFrom, Bool.and_eq_true, decide_eq_true_eq]
      exact ⟨⟨trivial, ht.1.2⟩, Tbl.wfFrom_filter d t _ _ ht.2⟩
    · simp only [List.filter_cons, hp]
      exact ih (k + 1) ht.2

end canonical

/-! ## Byte memories -/

theorem Mem.wf_nil : Mem.wf [] = true := rfl

theorem Mem.wfFrom_cells (a : Nat) (bs : Bytes) : Tbl.wfFrom (0 : BitVec 8) a (Mem.cells a bs) = true := by
  induction bs generalizing a with
  | nil => rfl
  | cons b bs ih =>
    by_cases hb : b = 0
    · simp only [Mem.cells, hb, if_true]
      exact Tbl.wfFrom_mono _ _ _ _ (by omega) (ih (a + 1))
    · simp only [Mem.cells, hb, if_false, Tbl.wfFrom, Bool.and_eq_true, decide_eq_true_eq]
      exact ⟨⟨Nat.le_refl a, hb⟩, ih (a + 1)⟩

theorem Mem.cells_lt (a : Nat) (bs : Bytes) : ∀ x ∈ Mem.cells a bs, x.1 < a + bs.length := by
  induction bs generalizing a with
  | nil => simp [Mem.cells]
  | cons b bs ih =>
    intro x hx
    by_cases hb : b = 0
    · simp only [Mem.cells, hb, if_true] at hx
      have := ih (a + 1) x hx
      simp only [List.length_cons]; omega
    · simp only [Mem.cells, hb, if_false, List.mem_cons] at hx
      rcases hx with h | h
      · subst h; simp
      · have := ih (a + 1) x h
        simp only [List.length_cons]; omega

/-- A store of a byte string keeps the canonical form. -/
theorem Mem.wf_write (m : Mem) (a : Nat) (bs : Bytes) (hm : Mem.wf m = true) : Mem.wf (Mem.write m a bs) = true := by
  unfold Mem.wf Tbl.wf at *
  unfold Mem.write
  rw [List.append_assoc]
  refine Tbl.wfFrom_append _ _ _ 0 a (Nat.zero_le a) (Tbl.wfFrom_filter _ _ _ _ hm) ?_ ?_
  · refine Tbl.wfFrom_append _ _ _ a (a + bs.length) (by omega) (Mem.wfFrom_cells a bs) (Tbl.wfFrom_above _ _ _ _ hm) (Mem.cells_lt a bs)
  · intro x hx
    have := (List.mem_filter.mp hx).2
    simpa using this

/-- One memory up to a border, another from it on. -/
theorem Mem.wf_splice (m n : Mem) (a : Nat) (hm : Mem.wf m = true) (hn : Mem.wf n = true) :
    Mem.wf (m.filter (fun c => decide (c.1 < a)) ++ n.filter (fun c => decide (a ≤ c.1))) = true := by
  unfold Mem.wf Tbl.wf at *
  refine Tbl.wfFrom_append _ _ _ 0 a (Nat.zero_le a) (Tbl.wfFrom_filter _ _ _ _ hm) (Tbl.wfFrom_above _ _ _ _ hn) ?_
  intro x hx
  have := (List.mem_filter.mp hx).2
  simpa using this

theorem Mem.wf_filter (m : Mem) (p : Host.Cell → Bool) (hm : Mem.wf m = true) : Mem.wf (m.filter p) = true :=
  Tbl.wf_filter 0 m p hm

end Sys2Proof.Machine
end

