-- ==== Sys2Proof/Laws/State.lean ====
section
/-! SUPPORT. What each update of the state leaves as it was, one lemma for each field, and what a read after an update gives. -/

namespace Sys2Proof.Machine

variable (s : State)

/-! updFn -/

@[simp] theorem State.updFn_pending (i : Nat) (f : Fn → Fn) : (s.updFn i f).pending = s.pending := rfl
@[simp] theorem State.updFn_now (i : Nat) (f : Fn → Fn) : (s.updFn i f).now = s.now := rfl
@[simp] theorem State.updFn_free (i : Nat) (f : Fn → Fn) : (s.updFn i f).free = s.free := rfl
@[simp] theorem State.updFn_out (i : Nat) (f : Fn → Fn) : (s.updFn i f).out = s.out := rfl
@[simp] theorem State.updFn_sys (i : Nat) (f : Fn → Fn) : (s.updFn i f).sys = s.sys := rfl
@[simp] theorem State.updFn_insts (i : Nat) (f : Fn → Fn) : (s.updFn i f).insts = s.insts := rfl
@[simp] theorem State.updFn_causes (i : Nat) (f : Fn → Fn) : (s.updFn i f).causes = s.causes := rfl
@[simp] theorem State.updFn_padded (i : Nat) (f : Fn → Fn) : (s.updFn i f).padded = s.padded := rfl
@[simp] theorem State.updFn_dmaReads (i : Nat) (f : Fn → Fn) : (s.updFn i f).dmaReads = s.dmaReads := rfl
@[simp] theorem State.updFn_tagsBusy (i : Nat) (f : Fn → Fn) : (s.updFn i f).tagsBusy = s.tagsBusy := rfl
@[simp] theorem State.updFn_dmaGen (i : Nat) (f : Fn → Fn) : (s.updFn i f).dmaGen = s.dmaGen := rfl
@[simp] theorem State.updFn_linkGen (i : Nat) (f : Fn → Fn) : (s.updFn i f).linkGen = s.linkGen := rfl
@[simp] theorem State.updFn_cores (i : Nat) (f : Fn → Fn) : (s.updFn i f).cores = s.cores := rfl
@[simp] theorem State.updFn_groups (i : Nat) (f : Fn → Fn) : (s.updFn i f).groups = s.groups := rfl
@[simp] theorem State.updFn_stackTemp (i : Nat) (f : Fn → Fn) : (s.updFn i f).stackTemp = s.stackTemp := rfl
@[simp] theorem State.updFn_stackLevel (i : Nat) (f : Fn → Fn) : (s.updFn i f).stackLevel = s.stackLevel := rfl
@[simp] theorem State.updFn_sync (i : Nat) (f : Fn → Fn) : (s.updFn i f).sync = s.sync := rfl
@[simp] theorem State.updFn_lines (i : Nat) (f : Fn → Fn) : (s.updFn i f).lines = s.lines := rfl
@[simp] theorem State.updFn_sets (i : Nat) (f : Fn → Fn) : (s.updFn i f).sets = s.sets := rfl
@[simp] theorem State.updFn_pages (i : Nat) (f : Fn → Fn) : (s.updFn i f).pages = s.pages := rfl
@[simp] theorem State.updFn_moves (i : Nat) (f : Fn → Fn) : (s.updFn i f).moves = s.moves := rfl
@[simp] theorem State.updFn_rekeys (i : Nat) (f : Fn → Fn) : (s.updFn i f).rekeys = s.rekeys := rfl
@[simp] theorem State.updFn_retired (i : Nat) (f : Fn → Fn) : (s.updFn i f).retired = s.retired := rfl
@[simp] theorem State.updFn_corrections (i : Nat) (f : Fn → Fn) : (s.updFn i f).corrections = s.corrections := rfl
@[simp] theorem State.updFn_scrub (i : Nat) (f : Fn → Fn) : (s.updFn i f).scrub = s.scrub := rfl
@[simp] theorem State.updFn_sparesUsed (i : Nat) (f : Fn → Fn) : (s.updFn i f).sparesUsed = s.sparesUsed := rfl
@[simp] theorem State.updFn_acts (i : Nat) (f : Fn → Fn) : (s.updFn i f).acts = s.acts := rfl
@[simp] theorem State.updFn_nextAct (i : Nat) (f : Fn → Fn) : (s.updFn i f).nextAct = s.nextAct := rfl
@[simp] theorem State.updFn_base (i : Nat) (f : Fn → Fn) : (s.updFn i f).base = s.base := rfl
@[simp] theorem State.updFn_ports (i : Nat) (f : Fn → Fn) : (s.updFn i f).ports = s.ports := rfl
@[simp] theorem State.updFn_flowSrc (i : Nat) (f : Fn → Fn) : (s.updFn i f).flowSrc = s.flowSrc := rfl
@[simp] theorem State.updFn_flowDst (i : Nat) (f : Fn → Fn) : (s.updFn i f).flowDst = s.flowDst := rfl
@[simp] theorem State.updFn_topo (i : Nat) (f : Fn → Fn) : (s.updFn i f).topo = s.topo := rfl
@[simp] theorem State.updFn_routes (i : Nat) (f : Fn → Fn) : (s.updFn i f).routes = s.routes := rfl
@[simp] theorem State.updFn_colls (i : Nat) (f : Fn → Fn) : (s.updFn i f).colls = s.colls := rfl
@[simp] theorem State.updFn_qps (i : Nat) (f : Fn → Fn) : (s.updFn i f).qps = s.qps := rfl
@[simp] theorem State.updFn_rdmas (i : Nat) (f : Fn → Fn) : (s.updFn i f).rdmas = s.rdmas := rfl
@[simp] theorem State.updFn_nextReq (i : Nat) (f : Fn → Fn) : (s.updFn i f).nextReq = s.nextReq := rfl

/-! updInst -/

@[simp] theorem State.updInst_pending (i : Nat) (f : Inst → Inst) : (s.updInst i f).pending = s.pending := rfl
@[simp] theorem State.updInst_now (i : Nat) (f : Inst → Inst) : (s.updInst i f).now = s.now := rfl
@[simp] theorem State.updInst_free (i : Nat) (f : Inst → Inst) : (s.updInst i f).free = s.free := rfl
@[simp] theorem State.updInst_out (i : Nat) (f : Inst → Inst) : (s.updInst i f).out = s.out := rfl
@[simp] theorem State.updInst_sys (i : Nat) (f : Inst → Inst) : (s.updInst i f).sys = s.sys := rfl
@[simp] theorem State.updInst_fns (i : Nat) (f : Inst → Inst) : (s.updInst i f).fns = s.fns := rfl
@[simp] theorem State.updInst_causes (i : Nat) (f : Inst → Inst) : (s.updInst i f).causes = s.causes := rfl
@[simp] theorem State.updInst_padded (i : Nat) (f : Inst → Inst) : (s.updInst i f).padded = s.padded := rfl
@[simp] theorem State.updInst_dmaReads (i : Nat) (f : Inst → Inst) : (s.updInst i f).dmaReads = s.dmaReads := rfl
@[simp] theorem State.updInst_tagsBusy (i : Nat) (f : Inst → Inst) : (s.updInst i f).tagsBusy = s.tagsBusy := rfl
@[simp] theorem State.updInst_dmaGen (i : Nat) (f : Inst → Inst) : (s.updInst i f).dmaGen = s.dmaGen := rfl
@[simp] theorem State.updInst_linkGen (i : Nat) (f : Inst → Inst) : (s.updInst i f).linkGen = s.linkGen := rfl
@[simp] theorem State.updInst_cores (i : Nat) (f : Inst → Inst) : (s.updInst i f).cores = s.cores := rfl
@[simp] theorem State.updInst_groups (i : Nat) (f : Inst → Inst) : (s.updInst i f).groups = s.groups := rfl
@[simp] theorem State.updInst_stackTemp (i : Nat) (f : Inst → Inst) : (s.updInst i f).stackTemp = s.stackTemp := rfl
@[simp] theorem State.updInst_stackLevel (i : Nat) (f : Inst → Inst) : (s.updInst i f).stackLevel = s.stackLevel := rfl
@[simp] theorem State.updInst_sync (i : Nat) (f : Inst → Inst) : (s.updInst i f).sync = s.sync := rfl
@[simp] theorem State.updInst_lines (i : Nat) (f : Inst → Inst) : (s.updInst i f).lines = s.lines := rfl
@[simp] theorem State.updInst_sets (i : Nat) (f : Inst → Inst) : (s.updInst i f).sets = s.sets := rfl
@[simp] theorem State.updInst_pages (i : Nat) (f : Inst → Inst) : (s.updInst i f).pages = s.pages := rfl
@[simp] theorem State.updInst_moves (i : Nat) (f : Inst → Inst) : (s.updInst i f).moves = s.moves := rfl
@[simp] theorem State.updInst_rekeys (i : Nat) (f : Inst → Inst) : (s.updInst i f).rekeys = s.rekeys := rfl
@[simp] theorem State.updInst_retired (i : Nat) (f : Inst → Inst) : (s.updInst i f).retired = s.retired := rfl
@[simp] theorem State.updInst_corrections (i : Nat) (f : Inst → Inst) : (s.updInst i f).corrections = s.corrections := rfl
@[simp] theorem State.updInst_scrub (i : Nat) (f : Inst → Inst) : (s.updInst i f).scrub = s.scrub := rfl
@[simp] theorem State.updInst_sparesUsed (i : Nat) (f : Inst → Inst) : (s.updInst i f).sparesUsed = s.sparesUsed := rfl
@[simp] theorem State.updInst_acts (i : Nat) (f : Inst → Inst) : (s.updInst i f).acts = s.acts := rfl
@[simp] theorem State.updInst_nextAct (i : Nat) (f : Inst → Inst) : (s.updInst i f).nextAct = s.nextAct := rfl
@[simp] theorem State.updInst_base (i : Nat) (f : Inst → Inst) : (s.updInst i f).base = s.base := rfl
@[simp] theorem State.updInst_ports (i : Nat) (f : Inst → Inst) : (s.updInst i f).ports = s.ports := rfl
@[simp] theorem State.updInst_flowSrc (i : Nat) (f : Inst → Inst) : (s.updInst i f).flowSrc = s.flowSrc := rfl
@[simp] theorem State.updInst_flowDst (i : Nat) (f : Inst → Inst) : (s.updInst i f).flowDst = s.flowDst := rfl
@[simp] theorem State.updInst_topo (i : Nat) (f : Inst → Inst) : (s.updInst i f).topo = s.topo := rfl
@[simp] theorem State.updInst_routes (i : Nat) (f : Inst → Inst) : (s.updInst i f).routes = s.routes := rfl
@[simp] theorem State.updInst_colls (i : Nat) (f : Inst → Inst) : (s.updInst i f).colls = s.colls := rfl
@[simp] theorem State.updInst_qps (i : Nat) (f : Inst → Inst) : (s.updInst i f).qps = s.qps := rfl
@[simp] theorem State.updInst_rdmas (i : Nat) (f : Inst → Inst) : (s.updInst i f).rdmas = s.rdmas := rfl
@[simp] theorem State.updInst_nextReq (i : Nat) (f : Inst → Inst) : (s.updInst i f).nextReq = s.nextReq := rfl

/-! updCore -/

@[simp] theorem State.updCore_pending (i : Nat) (f : Core → Core) : (s.updCore i f).pending = s.pending := rfl
@[simp] theorem State.updCore_now (i : Nat) (f : Core → Core) : (s.updCore i f).now = s.now := rfl
@[simp] theorem State.updCore_free (i : Nat) (f : Core → Core) : (s.updCore i f).free = s.free := rfl
@[simp] theorem State.updCore_out (i : Nat) (f : Core → Core) : (s.updCore i f).out = s.out := rfl
@[simp] theorem State.updCore_sys (i : Nat) (f : Core → Core) : (s.updCore i f).sys = s.sys := rfl
@[simp] theorem State.updCore_fns (i : Nat) (f : Core → Core) : (s.updCore i f).fns = s.fns := rfl
@[simp] theorem State.updCore_insts (i : Nat) (f : Core → Core) : (s.updCore i f).insts = s.insts := rfl
@[simp] theorem State.updCore_causes (i : Nat) (f : Core → Core) : (s.updCore i f).causes = s.causes := rfl
@[simp] theorem State.updCore_padded (i : Nat) (f : Core → Core) : (s.updCore i f).padded = s.padded := rfl
@[simp] theorem State.updCore_dmaReads (i : Nat) (f : Core → Core) : (s.updCore i f).dmaReads = s.dmaReads := rfl
@[simp] theorem State.updCore_tagsBusy (i : Nat) (f : Core → Core) : (s.updCore i f).tagsBusy = s.tagsBusy := rfl
@[simp] theorem State.updCore_dmaGen (i : Nat) (f : Core → Core) : (s.updCore i f).dmaGen = s.dmaGen := rfl
@[simp] theorem State.updCore_linkGen (i : Nat) (f : Core → Core) : (s.updCore i f).linkGen = s.linkGen := rfl
@[simp] theorem State.updCore_groups (i : Nat) (f : Core → Core) : (s.updCore i f).groups = s.groups := rfl
@[simp] theorem State.updCore_stackTemp (i : Nat) (f : Core → Core) : (s.updCore i f).stackTemp = s.stackTemp := rfl
@[simp] theorem State.updCore_stackLevel (i : Nat) (f : Core → Core) : (s.updCore i f).stackLevel = s.stackLevel := rfl
@[simp] theorem State.updCore_sync (i : Nat) (f : Core → Core) : (s.updCore i f).sync = s.sync := rfl
@[simp] theorem State.updCore_lines (i : Nat) (f : Core → Core) : (s.updCore i f).lines = s.lines := rfl
@[simp] theorem State.updCore_sets (i : Nat) (f : Core → Core) : (s.updCore i f).sets = s.sets := rfl
@[simp] theorem State.updCore_pages (i : Nat) (f : Core → Core) : (s.updCore i f).pages = s.pages := rfl
@[simp] theorem State.updCore_moves (i : Nat) (f : Core → Core) : (s.updCore i f).moves = s.moves := rfl
@[simp] theorem State.updCore_rekeys (i : Nat) (f : Core → Core) : (s.updCore i f).rekeys = s.rekeys := rfl
@[simp] theorem State.updCore_retired (i : Nat) (f : Core → Core) : (s.updCore i f).retired = s.retired := rfl
@[simp] theorem State.updCore_corrections (i : Nat) (f : Core → Core) : (s.updCore i f).corrections = s.corrections := rfl
@[simp] theorem State.updCore_scrub (i : Nat) (f : Core → Core) : (s.updCore i f).scrub = s.scrub := rfl
@[simp] theorem State.updCore_sparesUsed (i : Nat) (f : Core → Core) : (s.updCore i f).sparesUsed = s.sparesUsed := rfl
@[simp] theorem State.updCore_acts (i : Nat) (f : Core → Core) : (s.updCore i f).acts = s.acts := rfl
@[simp] theorem State.updCore_nextAct (i : Nat) (f : Core → Core) : (s.updCore i f).nextAct = s.nextAct := rfl
@[simp] theorem State.updCore_base (i : Nat) (f : Core → Core) : (s.updCore i f).base = s.base := rfl
@[simp] theorem State.updCore_ports (i : Nat) (f : Core → Core) : (s.updCore i f).ports = s.ports := rfl
@[simp] theorem State.updCore_flowSrc (i : Nat) (f : Core → Core) : (s.updCore i f).flowSrc = s.flowSrc := rfl
@[simp] theorem State.updCore_flowDst (i : Nat) (f : Core → Core) : (s.updCore i f).flowDst = s.flowDst := rfl
@[simp] theorem State.updCore_topo (i : Nat) (f : Core → Core) : (s.updCore i f).topo = s.topo := rfl
@[simp] theorem State.updCore_routes (i : Nat) (f : Core → Core) : (s.updCore i f).routes = s.routes := rfl
@[simp] theorem State.updCore_colls (i : Nat) (f : Core → Core) : (s.updCore i f).colls = s.colls := rfl
@[simp] theorem State.updCore_qps (i : Nat) (f : Core → Core) : (s.updCore i f).qps = s.qps := rfl
@[simp] theorem State.updCore_rdmas (i : Nat) (f : Core → Core) : (s.updCore i f).rdmas = s.rdmas := rfl
@[simp] theorem State.updCore_nextReq (i : Nat) (f : Core → Core) : (s.updCore i f).nextReq = s.nextReq := rfl

/-! updWork -/

@[simp] theorem State.updWork_pending (i : Nat) (f : Work → Work) : (s.updWork i f).pending = s.pending := rfl
@[simp] theorem State.updWork_now (i : Nat) (f : Work → Work) : (s.updWork i f).now = s.now := rfl
@[simp] theorem State.updWork_free (i : Nat) (f : Work → Work) : (s.updWork i f).free = s.free := rfl
@[simp] theorem State.updWork_out (i : Nat) (f : Work → Work) : (s.updWork i f).out = s.out := rfl
@[simp] theorem State.updWork_sys (i : Nat) (f : Work → Work) : (s.updWork i f).sys = s.sys := rfl
@[simp] theorem State.updWork_fns (i : Nat) (f : Work → Work) : (s.updWork i f).fns = s.fns := rfl
@[simp] theorem State.updWork_insts (i : Nat) (f : Work → Work) : (s.updWork i f).insts = s.insts := rfl
@[simp] theorem State.updWork_causes (i : Nat) (f : Work → Work) : (s.updWork i f).causes = s.causes := rfl
@[simp] theorem State.updWork_padded (i : Nat) (f : Work → Work) : (s.updWork i f).padded = s.padded := rfl
@[simp] theorem State.updWork_dmaReads (i : Nat) (f : Work → Work) : (s.updWork i f).dmaReads = s.dmaReads := rfl
@[simp] theorem State.updWork_tagsBusy (i : Nat) (f : Work → Work) : (s.updWork i f).tagsBusy = s.tagsBusy := rfl
@[simp] theorem State.updWork_dmaGen (i : Nat) (f : Work → Work) : (s.updWork i f).dmaGen = s.dmaGen := rfl
@[simp] theorem State.updWork_linkGen (i : Nat) (f : Work → Work) : (s.updWork i f).linkGen = s.linkGen := rfl
@[simp] theorem State.updWork_groups (i : Nat) (f : Work → Work) : (s.updWork i f).groups = s.groups := rfl
@[simp] theorem State.updWork_stackTemp (i : Nat) (f : Work → Work) : (s.updWork i f).stackTemp = s.stackTemp := rfl
@[simp] theorem State.updWork_stackLevel (i : Nat) (f : Work → Work) : (s.updWork i f).stackLevel = s.stackLevel := rfl
@[simp] theorem State.updWork_sync (i : Nat) (f : Work → Work) : (s.updWork i f).sync = s.sync := rfl
@[simp] theorem State.updWork_lines (i : Nat) (f : Work → Work) : (s.updWork i f).lines = s.lines := rfl
@[simp] theorem State.updWork_sets (i : Nat) (f : Work → Work) : (s.updWork i f).sets = s.sets := rfl
@[simp] theorem State.updWork_pages (i : Nat) (f : Work → Work) : (s.updWork i f).pages = s.pages := rfl
@[simp] theorem State.updWork_moves (i : Nat) (f : Work → Work) : (s.updWork i f).moves = s.moves := rfl
@[simp] theorem State.updWork_rekeys (i : Nat) (f : Work → Work) : (s.updWork i f).rekeys = s.rekeys := rfl
@[simp] theorem State.updWork_retired (i : Nat) (f : Work → Work) : (s.updWork i f).retired = s.retired := rfl
@[simp] theorem State.updWork_corrections (i : Nat) (f : Work → Work) : (s.updWork i f).corrections = s.corrections := rfl
@[simp] theorem State.updWork_scrub (i : Nat) (f : Work → Work) : (s.updWork i f).scrub = s.scrub := rfl
@[simp] theorem State.updWork_sparesUsed (i : Nat) (f : Work → Work) : (s.updWork i f).sparesUsed = s.sparesUsed := rfl
@[simp] theorem State.updWork_acts (i : Nat) (f : Work → Work) : (s.updWork i f).acts = s.acts := rfl
@[simp] theorem State.updWork_nextAct (i : Nat) (f : Work → Work) : (s.updWork i f).nextAct = s.nextAct := rfl
@[simp] theorem State.updWork_base (i : Nat) (f : Work → Work) : (s.updWork i f).base = s.base := rfl
@[simp] theorem State.updWork_ports (i : Nat) (f : Work → Work) : (s.updWork i f).ports = s.ports := rfl
@[simp] theorem State.updWork_flowSrc (i : Nat) (f : Work → Work) : (s.updWork i f).flowSrc = s.flowSrc := rfl
@[simp] theorem State.updWork_flowDst (i : Nat) (f : Work → Work) : (s.updWork i f).flowDst = s.flowDst := rfl
@[simp] theorem State.updWork_topo (i : Nat) (f : Work → Work) : (s.updWork i f).topo = s.topo := rfl
@[simp] theorem State.updWork_routes (i : Nat) (f : Work → Work) : (s.updWork i f).routes = s.routes := rfl
@[simp] theorem State.updWork_colls (i : Nat) (f : Work → Work) : (s.updWork i f).colls = s.colls := rfl
@[simp] theorem State.updWork_qps (i : Nat) (f : Work → Work) : (s.updWork i f).qps = s.qps := rfl
@[simp] theorem State.updWork_rdmas (i : Nat) (f : Work → Work) : (s.updWork i f).rdmas = s.rdmas := rfl
@[simp] theorem State.updWork_nextReq (i : Nat) (f : Work → Work) : (s.updWork i f).nextReq = s.nextReq := rfl

/-! updEng -/

@[simp] theorem State.updEng_pending (i : Nat) (f : Engine → Engine) : (s.updEng i f).pending = s.pending := rfl
@[simp] theorem State.updEng_now (i : Nat) (f : Engine → Engine) : (s.updEng i f).now = s.now := rfl
@[simp] theorem State.updEng_free (i : Nat) (f : Engine → Engine) : (s.updEng i f).free = s.free := rfl
@[simp] theorem State.updEng_out (i : Nat) (f : Engine → Engine) : (s.updEng i f).out = s.out := rfl
@[simp] theorem State.updEng_sys (i : Nat) (f : Engine → Engine) : (s.updEng i f).sys = s.sys := rfl
@[simp] theorem State.updEng_fns (i : Nat) (f : Engine → Engine) : (s.updEng i f).fns = s.fns := rfl
@[simp] theorem State.updEng_insts (i : Nat) (f : Engine → Engine) : (s.updEng i f).insts = s.insts := rfl
@[simp] theorem State.updEng_causes (i : Nat) (f : Engine → Engine) : (s.updEng i f).causes = s.causes := rfl
@[simp] theorem State.updEng_padded (i : Nat) (f : Engine → Engine) : (s.updEng i f).padded = s.padded := rfl
@[simp] theorem State.updEng_dmaReads (i : Nat) (f : Engine → Engine) : (s.updEng i f).dmaReads = s.dmaReads := rfl
@[simp] theorem State.updEng_tagsBusy (i : Nat) (f : Engine → Engine) : (s.updEng i f).tagsBusy = s.tagsBusy := rfl
@[simp] theorem State.updEng_dmaGen (i : Nat) (f : Engine → Engine) : (s.updEng i f).dmaGen = s.dmaGen := rfl
@[simp] theorem State.updEng_linkGen (i : Nat) (f : Engine → Engine) : (s.updEng i f).linkGen = s.linkGen := rfl
@[simp] theorem State.updEng_groups (i : Nat) (f : Engine → Engine) : (s.updEng i f).groups = s.groups := rfl
@[simp] theorem State.updEng_stackTemp (i : Nat) (f : Engine → Engine) : (s.updEng i f).stackTemp = s.stackTemp := rfl
@[simp] theorem State.updEng_stackLevel (i : Nat) (f : Engine → Engine) : (s.updEng i f).stackLevel = s.stackLevel := rfl
@[simp] theorem State.updEng_sync (i : Nat) (f : Engine → Engine) : (s.updEng i f).sync = s.sync := rfl
@[simp] theorem State.updEng_lines (i : Nat) (f : Engine → Engine) : (s.updEng i f).lines = s.lines := rfl
@[simp] theorem State.updEng_sets (i : Nat) (f : Engine → Engine) : (s.updEng i f).sets = s.sets := rfl
@[simp] theorem State.updEng_pages (i : Nat) (f : Engine → Engine) : (s.updEng i f).pages = s.pages := rfl
@[simp] theorem State.updEng_moves (i : Nat) (f : Engine → Engine) : (s.updEng i f).moves = s.moves := rfl
@[simp] theorem State.updEng_rekeys (i : Nat) (f : Engine → Engine) : (s.updEng i f).rekeys = s.rekeys := rfl
@[simp] theorem State.updEng_retired (i : Nat) (f : Engine → Engine) : (s.updEng i f).retired = s.retired := rfl
@[simp] theorem State.updEng_corrections (i : Nat) (f : Engine → Engine) : (s.updEng i f).corrections = s.corrections := rfl
@[simp] theorem State.updEng_scrub (i : Nat) (f : Engine → Engine) : (s.updEng i f).scrub = s.scrub := rfl
@[simp] theorem State.updEng_sparesUsed (i : Nat) (f : Engine → Engine) : (s.updEng i f).sparesUsed = s.sparesUsed := rfl
@[simp] theorem State.updEng_acts (i : Nat) (f : Engine → Engine) : (s.updEng i f).acts = s.acts := rfl
@[simp] theorem State.updEng_nextAct (i : Nat) (f : Engine → Engine) : (s.updEng i f).nextAct = s.nextAct := rfl
@[simp] theorem State.updEng_base (i : Nat) (f : Engine → Engine) : (s.updEng i f).base = s.base := rfl
@[simp] theorem State.updEng_ports (i : Nat) (f : Engine → Engine) : (s.updEng i f).ports = s.ports := rfl
@[simp] theorem State.updEng_flowSrc (i : Nat) (f : Engine → Engine) : (s.updEng i f).flowSrc = s.flowSrc := rfl
@[simp] theorem State.updEng_flowDst (i : Nat) (f : Engine → Engine) : (s.updEng i f).flowDst = s.flowDst := rfl
@[simp] theorem State.updEng_topo (i : Nat) (f : Engine → Engine) : (s.updEng i f).topo = s.topo := rfl
@[simp] theorem State.updEng_routes (i : Nat) (f : Engine → Engine) : (s.updEng i f).routes = s.routes := rfl
@[simp] theorem State.updEng_colls (i : Nat) (f : Engine → Engine) : (s.updEng i f).colls = s.colls := rfl
@[simp] theorem State.updEng_qps (i : Nat) (f : Engine → Engine) : (s.updEng i f).qps = s.qps := rfl
@[simp] theorem State.updEng_rdmas (i : Nat) (f : Engine → Engine) : (s.updEng i f).rdmas = s.rdmas := rfl
@[simp] theorem State.updEng_nextReq (i : Nat) (f : Engine → Engine) : (s.updEng i f).nextReq = s.nextReq := rfl

/-! updGroup -/

@[simp] theorem State.updGroup_pending (i : Nat) (f : Group → Group) : (s.updGroup i f).pending = s.pending := rfl
@[simp] theorem State.updGroup_now (i : Nat) (f : Group → Group) : (s.updGroup i f).now = s.now := rfl
@[simp] theorem State.updGroup_free (i : Nat) (f : Group → Group) : (s.updGroup i f).free = s.free := rfl
@[simp] theorem State.updGroup_out (i : Nat) (f : Group → Group) : (s.updGroup i f).out = s.out := rfl
@[simp] theorem State.updGroup_sys (i : Nat) (f : Group → Group) : (s.updGroup i f).sys = s.sys := rfl
@[simp] theorem State.updGroup_fns (i : Nat) (f : Group → Group) : (s.updGroup i f).fns = s.fns := rfl
@[simp] theorem State.updGroup_insts (i : Nat) (f : Group → Group) : (s.updGroup i f).insts = s.insts := rfl
@[simp] theorem State.updGroup_causes (i : Nat) (f : Group → Group) : (s.updGroup i f).causes = s.causes := rfl
@[simp] theorem State.updGroup_padded (i : Nat) (f : Group → Group) : (s.updGroup i f).padded = s.padded := rfl
@[simp] theorem State.updGroup_dmaReads (i : Nat) (f : Group → Group) : (s.updGroup i f).dmaReads = s.dmaReads := rfl
@[simp] theorem State.updGroup_tagsBusy (i : Nat) (f : Group → Group) : (s.updGroup i f).tagsBusy = s.tagsBusy := rfl
@[simp] theorem State.updGroup_dmaGen (i : Nat) (f : Group → Group) : (s.updGroup i f).dmaGen = s.dmaGen := rfl
@[simp] theorem State.updGroup_linkGen (i : Nat) (f : Group → Group) : (s.updGroup i f).linkGen = s.linkGen := rfl
@[simp] theorem State.updGroup_cores (i : Nat) (f : Group → Group) : (s.updGroup i f).cores = s.cores := rfl
@[simp] theorem State.updGroup_stackTemp (i : Nat) (f : Group → Group) : (s.updGroup i f).stackTemp = s.stackTemp := rfl
@[simp] theorem State.updGroup_stackLevel (i : Nat) (f : Group → Group) : (s.updGroup i f).stackLevel = s.stackLevel := rfl
@[simp] theorem State.updGroup_sync (i : Nat) (f : Group → Group) : (s.updGroup i f).sync = s.sync := rfl
@[simp] theorem State.updGroup_lines (i : Nat) (f : Group → Group) : (s.updGroup i f).lines = s.lines := rfl
@[simp] theorem State.updGroup_sets (i : Nat) (f : Group → Group) : (s.updGroup i f).sets = s.sets := rfl
@[simp] theorem State.updGroup_pages (i : Nat) (f : Group → Group) : (s.updGroup i f).pages = s.pages := rfl
@[simp] theorem State.updGroup_moves (i : Nat) (f : Group → Group) : (s.updGroup i f).moves = s.moves := rfl
@[simp] theorem State.updGroup_rekeys (i : Nat) (f : Group → Group) : (s.updGroup i f).rekeys = s.rekeys := rfl
@[simp] theorem State.updGroup_retired (i : Nat) (f : Group → Group) : (s.updGroup i f).retired = s.retired := rfl
@[simp] theorem State.updGroup_corrections (i : Nat) (f : Group → Group) : (s.updGroup i f).corrections = s.corrections := rfl
@[simp] theorem State.updGroup_scrub (i : Nat) (f : Group → Group) : (s.updGroup i f).scrub = s.scrub := rfl
@[simp] theorem State.updGroup_sparesUsed (i : Nat) (f : Group → Group) : (s.updGroup i f).sparesUsed = s.sparesUsed := rfl
@[simp] theorem State.updGroup_acts (i : Nat) (f : Group → Group) : (s.updGroup i f).acts = s.acts := rfl
@[simp] theorem State.updGroup_nextAct (i : Nat) (f : Group → Group) : (s.updGroup i f).nextAct = s.nextAct := rfl
@[simp] theorem State.updGroup_base (i : Nat) (f : Group → Group) : (s.updGroup i f).base = s.base := rfl
@[simp] theorem State.updGroup_ports (i : Nat) (f : Group → Group) : (s.updGroup i f).ports = s.ports := rfl
@[simp] theorem State.updGroup_flowSrc (i : Nat) (f : Group → Group) : (s.updGroup i f).flowSrc = s.flowSrc := rfl
@[simp] theorem State.updGroup_flowDst (i : Nat) (f : Group → Group) : (s.updGroup i f).flowDst = s.flowDst := rfl
@[simp] theorem State.updGroup_topo (i : Nat) (f : Group → Group) : (s.updGroup i f).topo = s.topo := rfl
@[simp] theorem State.updGroup_routes (i : Nat) (f : Group → Group) : (s.updGroup i f).routes = s.routes := rfl
@[simp] theorem State.updGroup_colls (i : Nat) (f : Group → Group) : (s.updGroup i f).colls = s.colls := rfl
@[simp] theorem State.updGroup_qps (i : Nat) (f : Group → Group) : (s.updGroup i f).qps = s.qps := rfl
@[simp] theorem State.updGroup_rdmas (i : Nat) (f : Group → Group) : (s.updGroup i f).rdmas = s.rdmas := rfl
@[simp] theorem State.updGroup_nextReq (i : Nat) (f : Group → Group) : (s.updGroup i f).nextReq = s.nextReq := rfl

/-! updObj -/

@[simp] theorem State.updObj_pending (i : Nat) (f : SyncObj → SyncObj) : (s.updObj i f).pending = s.pending := rfl
@[simp] theorem State.updObj_now (i : Nat) (f : SyncObj → SyncObj) : (s.updObj i f).now = s.now := rfl
@[simp] theorem State.updObj_free (i : Nat) (f : SyncObj → SyncObj) : (s.updObj i f).free = s.free := rfl
@[simp] theorem State.updObj_out (i : Nat) (f : SyncObj → SyncObj) : (s.updObj i f).out = s.out := rfl
@[simp] theorem State.updObj_sys (i : Nat) (f : SyncObj → SyncObj) : (s.updObj i f).sys = s.sys := rfl
@[simp] theorem State.updObj_fns (i : Nat) (f : SyncObj → SyncObj) : (s.updObj i f).fns = s.fns := rfl
@[simp] theorem State.updObj_insts (i : Nat) (f : SyncObj → SyncObj) : (s.updObj i f).insts = s.insts := rfl
@[simp] theorem State.updObj_causes (i : Nat) (f : SyncObj → SyncObj) : (s.updObj i f).causes = s.causes := rfl
@[simp] theorem State.updObj_padded (i : Nat) (f : SyncObj → SyncObj) : (s.updObj i f).padded = s.padded := rfl
@[simp] theorem State.updObj_dmaReads (i : Nat) (f : SyncObj → SyncObj) : (s.updObj i f).dmaReads = s.dmaReads := rfl
@[simp] theorem State.updObj_tagsBusy (i : Nat) (f : SyncObj → SyncObj) : (s.updObj i f).tagsBusy = s.tagsBusy := rfl
@[simp] theorem State.updObj_dmaGen (i : Nat) (f : SyncObj → SyncObj) : (s.updObj i f).dmaGen = s.dmaGen := rfl
@[simp] theorem State.updObj_linkGen (i : Nat) (f : SyncObj → SyncObj) : (s.updObj i f).linkGen = s.linkGen := rfl
@[simp] theorem State.updObj_cores (i : Nat) (f : SyncObj → SyncObj) : (s.updObj i f).cores = s.cores := rfl
@[simp] theorem State.updObj_groups (i : Nat) (f : SyncObj → SyncObj) : (s.updObj i f).groups = s.groups := rfl
@[simp] theorem State.updObj_stackTemp (i : Nat) (f : SyncObj → SyncObj) : (s.updObj i f).stackTemp = s.stackTemp := rfl
@[simp] theorem State.updObj_stackLevel (i : Nat) (f : SyncObj → SyncObj) : (s.updObj i f).stackLevel = s.stackLevel := rfl
@[simp] theorem State.updObj_lines (i : Nat) (f : SyncObj → SyncObj) : (s.updObj i f).lines = s.lines := rfl
@[simp] theorem State.updObj_sets (i : Nat) (f : SyncObj → SyncObj) : (s.updObj i f).sets = s.sets := rfl
@[simp] theorem State.updObj_pages (i : Nat) (f : SyncObj → SyncObj) : (s.updObj i f).pages = s.pages := rfl
@[simp] theorem State.updObj_moves (i : Nat) (f : SyncObj → SyncObj) : (s.updObj i f).moves = s.moves := rfl
@[simp] theorem State.updObj_rekeys (i : Nat) (f : SyncObj → SyncObj) : (s.updObj i f).rekeys = s.rekeys := rfl
@[simp] theorem State.updObj_retired (i : Nat) (f : SyncObj → SyncObj) : (s.updObj i f).retired = s.retired := rfl
@[simp] theorem State.updObj_corrections (i : Nat) (f : SyncObj → SyncObj) : (s.updObj i f).corrections = s.corrections := rfl
@[simp] theorem State.updObj_scrub (i : Nat) (f : SyncObj → SyncObj) : (s.updObj i f).scrub = s.scrub := rfl
@[simp] theorem State.updObj_sparesUsed (i : Nat) (f : SyncObj → SyncObj) : (s.updObj i f).sparesUsed = s.sparesUsed := rfl
@[simp] theorem State.updObj_acts (i : Nat) (f : SyncObj → SyncObj) : (s.updObj i f).acts = s.acts := rfl
@[simp] theorem State.updObj_nextAct (i : Nat) (f : SyncObj → SyncObj) : (s.updObj i f).nextAct = s.nextAct := rfl
@[simp] theorem State.updObj_base (i : Nat) (f : SyncObj → SyncObj) : (s.updObj i f).base = s.base := rfl
@[simp] theorem State.updObj_ports (i : Nat) (f : SyncObj → SyncObj) : (s.updObj i f).ports = s.ports := rfl
@[simp] theorem State.updObj_flowSrc (i : Nat) (f : SyncObj → SyncObj) : (s.updObj i f).flowSrc = s.flowSrc := rfl
@[simp] theorem State.updObj_flowDst (i : Nat) (f : SyncObj → SyncObj) : (s.updObj i f).flowDst = s.flowDst := rfl
@[simp] theorem State.updObj_topo (i : Nat) (f : SyncObj → SyncObj) : (s.updObj i f).topo = s.topo := rfl
@[simp] theorem State.updObj_routes (i : Nat) (f : SyncObj → SyncObj) : (s.updObj i f).routes = s.routes := rfl
@[simp] theorem State.updObj_colls (i : Nat) (f : SyncObj → SyncObj) : (s.updObj i f).colls = s.colls := rfl
@[simp] theorem State.updObj_qps (i : Nat) (f : SyncObj → SyncObj) : (s.updObj i f).qps = s.qps := rfl
@[simp] theorem State.updObj_rdmas (i : Nat) (f : SyncObj → SyncObj) : (s.updObj i f).rdmas = s.rdmas := rfl
@[simp] theorem State.updObj_nextReq (i : Nat) (f : SyncObj → SyncObj) : (s.updObj i f).nextReq = s.nextReq := rfl

/-! updPort -/

@[simp] theorem State.updPort_pending (i : Nat) (f : Port → Port) : (s.updPort i f).pending = s.pending := rfl
@[simp] theorem State.updPort_now (i : Nat) (f : Port → Port) : (s.updPort i f).now = s.now := rfl
@[simp] theorem State.updPort_free (i : Nat) (f : Port → Port) : (s.updPort i f).free = s.free := rfl
@[simp] theorem State.updPort_out (i : Nat) (f : Port → Port) : (s.updPort i f).out = s.out := rfl
@[simp] theorem State.updPort_sys (i : Nat) (f : Port → Port) : (s.updPort i f).sys = s.sys := rfl
@[simp] theorem State.updPort_fns (i : Nat) (f : Port → Port) : (s.updPort i f).fns = s.fns := rfl
@[simp] theorem State.updPort_insts (i : Nat) (f : Port → Port) : (s.updPort i f).insts = s.insts := rfl
@[simp] theorem State.updPort_causes (i : Nat) (f : Port → Port) : (s.updPort i f).causes = s.causes := rfl
@[simp] theorem State.updPort_padded (i : Nat) (f : Port → Port) : (s.updPort i f).padded = s.padded := rfl
@[simp] theorem State.updPort_dmaReads (i : Nat) (f : Port → Port) : (s.updPort i f).dmaReads = s.dmaReads := rfl
@[simp] theorem State.updPort_tagsBusy (i : Nat) (f : Port → Port) : (s.updPort i f).tagsBusy = s.tagsBusy := rfl
@[simp] theorem State.updPort_dmaGen (i : Nat) (f : Port → Port) : (s.updPort i f).dmaGen = s.dmaGen := rfl
@[simp] theorem State.updPort_linkGen (i : Nat) (f : Port → Port) : (s.updPort i f).linkGen = s.linkGen := rfl
@[simp] theorem State.updPort_cores (i : Nat) (f : Port → Port) : (s.updPort i f).cores = s.cores := rfl
@[simp] theorem State.updPort_groups (i : Nat) (f : Port → Port) : (s.updPort i f).groups = s.groups := rfl
@[simp] theorem State.updPort_stackTemp (i : Nat) (f : Port → Port) : (s.updPort i f).stackTemp = s.stackTemp := rfl
@[simp] theorem State.updPort_stackLevel (i : Nat) (f : Port → Port) : (s.updPort i f).stackLevel = s.stackLevel := rfl
@[simp] theorem State.updPort_sync (i : Nat) (f : Port → Port) : (s.updPort i f).sync = s.sync := rfl
@[simp] theorem State.updPort_lines (i : Nat) (f : Port → Port) : (s.updPort i f).lines = s.lines := rfl
@[simp] theorem State.updPort_sets (i : Nat) (f : Port → Port) : (s.updPort i f).sets = s.sets := rfl
@[simp] theorem State.updPort_pages (i : Nat) (f : Port → Port) : (s.updPort i f).pages = s.pages := rfl
@[simp] theorem State.updPort_moves (i : Nat) (f : Port → Port) : (s.updPort i f).moves = s.moves := rfl
@[simp] theorem State.updPort_rekeys (i : Nat) (f : Port → Port) : (s.updPort i f).rekeys = s.rekeys := rfl
@[simp] theorem State.updPort_retired (i : Nat) (f : Port → Port) : (s.updPort i f).retired = s.retired := rfl
@[simp] theorem State.updPort_corrections (i : Nat) (f : Port → Port) : (s.updPort i f).corrections = s.corrections := rfl
@[simp] theorem State.updPort_scrub (i : Nat) (f : Port → Port) : (s.updPort i f).scrub = s.scrub := rfl
@[simp] theorem State.updPort_sparesUsed (i : Nat) (f : Port → Port) : (s.updPort i f).sparesUsed = s.sparesUsed := rfl
@[simp] theorem State.updPort_acts (i : Nat) (f : Port → Port) : (s.updPort i f).acts = s.acts := rfl
@[simp] theorem State.updPort_nextAct (i : Nat) (f : Port → Port) : (s.updPort i f).nextAct = s.nextAct := rfl
@[simp] theorem State.updPort_base (i : Nat) (f : Port → Port) : (s.updPort i f).base = s.base := rfl
@[simp] theorem State.updPort_flowSrc (i : Nat) (f : Port → Port) : (s.updPort i f).flowSrc = s.flowSrc := rfl
@[simp] theorem State.updPort_flowDst (i : Nat) (f : Port → Port) : (s.updPort i f).flowDst = s.flowDst := rfl
@[simp] theorem State.updPort_topo (i : Nat) (f : Port → Port) : (s.updPort i f).topo = s.topo := rfl
@[simp] theorem State.updPort_routes (i : Nat) (f : Port → Port) : (s.updPort i f).routes = s.routes := rfl
@[simp] theorem State.updPort_colls (i : Nat) (f : Port → Port) : (s.updPort i f).colls = s.colls := rfl
@[simp] theorem State.updPort_qps (i : Nat) (f : Port → Port) : (s.updPort i f).qps = s.qps := rfl
@[simp] theorem State.updPort_rdmas (i : Nat) (f : Port → Port) : (s.updPort i f).rdmas = s.rdmas := rfl
@[simp] theorem State.updPort_nextReq (i : Nat) (f : Port → Port) : (s.updPort i f).nextReq = s.nextReq := rfl

/-! setLine -/

@[simp] theorem State.setLine_pending (k : Nat) (l : Line) : (s.setLine k l).pending = s.pending := rfl
@[simp] theorem State.setLine_now (k : Nat) (l : Line) : (s.setLine k l).now = s.now := rfl
@[simp] theorem State.setLine_free (k : Nat) (l : Line) : (s.setLine k l).free = s.free := rfl
@[simp] theorem State.setLine_out (k : Nat) (l : Line) : (s.setLine k l).out = s.out := rfl
@[simp] theorem State.setLine_sys (k : Nat) (l : Line) : (s.setLine k l).sys = s.sys := rfl
@[simp] theorem State.setLine_fns (k : Nat) (l : Line) : (s.setLine k l).fns = s.fns := rfl
@[simp] theorem State.setLine_insts (k : Nat) (l : Line) : (s.setLine k l).insts = s.insts := rfl
@[simp] theorem State.setLine_causes (k : Nat) (l : Line) : (s.setLine k l).causes = s.causes := rfl
@[simp] theorem State.setLine_padded (k : Nat) (l : Line) : (s.setLine k l).padded = s.padded := rfl
@[simp] theorem State.setLine_dmaReads (k : Nat) (l : Line) : (s.setLine k l).dmaReads = s.dmaReads := rfl
@[simp] theorem State.setLine_tagsBusy (k : Nat) (l : Line) : (s.setLine k l).tagsBusy = s.tagsBusy := rfl
@[simp] theorem State.setLine_dmaGen (k : Nat) (l : Line) : (s.setLine k l).dmaGen = s.dmaGen := rfl
@[simp] theorem State.setLine_linkGen (k : Nat) (l : Line) : (s.setLine k l).linkGen = s.linkGen := rfl
@[simp] theorem State.setLine_cores (k : Nat) (l : Line) : (s.setLine k l).cores = s.cores := rfl
@[simp] theorem State.setLine_groups (k : Nat) (l : Line) : (s.setLine k l).groups = s.groups := rfl
@[simp] theorem State.setLine_stackTemp (k : Nat) (l : Line) : (s.setLine k l).stackTemp = s.stackTemp := rfl
@[simp] theorem State.setLine_stackLevel (k : Nat) (l : Line) : (s.setLine k l).stackLevel = s.stackLevel := rfl
@[simp] theorem State.setLine_sync (k : Nat) (l : Line) : (s.setLine k l).sync = s.sync := rfl
@[simp] theorem State.setLine_sets (k : Nat) (l : Line) : (s.setLine k l).sets = s.sets := rfl
@[simp] theorem State.setLine_pages (k : Nat) (l : Line) : (s.setLine k l).pages = s.pages := rfl
@[simp] theorem State.setLine_moves (k : Nat) (l : Line) : (s.setLine k l).moves = s.moves := rfl
@[simp] theorem State.setLine_rekeys (k : Nat) (l : Line) : (s.setLine k l).rekeys = s.rekeys := rfl
@[simp] theorem State.setLine_retired (k : Nat) (l : Line) : (s.setLine k l).retired = s.retired := rfl
@[simp] theorem State.setLine_corrections (k : Nat) (l : Line) : (s.setLine k l).corrections = s.corrections := rfl
@[simp] theorem State.setLine_scrub (k : Nat) (l : Line) : (s.setLine k l).scrub = s.scrub := rfl
@[simp] theorem State.setLine_sparesUsed (k : Nat) (l : Line) : (s.setLine k l).sparesUsed = s.sparesUsed := rfl
@[simp] theorem State.setLine_acts (k : Nat) (l : Line) : (s.setLine k l).acts = s.acts := rfl
@[simp] theorem State.setLine_nextAct (k : Nat) (l : Line) : (s.setLine k l).nextAct = s.nextAct := rfl
@[simp] theorem State.setLine_base (k : Nat) (l : Line) : (s.setLine k l).base = s.base := rfl
@[simp] theorem State.setLine_ports (k : Nat) (l : Line) : (s.setLine k l).ports = s.ports := rfl
@[simp] theorem State.setLine_flowSrc (k : Nat) (l : Line) : (s.setLine k l).flowSrc = s.flowSrc := rfl
@[simp] theorem State.setLine_flowDst (k : Nat) (l : Line) : (s.setLine k l).flowDst = s.flowDst := rfl
@[simp] theorem State.setLine_topo (k : Nat) (l : Line) : (s.setLine k l).topo = s.topo := rfl
@[simp] theorem State.setLine_routes (k : Nat) (l : Line) : (s.setLine k l).routes = s.routes := rfl
@[simp] theorem State.setLine_colls (k : Nat) (l : Line) : (s.setLine k l).colls = s.colls := rfl
@[simp] theorem State.setLine_qps (k : Nat) (l : Line) : (s.setLine k l).qps = s.qps := rfl
@[simp] theorem State.setLine_rdmas (k : Nat) (l : Line) : (s.setLine k l).rdmas = s.rdmas := rfl
@[simp] theorem State.setLine_nextReq (k : Nat) (l : Line) : (s.setLine k l).nextReq = s.nextReq := rfl

/-! updSys -/

@[simp] theorem State.updSys_pending (f : Sys → Sys) : (s.updSys f).pending = s.pending := rfl
@[simp] theorem State.updSys_now (f : Sys → Sys) : (s.updSys f).now = s.now := rfl
@[simp] theorem State.updSys_free (f : Sys → Sys) : (s.updSys f).free = s.free := rfl
@[simp] theorem State.updSys_out (f : Sys → Sys) : (s.updSys f).out = s.out := rfl
@[simp] theorem State.updSys_fns (f : Sys → Sys) : (s.updSys f).fns = s.fns := rfl
@[simp] theorem State.updSys_insts (f : Sys → Sys) : (s.updSys f).insts = s.insts := rfl
@[simp] theorem State.updSys_causes (f : Sys → Sys) : (s.updSys f).causes = s.causes := rfl
@[simp] theorem State.updSys_padded (f : Sys → Sys) : (s.updSys f).padded = s.padded := rfl
@[simp] theorem State.updSys_dmaReads (f : Sys → Sys) : (s.updSys f).dmaReads = s.dmaReads := rfl
@[simp] theorem State.updSys_tagsBusy (f : Sys → Sys) : (s.updSys f).tagsBusy = s.tagsBusy := rfl
@[simp] theorem State.updSys_dmaGen (f : Sys → Sys) : (s.updSys f).dmaGen = s.dmaGen := rfl
@[simp] theorem State.updSys_linkGen (f : Sys → Sys) : (s.updSys f).linkGen = s.linkGen := rfl
@[simp] theorem State.updSys_cores (f : Sys → Sys) : (s.updSys f).cores = s.cores := rfl
@[simp] theorem State.updSys_groups (f : Sys → Sys) : (s.updSys f).groups = s.groups := rfl
@[simp] theorem State.updSys_stackTemp (f : Sys → Sys) : (s.updSys f).stackTemp = s.stackTemp := rfl
@[simp] theorem State.updSys_stackLevel (f : Sys → Sys) : (s.updSys f).stackLevel = s.stackLevel := rfl
@[simp] theorem State.updSys_sync (f : Sys → Sys) : (s.updSys f).sync = s.sync := rfl
@[simp] theorem State.updSys_lines (f : Sys → Sys) : (s.updSys f).lines = s.lines := rfl
@[simp] theorem State.updSys_sets (f : Sys → Sys) : (s.updSys f).sets = s.sets := rfl
@[simp] theorem State.updSys_pages (f : Sys → Sys) : (s.updSys f).pages = s.pages := rfl
@[simp] theorem State.updSys_moves (f : Sys → Sys) : (s.updSys f).moves = s.moves := rfl
@[simp] theorem State.updSys_rekeys (f : Sys → Sys) : (s.updSys f).rekeys = s.rekeys := rfl
@[simp] theorem State.updSys_retired (f : Sys → Sys) : (s.updSys f).retired = s.retired := rfl
@[simp] theorem State.updSys_corrections (f : Sys → Sys) : (s.updSys f).corrections = s.corrections := rfl
@[simp] theorem State.updSys_scrub (f : Sys → Sys) : (s.updSys f).scrub = s.scrub := rfl
@[simp] theorem State.updSys_sparesUsed (f : Sys → Sys) : (s.updSys f).sparesUsed = s.sparesUsed := rfl
@[simp] theorem State.updSys_acts (f : Sys → Sys) : (s.updSys f).acts = s.acts := rfl
@[simp] theorem State.updSys_nextAct (f : Sys → Sys) : (s.updSys f).nextAct = s.nextAct := rfl
@[simp] theorem State.updSys_base (f : Sys → Sys) : (s.updSys f).base = s.base := rfl
@[simp] theorem State.updSys_ports (f : Sys → Sys) : (s.updSys f).ports = s.ports := rfl
@[simp] theorem State.updSys_flowSrc (f : Sys → Sys) : (s.updSys f).flowSrc = s.flowSrc := rfl
@[simp] theorem State.updSys_flowDst (f : Sys → Sys) : (s.updSys f).flowDst = s.flowDst := rfl
@[simp] theorem State.updSys_topo (f : Sys → Sys) : (s.updSys f).topo = s.topo := rfl
@[simp] theorem State.updSys_routes (f : Sys → Sys) : (s.updSys f).routes = s.routes := rfl
@[simp] theorem State.updSys_colls (f : Sys → Sys) : (s.updSys f).colls = s.colls := rfl
@[simp] theorem State.updSys_qps (f : Sys → Sys) : (s.updSys f).qps = s.qps := rfl
@[simp] theorem State.updSys_rdmas (f : Sys → Sys) : (s.updSys f).rdmas = s.rdmas := rfl
@[simp] theorem State.updSys_nextReq (f : Sys → Sys) : (s.updSys f).nextReq = s.nextReq := rfl

/-! emit -/

@[simp] theorem State.emit_pending (o : Out) : (s.emit o).pending = s.pending := rfl
@[simp] theorem State.emit_now (o : Out) : (s.emit o).now = s.now := rfl
@[simp] theorem State.emit_free (o : Out) : (s.emit o).free = s.free := rfl
@[simp] theorem State.emit_sys (o : Out) : (s.emit o).sys = s.sys := rfl
@[simp] theorem State.emit_fns (o : Out) : (s.emit o).fns = s.fns := rfl
@[simp] theorem State.emit_insts (o : Out) : (s.emit o).insts = s.insts := rfl
@[simp] theorem State.emit_causes (o : Out) : (s.emit o).causes = s.causes := rfl
@[simp] theorem State.emit_padded (o : Out) : (s.emit o).padded = s.padded := rfl
@[simp] theorem State.emit_dmaReads (o : Out) : (s.emit o).dmaReads = s.dmaReads := rfl
@[simp] theorem State.emit_tagsBusy (o : Out) : (s.emit o).tagsBusy = s.tagsBusy := rfl
@[simp] theorem State.emit_dmaGen (o : Out) : (s.emit o).dmaGen = s.dmaGen := rfl
@[simp] theorem State.emit_linkGen (o : Out) : (s.emit o).linkGen = s.linkGen := rfl
@[simp] theorem State.emit_cores (o : Out) : (s.emit o).cores = s.cores := rfl
@[simp] theorem State.emit_groups (o : Out) : (s.emit o).groups = s.groups := rfl
@[simp] theorem State.emit_stackTemp (o : Out) : (s.emit o).stackTemp = s.stackTemp := rfl
@[simp] theorem State.emit_stackLevel (o : Out) : (s.emit o).stackLevel = s.stackLevel := rfl
@[simp] theorem State.emit_sync (o : Out) : (s.emit o).sync = s.sync := rfl
@[simp] theorem State.emit_lines (o : Out) : (s.emit o).lines = s.lines := rfl
@[simp] theorem State.emit_sets (o : Out) : (s.emit o).sets = s.sets := rfl
@[simp] theorem State.emit_pages (o : Out) : (s.emit o).pages = s.pages := rfl
@[simp] theorem State.emit_moves (o : Out) : (s.emit o).moves = s.moves := rfl
@[simp] theorem State.emit_rekeys (o : Out) : (s.emit o).rekeys = s.rekeys := rfl
@[simp] theorem State.emit_retired (o : Out) : (s.emit o).retired = s.retired := rfl
@[simp] theorem State.emit_corrections (o : Out) : (s.emit o).corrections = s.corrections := rfl
@[simp] theorem State.emit_scrub (o : Out) : (s.emit o).scrub = s.scrub := rfl
@[simp] theorem State.emit_sparesUsed (o : Out) : (s.emit o).sparesUsed = s.sparesUsed := rfl
@[simp] theorem State.emit_acts (o : Out) : (s.emit o).acts = s.acts := rfl
@[simp] theorem State.emit_nextAct (o : Out) : (s.emit o).nextAct = s.nextAct := rfl
@[simp] theorem State.emit_base (o : Out) : (s.emit o).base = s.base := rfl
@[simp] theorem State.emit_ports (o : Out) : (s.emit o).ports = s.ports := rfl
@[simp] theorem State.emit_flowSrc (o : Out) : (s.emit o).flowSrc = s.flowSrc := rfl
@[simp] theorem State.emit_flowDst (o : Out) : (s.emit o).flowDst = s.flowDst := rfl
@[simp] theorem State.emit_topo (o : Out) : (s.emit o).topo = s.topo := rfl
@[simp] theorem State.emit_routes (o : Out) : (s.emit o).routes = s.routes := rfl
@[simp] theorem State.emit_colls (o : Out) : (s.emit o).colls = s.colls := rfl
@[simp] theorem State.emit_qps (o : Out) : (s.emit o).qps = s.qps := rfl
@[simp] theorem State.emit_rdmas (o : Out) : (s.emit o).rdmas = s.rdmas := rfl
@[simp] theorem State.emit_nextReq (o : Out) : (s.emit o).nextReq = s.nextReq := rfl

/-! updStall -/

@[simp] theorem State.updStall_pending (i : Nat) (f : Stall → Stall) : (s.updStall i f).pending = s.pending := rfl
@[simp] theorem State.updStall_now (i : Nat) (f : Stall → Stall) : (s.updStall i f).now = s.now := rfl
@[simp] theorem State.updStall_free (i : Nat) (f : Stall → Stall) : (s.updStall i f).free = s.free := rfl
@[simp] theorem State.updStall_out (i : Nat) (f : Stall → Stall) : (s.updStall i f).out = s.out := rfl
@[simp] theorem State.updStall_sys (i : Nat) (f : Stall → Stall) : (s.updStall i f).sys = s.sys := rfl
@[simp] theorem State.updStall_fns (i : Nat) (f : Stall → Stall) : (s.updStall i f).fns = s.fns := rfl
@[simp] theorem State.updStall_causes (i : Nat) (f : Stall → Stall) : (s.updStall i f).causes = s.causes := rfl
@[simp] theorem State.updStall_padded (i : Nat) (f : Stall → Stall) : (s.updStall i f).padded = s.padded := rfl
@[simp] theorem State.updStall_dmaReads (i : Nat) (f : Stall → Stall) : (s.updStall i f).dmaReads = s.dmaReads := rfl
@[simp] theorem State.updStall_tagsBusy (i : Nat) (f : Stall → Stall) : (s.updStall i f).tagsBusy = s.tagsBusy := rfl
@[simp] theorem State.updStall_dmaGen (i : Nat) (f : Stall → Stall) : (s.updStall i f).dmaGen = s.dmaGen := rfl
@[simp] theorem State.updStall_linkGen (i : Nat) (f : Stall → Stall) : (s.updStall i f).linkGen = s.linkGen := rfl
@[simp] theorem State.updStall_cores (i : Nat) (f : Stall → Stall) : (s.updStall i f).cores = s.cores := rfl
@[simp] theorem State.updStall_groups (i : Nat) (f : Stall → Stall) : (s.updStall i f).groups = s.groups := rfl
@[simp] theorem State.updStall_stackTemp (i : Nat) (f : Stall → Stall) : (s.updStall i f).stackTemp = s.stackTemp := rfl
@[simp] theorem State.updStall_stackLevel (i : Nat) (f : Stall → Stall) : (s.updStall i f).stackLevel = s.stackLevel := rfl
@[simp] theorem State.updStall_sync (i : Nat) (f : Stall → Stall) : (s.updStall i f).sync = s.sync := rfl
@[simp] theorem State.updStall_lines (i : Nat) (f : Stall → Stall) : (s.updStall i f).lines = s.lines := rfl
@[simp] theorem State.updStall_sets (i : Nat) (f : Stall → Stall) : (s.updStall i f).sets = s.sets := rfl
@[simp] theorem State.updStall_pages (i : Nat) (f : Stall → Stall) : (s.updStall i f).pages = s.pages := rfl
@[simp] theorem State.updStall_moves (i : Nat) (f : Stall → Stall) : (s.updStall i f).moves = s.moves := rfl
@[simp] theorem State.updStall_rekeys (i : Nat) (f : Stall → Stall) : (s.updStall i f).rekeys = s.rekeys := rfl
@[simp] theorem State.updStall_retired (i : Nat) (f : Stall → Stall) : (s.updStall i f).retired = s.retired := rfl
@[simp] theorem State.updStall_corrections (i : Nat) (f : Stall → Stall) : (s.updStall i f).corrections = s.corrections := rfl
@[simp] theorem State.updStall_scrub (i : Nat) (f : Stall → Stall) : (s.updStall i f).scrub = s.scrub := rfl
@[simp] theorem State.updStall_sparesUsed (i : Nat) (f : Stall → Stall) : (s.updStall i f).sparesUsed = s.sparesUsed := rfl
@[simp] theorem State.updStall_acts (i : Nat) (f : Stall → Stall) : (s.updStall i f).acts = s.acts := rfl
@[simp] theorem State.updStall_nextAct (i : Nat) (f : Stall → Stall) : (s.updStall i f).nextAct = s.nextAct := rfl
@[simp] theorem State.updStall_base (i : Nat) (f : Stall → Stall) : (s.updStall i f).base = s.base := rfl
@[simp] theorem State.updStall_ports (i : Nat) (f : Stall → Stall) : (s.updStall i f).ports = s.ports := rfl
@[simp] theorem State.updStall_flowSrc (i : Nat) (f : Stall → Stall) : (s.updStall i f).flowSrc = s.flowSrc := rfl
@[simp] theorem State.updStall_flowDst (i : Nat) (f : Stall → Stall) : (s.updStall i f).flowDst = s.flowDst := rfl
@[simp] theorem State.updStall_topo (i : Nat) (f : Stall → Stall) : (s.updStall i f).topo = s.topo := rfl
@[simp] theorem State.updStall_routes (i : Nat) (f : Stall → Stall) : (s.updStall i f).routes = s.routes := rfl
@[simp] theorem State.updStall_colls (i : Nat) (f : Stall → Stall) : (s.updStall i f).colls = s.colls := rfl
@[simp] theorem State.updStall_qps (i : Nat) (f : Stall → Stall) : (s.updStall i f).qps = s.qps := rfl
@[simp] theorem State.updStall_rdmas (i : Nat) (f : Stall → Stall) : (s.updStall i f).rdmas = s.rdmas := rfl
@[simp] theorem State.updStall_nextReq (i : Nat) (f : Stall → Stall) : (s.updStall i f).nextReq = s.nextReq := rfl

/-! draw -/

@[simp] theorem State.draw_pending : s.draw.2.pending = s.pending := rfl
@[simp] theorem State.draw_now : s.draw.2.now = s.now := rfl
@[simp] theorem State.draw_out : s.draw.2.out = s.out := rfl
@[simp] theorem State.draw_sys : s.draw.2.sys = s.sys := rfl
@[simp] theorem State.draw_fns : s.draw.2.fns = s.fns := rfl
@[simp] theorem State.draw_insts : s.draw.2.insts = s.insts := rfl
@[simp] theorem State.draw_causes : s.draw.2.causes = s.causes := rfl
@[simp] theorem State.draw_padded : s.draw.2.padded = s.padded := rfl
@[simp] theorem State.draw_dmaReads : s.draw.2.dmaReads = s.dmaReads := rfl
@[simp] theorem State.draw_tagsBusy : s.draw.2.tagsBusy = s.tagsBusy := rfl
@[simp] theorem State.draw_dmaGen : s.draw.2.dmaGen = s.dmaGen := rfl
@[simp] theorem State.draw_linkGen : s.draw.2.linkGen = s.linkGen := rfl
@[simp] theorem State.draw_cores : s.draw.2.cores = s.cores := rfl
@[simp] theorem State.draw_groups : s.draw.2.groups = s.groups := rfl
@[simp] theorem State.draw_stackTemp : s.draw.2.stackTemp = s.stackTemp := rfl
@[simp] theorem State.draw_stackLevel : s.draw.2.stackLevel = s.stackLevel := rfl
@[simp] theorem State.draw_sync : s.draw.2.sync = s.sync := rfl
@[simp] theorem State.draw_lines : s.draw.2.lines = s.lines := rfl
@[simp] theorem State.draw_sets : s.draw.2.sets = s.sets := rfl
@[simp] theorem State.draw_pages : s.draw.2.pages = s.pages := rfl
@[simp] theorem State.draw_moves : s.draw.2.moves = s.moves := rfl
@[simp] theorem State.draw_rekeys : s.draw.2.rekeys = s.rekeys := rfl
@[simp] theorem State.draw_retired : s.draw.2.retired = s.retired := rfl
@[simp] theorem State.draw_corrections : s.draw.2.corrections = s.corrections := rfl
@[simp] theorem State.draw_scrub : s.draw.2.scrub = s.scrub := rfl
@[simp] theorem State.draw_sparesUsed : s.draw.2.sparesUsed = s.sparesUsed := rfl
@[simp] theorem State.draw_acts : s.draw.2.acts = s.acts := rfl
@[simp] theorem State.draw_nextAct : s.draw.2.nextAct = s.nextAct := rfl
@[simp] theorem State.draw_base : s.draw.2.base = s.base := rfl
@[simp] theorem State.draw_ports : s.draw.2.ports = s.ports := rfl
@[simp] theorem State.draw_flowSrc : s.draw.2.flowSrc = s.flowSrc := rfl
@[simp] theorem State.draw_flowDst : s.draw.2.flowDst = s.flowDst := rfl
@[simp] theorem State.draw_topo : s.draw.2.topo = s.topo := rfl
@[simp] theorem State.draw_routes : s.draw.2.routes = s.routes := rfl
@[simp] theorem State.draw_colls : s.draw.2.colls = s.colls := rfl
@[simp] theorem State.draw_qps : s.draw.2.qps = s.qps := rfl
@[simp] theorem State.draw_rdmas : s.draw.2.rdmas = s.rdmas := rfl
@[simp] theorem State.draw_nextReq : s.draw.2.nextReq = s.nextReq := rfl

/-! The changed records. -/

@[simp] theorem State.updSys_sys (f : Sys → Sys) : (s.updSys f).sys = f s.sys := rfl
@[simp] theorem State.emit_out (o : Out) : (s.emit o).out = o :: s.out := rfl
@[simp] theorem State.draw_free : s.draw.2.free = s.free + 1 := rfl
@[simp] theorem State.draw_fst : s.draw.1 = Config.freeBits s.free := rfl
@[simp] theorem State.updFn_fn (i : Nat) (f : Fn → Fn) : (s.updFn i f).fn i = f (s.fn i) := Tbl.get_upd_self _ _ _ _
theorem State.updFn_fn_ne (i j : Nat) (f : Fn → Fn) (h : j ≠ i) : (s.updFn i f).fn j = s.fn j := Tbl.get_upd_ne _ _ _ _ _ h
@[simp] theorem State.updInst_inst (i : Nat) (f : Inst → Inst) : (s.updInst i f).inst i = f (s.inst i) := Tbl.get_upd_self _ _ _ _
theorem State.updInst_inst_ne (i j : Nat) (f : Inst → Inst) (h : j ≠ i) : (s.updInst i f).inst j = s.inst j := Tbl.get_upd_ne _ _ _ _ _ h
@[simp] theorem State.updCore_core (i : Nat) (f : Core → Core) : (s.updCore i f).core i = f (s.core i) := Tbl.get_upd_self _ _ _ _
theorem State.updCore_core_ne (i j : Nat) (f : Core → Core) (h : j ≠ i) : (s.updCore i f).core j = s.core j := Tbl.get_upd_ne _ _ _ _ _ h
@[simp] theorem State.updWork_work (i : Nat) (f : Work → Work) : (s.updWork i f).work i = f (s.work i) := by
  simp [State.updWork, State.work]
theorem State.updWork_work_ne (i j : Nat) (f : Work → Work) (h : j ≠ i) : (s.updWork i f).work j = s.work j := by
  simp [State.updWork, State.work, State.updCore_core_ne _ _ _ _ h]
@[simp] theorem State.updWork_sram (i j : Nat) (f : Work → Work) : ((s.updWork i f).core j).sram = (s.core j).sram := by
  by_cases h : j = i
  · subst h; simp [State.updWork]
  · simp [State.updWork, State.updCore_core_ne _ _ _ _ h]
@[simp] theorem State.updEng_eng (i : Nat) (f : Engine → Engine) : ((s.updEng i f).work i).eng = f (s.work i).eng := by
  simp [State.updEng]
theorem State.updEng_work_ne (i j : Nat) (f : Engine → Engine) (h : j ≠ i) : (s.updEng i f).work j = s.work j := State.updWork_work_ne s i j _ h
@[simp] theorem State.updGroup_group (i : Nat) (f : Group → Group) : (s.updGroup i f).group i = f (s.group i) := Tbl.get_upd_self _ _ _ _
theorem State.updGroup_group_ne (i j : Nat) (f : Group → Group) (h : j ≠ i) : (s.updGroup i f).group j = s.group j := Tbl.get_upd_ne _ _ _ _ _ h
@[simp] theorem State.updObj_obj (i : Nat) (f : SyncObj → SyncObj) : (s.updObj i f).obj i = f (s.obj i) := Tbl.get_upd_self _ _ _ _
theorem State.updObj_obj_ne (i j : Nat) (f : SyncObj → SyncObj) (h : j ≠ i) : (s.updObj i f).obj j = s.obj j := Tbl.get_upd_ne _ _ _ _ _ h
@[simp] theorem State.updPort_port (i : Nat) (f : Port → Port) : (s.updPort i f).port i = f (s.port i) := Tbl.get_upd_self _ _ _ _
theorem State.updPort_port_ne (i j : Nat) (f : Port → Port) (h : j ≠ i) : (s.updPort i f).port j = s.port j := Tbl.get_upd_ne _ _ _ _ _ h

end Sys2Proof.Machine
end

