-- ==== Sys2Proof/Laws/Command.lean ====
section
/-! SUPPORT. What the shared operations of the command rings do: the order of checks, the buffers, the completion entry. -/

namespace Sys2Proof.Machine

variable {fn : FnId} {e : Entry} {r : Rules} {act : State → State} {s : State}

/-- An accepted command acts on the state without it. -/
theorem runCmd_accepted (h : Accepted fn e r s) : runCmd fn.toNat e r act s = act (takeOff fn.toNat e s) := by
  unfold runCmd
  simp only [h.1, h.2.1, h.2.2, Bool.not_true, Bool.or_self, Bool.false_eq_true, if_false]

/-- A command that is not in its function's ring does nothing. -/
theorem runCmd_absent (i : Nat) (h : (s.fn i).taken.contains e = false) : runCmd i e r act s = s := by
  unfold runCmd; simp only [h, Bool.not_false, Bool.true_or, if_true]

/-- A command on a busy object waits. -/
theorem runCmd_busy (i : Nat) (h : r.busy = true) : runCmd i e r act s = s := by
  unfold runCmd; simp only [h, Bool.or_true, if_true]

/-- A refused command ends with its status and does nothing else. -/
theorem runCmd_refused (i st : Nat) (ht : (s.fn i).taken.contains e = true) (hb : r.busy = false) (hw : whyNot i e r s = some st) (hn : st ≠ St.notAvailable) :
    runCmd i e r act s = refuseCmd i e st (takeOff i e s) := by
  unfold runCmd
  simp only [ht, hb, hw, Bool.not_true, Bool.or_self, Bool.false_eq_true, if_false, if_neg hn]

/-- A command on an object that is not there, or not its own, is answered NOT_AVAILABLE. -/
theorem runCmd_notHere (i : Nat) (ht : (s.fn i).taken.contains e = true) (hb : r.busy = false) (hw : whyNot i e r s = some St.notAvailable) :
    runCmd i e r act s = notHere i e (takeOff i e s) := by
  unfold runCmd
  simp only [ht, hb, hw, Bool.not_true, Bool.or_self, Bool.false_eq_true, if_false, if_true]

theorem takeOff_inst (i j : Nat) : (takeOff i e s).inst j = s.inst j := rfl
theorem takeOff_stall (i j : Nat) : (takeOff i e s).stall j = s.stall j := rfl
theorem takeOff_sys (i : Nat) : (takeOff i e s).sys = s.sys := rfl
theorem takeOff_base (i : Nat) : (takeOff i e s).base = s.base := rfl

/-- The buffer is here and the function may write: the command acts on its bytes. -/
theorem withBuf_some (i n : Nat) (bs : Bytes) (f : Bytes → State → State) (h : (s.fn i).mayWrite = true) : withBuf i e n (some bs) f s = f (sub bs 0 n) s := by
  unfold withBuf; simp only [h, Bool.not_true, Bool.false_eq_true, if_false]

/-- A buffer that does not come is a host abort. -/
theorem withBuf_none (i n : Nat) (f : Bytes → State → State) : withBuf i e n none f s = hostAbort i e s := by
  unfold withBuf; split <;> rfl

/-- An output that fits is written, and the command completes. -/
theorem intoBuf_fits (i : Nat) (bs : Bytes) (result : Nat) (hb : bs.length ≤ eBytes e) (h : (s.fn i).mayWrite = true) :
    intoBuf i e bs result s = answerCmd i e St.done result (hostWrite i (eAddr e) bs s) := by
  unfold intoBuf
  simp only [Nat.not_lt.mpr hb, gt_iff_lt, if_false, h, Bool.not_true, Bool.false_eq_true]

/-- An output that does not fit is refused before anything is written. -/
theorem intoBuf_short (i : Nat) (bs : Bytes) (result : Nat) (hb : eBytes e < bs.length) : intoBuf i e bs result s = refuseCmd i e St.refusedFit s := by
  unfold intoBuf; simp only [gt_iff_lt, hb, if_true]

end Sys2Proof.Machine
end

