-- ==== Sys2Proof/Laws/Read.lean ====
section
/-! SUPPORT. Reading what an update of State has written, and what it has not. -/

namespace Sys2Proof.Machine

variable {s : State}

@[simp] theorem State.fn_updFn_self (i : Nat) (f : Fn → Fn) : (s.updFn i f).fn i = f (s.fn i) := Tbl.get_upd_self ..
theorem State.fn_updFn_ne (f : Fn → Fn) {i j : Nat} (h : j ≠ i) : (s.updFn i f).fn j = s.fn j := Tbl.get_upd_ne _ _ _ _ _ h

@[simp] theorem State.inst_updInst_self (i : Nat) (f : Inst → Inst) : (s.updInst i f).inst i = f (s.inst i) := Tbl.get_upd_self ..
theorem State.inst_updInst_ne (f : Inst → Inst) {i j : Nat} (h : j ≠ i) : (s.updInst i f).inst j = s.inst j := Tbl.get_upd_ne _ _ _ _ _ h

@[simp] theorem State.core_updCore_self (i : Nat) (f : Core → Core) : (s.updCore i f).core i = f (s.core i) := Tbl.get_upd_self ..
theorem State.core_updCore_ne (f : Core → Core) {i j : Nat} (h : j ≠ i) : (s.updCore i f).core j = s.core j := Tbl.get_upd_ne _ _ _ _ _ h

@[simp] theorem State.group_updGroup_self (i : Nat) (f : Group → Group) : (s.updGroup i f).group i = f (s.group i) := Tbl.get_upd_self ..
theorem State.group_updGroup_ne (f : Group → Group) {i j : Nat} (h : j ≠ i) : (s.updGroup i f).group j = s.group j := Tbl.get_upd_ne _ _ _ _ _ h

@[simp] theorem State.obj_updObj_self (i : Nat) (f : SyncObj → SyncObj) : (s.updObj i f).obj i = f (s.obj i) := Tbl.get_upd_self ..
theorem State.obj_updObj_ne (f : SyncObj → SyncObj) {i j : Nat} (h : j ≠ i) : (s.updObj i f).obj j = s.obj j := Tbl.get_upd_ne _ _ _ _ _ h

@[simp] theorem State.port_updPort_self (i : Nat) (f : Port → Port) : (s.updPort i f).port i = f (s.port i) := Tbl.get_upd_self ..
theorem State.port_updPort_ne (f : Port → Port) {i j : Nat} (h : j ≠ i) : (s.updPort i f).port j = s.port j := Tbl.get_upd_ne _ _ _ _ _ h

@[simp] theorem State.work_updWork_self (i : Nat) (f : Work → Work) : (s.updWork i f).work i = f (s.work i) := by
  simp [State.work, State.updWork]
theorem State.work_updWork_ne (f : Work → Work) {i j : Nat} (h : j ≠ i) : (s.updWork i f).work j = s.work j := by
  simp [State.work, State.updWork, State.core_updCore_ne _ h]

@[simp] theorem State.stall_updStall_self (i : Nat) (f : Stall → Stall) : (s.updStall i f).stall i = (s.stall i).map f := by
  simp [State.stall, State.updStall]
theorem State.stall_updStall_ne (f : Stall → Stall) {i j : Nat} (h : j ≠ i) : (s.updStall i f).stall j = s.stall j := by
  simp [State.stall, State.updStall, State.inst_updInst_ne _ h]

/-! ## Doing something for each of a list -/

/-- What every round leaves alone, the whole leaves alone. -/
theorem forEach_keeps {α β : Type} {f : α → State → State} (g : State → β) (h : ∀ x s, g (f x s) = g s) (l : List α) : ∀ s, g (forEach f l s) = g s := by
  induction l with
  | nil => intro s; rfl
  | cons x l ih => intro s; exact (ih (f x s)).trans (h x s)

end Sys2Proof.Machine
end

