-- ==== Sys2Proof/Laws/Flags.lean ====
section
/-! SUPPORT. What recording a cause, sending an interrupt and posting a completion can change. -/

namespace Sys2Proof.Machine

/-- Only causes, outputs, the interrupt state of functions and ATTN_N may differ. -/
def Noted (s t : State) : Prop :=
  (∃ c o f a, t = { s with causes := c, out := o, fns := f, sys := { s.sys with attnN := a } }) ∧
  ∀ i, ∃ p l m, t.fn i = { s.fn i with pba := p, lastMsg := l, msgDue := m }

/-- As `Noted`, and of a function also the place in its completion ring, what it holds back, and its summary bits. -/
def Posted (s t : State) : Prop :=
  (∃ c o f a, t = { s with causes := c, out := o, fns := f, sys := { s.sys with attnN := a } }) ∧
  ∀ i, ∃ tl ph h sc se sm p l m, t.fn i = { s.fn i with cplTail := tl, cplPhase := ph, held := h, sumCpl := sc, sumExport := se, sumMaint := sm, pba := p, lastMsg := l, msgDue := m }

variable {s t u : State}

theorem Noted.refl (s : State) : Noted s s := ⟨⟨s.causes, s.out, s.fns, s.sys.attnN, rfl⟩, fun _ => ⟨_, _, _, rfl⟩⟩

theorem Noted.trans (h : Noted s t) (k : Noted t u) : Noted s u := by
  obtain ⟨⟨_, _, _, _, rfl⟩, h2⟩ := h
  obtain ⟨⟨_, _, _, _, rfl⟩, k2⟩ := k
  refine ⟨⟨_, _, _, _, rfl⟩, fun i => ?_⟩
  obtain ⟨_, _, _, e1⟩ := h2 i
  obtain ⟨_, _, _, e2⟩ := k2 i
  rw [e2, e1]; exact ⟨_, _, _, rfl⟩

theorem Posted.refl (s : State) : Posted s s := ⟨⟨s.causes, s.out, s.fns, s.sys.attnN, rfl⟩, fun _ => ⟨_, _, _, _, _, _, _, _, _, rfl⟩⟩

theorem Posted.trans (h : Posted s t) (k : Posted t u) : Posted s u := by
  obtain ⟨⟨_, _, _, _, rfl⟩, h2⟩ := h
  obtain ⟨⟨_, _, _, _, rfl⟩, k2⟩ := k
  refine ⟨⟨_, _, _, _, rfl⟩, fun i => ?_⟩
  obtain ⟨_, _, _, _, _, _, _, _, _, e1⟩ := h2 i
  obtain ⟨_, _, _, _, _, _, _, _, _, e2⟩ := k2 i
  rw [e2, e1]; exact ⟨_, _, _, _, _, _, _, _, _, rfl⟩

theorem Noted.posted (h : Noted s t) : Posted s t := by
  refine ⟨h.1, fun i => ?_⟩
  obtain ⟨_, _, _, e⟩ := h.2 i
  rw [e]; exact ⟨_, _, _, _, _, _, _, _, _, rfl⟩

/-! ## Interrupts and pins -/

/-- The pins change outputs and ATTN_N alone. -/
theorem pinsFollow_eq (old s : State) : ∃ o a, pinsFollow old s = { s with out := o, sys := { s.sys with attnN := a } } := by
  by_cases h : old.intaOn = s.intaOn
  · simp only [pinsFollow, if_pos h]; split
    · exact ⟨s.out, s.sys.attnN, rfl⟩
    · exact ⟨_, _, rfl⟩
  · simp only [pinsFollow, if_neg h]; split
    · exact ⟨.inta s.intaOn :: s.out, s.sys.attnN, rfl⟩
    · exact ⟨_, _, rfl⟩

theorem pinsFollow_noted (old s : State) : Noted s (pinsFollow old s) := by
  obtain ⟨o, a, h⟩ := pinsFollow_eq old s
  rw [h]; exact ⟨⟨s.causes, o, s.fns, a, rfl⟩, fun _ => ⟨_, _, _, rfl⟩⟩

/-- A change of a function's interrupt state alone. -/
theorem Noted.ofFn (fn : Nat) (g : Fn → Fn) (h : ∀ f, ∃ p l m, g f = { f with pba := p, lastMsg := l, msgDue := m }) : Noted s (s.updFn fn g) := by
  refine ⟨⟨s.causes, s.out, _, s.sys.attnN, rfl⟩, fun i => ?_⟩
  by_cases hi : i = fn
  · subst hi; rw [State.fn_updFn_self]; exact h _
  · rw [State.fn_updFn_ne g hi]; exact ⟨_, _, _, rfl⟩

theorem messageOut_noted (fn : Nat) (s : State) : Noted s (messageOut fn s) :=
  (Noted.ofFn fn (fun f => { f with lastMsg := some s.now.toNat, pba := false, msgDue := false }) (fun _ => ⟨_, _, _, rfl⟩)).trans ⟨⟨_, _, _, _, rfl⟩, fun _ => ⟨_, _, _, rfl⟩⟩

theorem sendMessage_noted (fn : Nat) (s : State) : Noted s (sendMessage fn s) := by
  unfold sendMessage
  extract_lets f
  split
  · exact .refl s
  · split
    · exact Noted.ofFn fn _ (fun _ => ⟨_, _, _, rfl⟩)
    · split
      · split
        · exact Noted.ofFn fn _ (fun _ => ⟨_, _, _, rfl⟩)
        · exact messageOut_noted fn s
      · exact messageOut_noted fn s

theorem following_noted (fn : Nat) (change : State → State) (s : State) : Noted (change s) (following fn change s) := by
  unfold following
  extract_lets s1 s2
  refine .trans ?_ (pinsFollow_noted _ _)
  simp only [s2]; split
  · exact sendMessage_noted fn s1
  · exact .refl _

/-! ## Causes -/

theorem Noted.ofCauses (c : Tbl Cause) : Noted s { s with causes := c } := ⟨⟨_, s.out, s.fns, s.sys.attnN, rfl⟩, fun _ => ⟨_, _, _, rfl⟩⟩

theorem raiseIn_noted (tree g b detail inst : Nat) (s : State) : Noted s (raiseIn tree g b detail inst s) := (Noted.ofCauses _).trans (following_noted _ _ _)
theorem raise_noted (fn g b detail : Nat) (s : State) : Noted s (raise fn g b detail s) := raiseIn_noted ..
theorem raiseDev_noted (g b detail : Nat) (s : State) : Noted s (raiseDev g b detail s) := raiseIn_noted ..
theorem raiseDevFor_noted (g b detail inst : Nat) (s : State) : Noted s (raiseDevFor g b detail inst s) := raiseIn_noted ..
theorem regIgnored_noted (fn off be : Nat) (w : Bool) (s : State) : Noted s (regIgnored fn off be w s) := raiseIn_noted ..
theorem clearCauses_noted (tree g mask : Nat) (s : State) : Noted s (clearCauses tree g mask s) := (Noted.ofCauses _).trans (following_noted _ _ _)

theorem setLive_noted (tree g b : Nat) (on : Bool) (detail inst : Nat) (s : State) : Noted s (setLive tree g b on detail inst s) := by
  unfold setLive; split
  · exact (Noted.ofCauses _).trans (following_noted _ _ _)
  · exact .refl s

/-! ## Completions -/

/-- A change of a function's completion state alone. -/
theorem Posted.ofFn (fn : Nat) (g : Fn → Fn)
    (h : ∀ f, ∃ tl ph h sc se sm p l m, g f = { f with cplTail := tl, cplPhase := ph, held := h, sumCpl := sc, sumExport := se, sumMaint := sm, pba := p, lastMsg := l, msgDue := m }) :
    Posted s (s.updFn fn g) := by
  refine ⟨⟨s.causes, s.out, _, s.sys.attnN, rfl⟩, fun i => ?_⟩
  by_cases hi : i = fn
  · subst hi; rw [State.fn_updFn_self]; exact h _
  · rw [State.fn_updFn_ne g hi]; exact ⟨_, _, _, _, _, _, _, _, _, rfl⟩

theorem setCompletionBit_posted (fn : Nat) (s : State) : Posted s (setCompletionBit fn s) :=
  (Posted.ofFn fn (fun f => { f with sumCpl := true }) (fun _ => ⟨_, _, _, _, _, _, _, _, _, rfl⟩)).trans (following_noted _ _ _).posted
theorem setExportBit_posted (fn : Nat) (s : State) : Posted s (setExportBit fn s) :=
  (Posted.ofFn fn (fun f => { f with sumExport := true }) (fun _ => ⟨_, _, _, _, _, _, _, _, _, rfl⟩)).trans (following_noted _ _ _).posted
theorem setMaintBit_posted (s : State) : Posted s (setMaintBit s) :=
  (Posted.ofFn 0 (fun f => { f with sumMaint := true }) (fun _ => ⟨_, _, _, _, _, _, _, _, _, rfl⟩)).trans (following_noted _ _ _).posted

theorem writeCpl_posted (fn : Nat) (c : Cpl) (s : State) : Posted s (writeCpl fn c s) := by
  unfold writeCpl
  extract_lets f late flags addr last s1 s2 s3
  have h1 : Posted s s1 := ⟨⟨s.causes, _, s.fns, s.sys.attnN, rfl⟩, fun _ => ⟨_, _, _, _, _, _, _, _, _, rfl⟩⟩
  have h3 : Posted s s3 := (h1.trans (Posted.ofFn fn _ (fun _ => ⟨_, _, _, _, _, _, _, _, _, rfl⟩))).trans (setCompletionBit_posted fn s2)
  split
  · exact h3.trans (raise_noted ..).posted
  · exact h3

theorem releaseGo_posted (fn : Nat) (cs : List Cpl) : ∀ s : State, Posted s (releaseGo fn cs s) := by
  induction cs with
  | nil => intro s; exact Posted.ofFn fn _ (fun _ => ⟨_, _, _, _, _, _, _, _, _, rfl⟩)
  | cons c cs ih =>
    intro s
    unfold releaseGo; split
    · exact (writeCpl_posted fn c s).trans (ih _)
    · exact Posted.ofFn fn _ (fun _ => ⟨_, _, _, _, _, _, _, _, _, rfl⟩)

theorem releaseHeld_posted (fn : Nat) (s : State) : Posted s (releaseHeld fn s) := releaseGo_posted fn _ s

theorem post_posted (fn : Nat) (c : Cpl) (s : State) : Posted s (post fn c s) := by
  unfold post
  extract_lets f
  split
  · exact .refl s
  · split
    · exact writeCpl_posted fn c s
    · exact Posted.ofFn fn _ (fun _ => ⟨_, _, _, _, _, _, _, _, _, rfl⟩)

theorem finish_posted (fn tag status result : Nat) (s : State) : Posted s (finish fn tag status result s) := post_posted ..
theorem interim_posted (fn tag status : Nat) (s : State) : Posted s (interim fn tag status s) := post_posted ..
theorem finishStep_posted (fn tag status flags result : Nat) (bound : Option Nat) (s : State) : Posted s (finishStep fn tag status flags result bound s) := post_posted ..
theorem finishMaint_posted (tag status result : Nat) (s : State) : Posted s (finishMaint tag status result s) := (finish_posted ..).trans (setMaintBit_posted _)

theorem finishCmd_posted (fn family tag status result : Nat) (s : State) : Posted s (finishCmd fn family tag status result s) := by
  unfold finishCmd; split
  · exact finishMaint_posted ..
  · exact finish_posted ..

/-! ## What they leave -/

theorem Posted.insts (h : Posted s t) : t.insts = s.insts := by obtain ⟨_, _, _, _, rfl⟩ := h.1; rfl
theorem Posted.cores (h : Posted s t) : t.cores = s.cores := by obtain ⟨_, _, _, _, rfl⟩ := h.1; rfl
theorem Posted.lines (h : Posted s t) : t.lines = s.lines := by obtain ⟨_, _, _, _, rfl⟩ := h.1; rfl
theorem Posted.sync (h : Posted s t) : t.sync = s.sync := by obtain ⟨_, _, _, _, rfl⟩ := h.1; rfl
theorem Posted.ports (h : Posted s t) : t.ports = s.ports := by obtain ⟨_, _, _, _, rfl⟩ := h.1; rfl
theorem Posted.now (h : Posted s t) : t.now = s.now := by obtain ⟨_, _, _, _, rfl⟩ := h.1; rfl
theorem Posted.sys (h : Posted s t) : t.sys = { s.sys with attnN := t.sys.attnN } := by obtain ⟨_, _, _, _, rfl⟩ := h.1; rfl
theorem Posted.taken (h : Posted s t) (i : Nat) : (t.fn i).taken = (s.fn i).taken := by obtain ⟨_, _, _, _, _, _, _, _, _, e⟩ := h.2 i; rw [e]
theorem Posted.fetching (h : Posted s t) (i : Nat) : (t.fn i).fetching = (s.fn i).fetching := by obtain ⟨_, _, _, _, _, _, _, _, _, e⟩ := h.2 i; rw [e]
theorem Posted.mayWrite (h : Posted s t) (i : Nat) : (t.fn i).mayWrite = (s.fn i).mayWrite := by obtain ⟨_, _, _, _, _, _, _, _, _, e⟩ := h.2 i; rw [e]; rfl

end Sys2Proof.Machine
end

