-- ==== Sys2Proof/Laws/Intact.lean ====
section
/-! SUPPORT. What every operation of the machine keeps: the queue of waiting commands, and the canonical form of every memory. -/

namespace Sys2Proof.Machine

/-- The memories of one core are canonical. -/
def Core.memWf (c : Core) : Bool := Mem.wf c.sram && (match c.spilled with | some sp => Mem.wf sp.mem | none => true)

/-- The queue is `p`, and every memory is canonical. -/
def Intact (p : List Instr) (s : State) : Prop := s.pending = p ∧ s.memWf = true

variable {p : List Instr} {s : State}

/-- A change that touches neither the queue nor a memory. -/
theorem Intact.of {s t : State} (h : Intact p s) (h1 : t.pending = s.pending) (h2 : t.cores = s.cores) (h3 : t.lines = s.lines) : Intact p t := by
  unfold Intact State.memWf at *
  rw [h1, h2, h3]; exact h

/-- The same, for a record that takes the queue and the memories of `s`. -/
theorem Intact.rebuild {s : State} (now : BitVec 64) (free : Nat) (out : List Out) (sys : Sys) (fns : Tbl Fn) (insts : Tbl Inst) (causes : Tbl Cause) (padded : List (Nat × Nat × Cpl)) (dmaReads : List DmaRead) (tagsBusy : List Nat) (dmaGen : Tbl Nat) (linkGen : Tbl Nat) (groups : Tbl Group) (stackTemp : Tbl Nat) (stackLevel : Tbl Nat) (sync : Tbl SyncObj) (sets : List PartSet) (pages : Tbl Pte) (moves : List MoveRec) (rekeys : List RekeyRec) (retired : List (Nat × Nat)) (corrections : Tbl (List Nat)) (scrub : List ScrubRun) (sparesUsed : Tbl Nat) (acts : List Act) (nextAct : Nat) (base : BaseModel) (ports : Tbl Port) (flowSrc : Tbl FlowSrc) (flowDst : Tbl FlowDst) (topo : List TopoEnt) (routes : Tbl (List Nat)) (colls : List CollRun) (qps : List Qp) (rdmas : List Rdma) (nextReq : Nat)
    (h : Intact p s) : Intact p ⟨s.pending, now, free, out, sys, fns, insts, causes, padded, dmaReads, tagsBusy, dmaGen, linkGen, s.cores, groups, stackTemp, stackLevel, sync, s.lines, sets, pages, moves, rekeys, retired, corrections, scrub, sparesUsed, acts, nextAct, base, ports, flowSrc, flowDst, topo, routes, colls, qps, rdmas, nextReq⟩ := h

theorem Intact.core (h : Intact p s) (i : Nat) : (s.core i).memWf = true := by
  have h2 := h.2
  unfold State.memWf at h2
  rw [Bool.and_eq_true] at h2
  exact Tbl.all_get Core.memWf {} s.cores i h2.1 (by decide)

/-- A change of one core that keeps its memories canonical. -/
theorem State.updCore_intact (i : Nat) (f : Core → Core) (h : Intact p s) (hf : ∀ c : Core, c.memWf = true → (f c).memWf = true) : Intact p (s.updCore i f) := by
  refine ⟨h.1, ?_⟩
  have h2 := h.2
  unfold State.memWf at h2 ⊢
  rw [Bool.and_eq_true] at h2 ⊢
  exact ⟨Tbl.all_set Core.memWf s.cores i _ h2.1 (hf _ (Intact.core h i)), h2.2⟩

theorem State.updWork_intact (i : Nat) (f : Work → Work) (h : Intact p s) : Intact p (s.updWork i f) :=
  State.updCore_intact i _ h (fun _ hc => hc)

theorem State.updEng_intact (i : Nat) (f : Engine → Engine) (h : Intact p s) : Intact p (s.updEng i f) := State.updWork_intact i _ h

theorem State.setLine_intact (key : Nat) (l : Line) (h : Intact p s) : Intact p (s.setLine key l) := by
  refine ⟨h.1, ?_⟩
  have h2 := h.2
  unfold State.memWf at h2 ⊢
  rw [Bool.and_eq_true] at h2 ⊢
  exact ⟨h2.1, Tbl.wf_put _ _ _ _ h2.2⟩

/-- Lines that are dropped. -/
theorem Intact.dropLines {s t : State} (q : Nat × Line → Bool) (h : Intact p s) (h1 : t.pending = s.pending) (h2 : t.cores = s.cores)
    (h3 : t.lines = s.lines.filter q) : Intact p t := by
  unfold Intact State.memWf at *
  rw [h1, h2, h3]
  rw [Bool.and_eq_true] at h ⊢
  exact ⟨h.1, h.2.1, Tbl.wf_filter _ _ _ h.2.2⟩

/-! The state within a tuple that an operation answers. -/

theorem Intact.snd {α : Type} {x : α × State} {a : α} {t : State} (hx : x = (a, t)) (h : Intact p x.2) : Intact p t := by subst hx; exact h

theorem Intact.fst {α : Type} {x : State × α} {a : α} {t : State} (hx : x = (t, a)) (h : Intact p x.1) : Intact p t := by subst hx; exact h

theorem Intact.thd {α β : Type} {x : α × β × State} {a : α} {b : β} {t : State} (hx : x = (a, b, t)) (h : Intact p x.2.2) : Intact p t := by
  subst hx; exact h

theorem forEach_intact {α : Type} (f : α → State → State) (l : List α) (h : Intact p s) (hf : ∀ a s, Intact p s → Intact p (f a s)) :
    Intact p (forEach f l s) := by
  induction l generalizing s with
  | nil => exact h
  | cons a l ih => exact ih (hf a s h)

theorem Intact.cond {c : Prop} [Decidable c] {a b : State} (h1 : c → Intact p a) (h2 : ¬c → Intact p b) : Intact p (if c then a else b) := by
  split
  · next hc => exact h1 hc
  · next hc => exact h2 hc

/-- A fold that carries a state beside its result. -/
theorem Intact.foldSnd {α β : Type} (f : β × State → α → β × State) (hf : ∀ x a, Intact p x.2 → Intact p (f x a).2) (l : List α) (x : β × State) (hx : Intact p x.2) :
    Intact p (l.foldl f x).2 := by
  induction l generalizing x with
  | nil => exact hx
  | cons a l ih => exact ih _ (hf x a hx)

/-- Operations that may find no room, one after the other. -/
theorem Intact.foldBind {α : Type} (f : α → State → Option State) (hf : ∀ a s t, Intact p s → f a s = some t → Intact p t) (l : List α) (o : Option State)
    (ho : ∀ t, o = some t → Intact p t) (t : State) (ht : l.foldl (fun o a => o.bind (f a)) o = some t) : Intact p t := by
  induction l generalizing o with
  | nil => exact ho t ht
  | cons a l ih =>
    refine ih _ (fun u hu => ?_) ht
    obtain ⟨v, hv, hu⟩ := Option.bind_eq_some_iff.mp hu
    exact hf a v u (ho v hv) hu

/-- Where a transfer of the data mover leaves a state, the queue and the memories are kept. -/
def MoverEnd.Keeps (p : List Instr) : MoverEnd → Prop
  | .done s => Intact p s
  | .waits s => Intact p s
  | .failed s => Intact p s

/-! What a change of one core keeps. -/

theorem Core.memWf_of {c d : Core} (hc : c.memWf = true) (h1 : d.sram = c.sram) (h2 : d.spilled = c.spilled) : d.memWf = true := by
  unfold Core.memWf at *
  rw [h1, h2]; exact hc

theorem Core.memWf_sram {c : Core} (hc : c.memWf = true) : Mem.wf c.sram = true := by
  unfold Core.memWf at hc
  rw [Bool.and_eq_true] at hc; exact hc.1

theorem Core.memWf_spilled {c : Core} {sp : Spilled} (hc : c.memWf = true) (h : c.spilled = some sp) : Mem.wf sp.mem = true := by
  unfold Core.memWf at hc
  rw [Bool.and_eq_true, h] at hc; exact hc.2

theorem Core.memWf_some {d : Core} {sp : Spilled} (h0 : d.spilled = some sp) (h1 : Mem.wf d.sram = true) (h2 : Mem.wf sp.mem = true) : d.memWf = true := by
  unfold Core.memWf
  rw [h0, h1, Bool.true_and]; exact h2

theorem Core.memWf_none {d : Core} (h0 : d.spilled = none) (h1 : Mem.wf d.sram = true) : d.memWf = true := by
  unfold Core.memWf
  rw [h0, h1, Bool.true_and]

theorem Core.store_memWf (a : Nat) (bs : Bytes) (poisoned : Bool) {c : Core} (hc : c.memWf = true) : (c.store a bs poisoned).memWf = true := by
  unfold Core.memWf Core.store at *
  rw [Bool.and_eq_true] at *
  exact ⟨Mem.wf_write _ _ _ hc.1, hc.2⟩

/-- Every core becomes one with canonical memories, and the lines are those of before or none. -/
theorem Intact.mapCores {s t : State} (f : Nat × Core → Core) (h : Intact p s) (hf : ∀ x, (f x).memWf = true) (h1 : t.pending = s.pending)
    (h2 : t.cores = s.cores.map (fun c => (c.1, f c))) (h3 : t.lines = s.lines ∨ t.lines = []) : Intact p t := by
  refine ⟨h1.trans h.1, ?_⟩
  have hw := h.2
  unfold State.memWf at hw ⊢
  rw [Bool.and_eq_true] at hw ⊢
  refine ⟨?_, ?_⟩
  · rw [h2, List.all_map, List.all_eq_true]
    intro x _
    exact hf x
  · rcases h3 with h3 | h3
    · rw [h3]; exact hw.2
    · rw [h3]; rfl

end Sys2Proof.Machine
end

