-- ==== Sys2Proof/Laws/IntactAccess.lean ====
section
/-! SUPPORT. The shared accesses: tables, causes, rings, the arbiter, lines, frames: each keeps the queue and every memory (Intact). -/

namespace Sys2Proof.Machine

set_option maxRecDepth 4000

/-! ## Machine/Access.lean -/

theorem State.updFn_intact {pq : List Instr} (s : State) (i : Nat) (f : Fn → Fn) (hI : Intact pq s) : Intact pq (State.updFn s i f) := by
  unfold State.updFn
  repeat' first | with_reducible assumption | fail_if_no_progress with_reducible apply Intact.rebuild

theorem State.updInst_intact {pq : List Instr} (s : State) (i : Nat) (f : Inst → Inst) (hI : Intact pq s) : Intact pq (State.updInst s i f) := by
  unfold State.updInst
  repeat' first | with_reducible assumption | fail_if_no_progress with_reducible apply Intact.rebuild

theorem State.updGroup_intact {pq : List Instr} (s : State) (i : Nat) (f : Group → Group) (hI : Intact pq s) : Intact pq (State.updGroup s i f) := by
  unfold State.updGroup
  repeat' first | with_reducible assumption | fail_if_no_progress with_reducible apply Intact.rebuild

theorem State.updObj_intact {pq : List Instr} (s : State) (i : Nat) (f : SyncObj → SyncObj) (hI : Intact pq s) : Intact pq (State.updObj s i f) := by
  unfold State.updObj
  repeat' first | with_reducible assumption | fail_if_no_progress with_reducible apply Intact.rebuild

theorem State.updPort_intact {pq : List Instr} (s : State) (i : Nat) (f : Port → Port) (hI : Intact pq s) : Intact pq (State.updPort s i f) := by
  unfold State.updPort
  repeat' first | with_reducible assumption | fail_if_no_progress with_reducible apply Intact.rebuild

theorem State.updSys_intact {pq : List Instr} (s : State) (f : Sys → Sys) (hI : Intact pq s) : Intact pq (State.updSys s f) := by
  unfold State.updSys
  repeat' first | with_reducible assumption | fail_if_no_progress with_reducible apply Intact.rebuild

theorem State.emit_intact {pq : List Instr} (s : State) (o : Out) (hI : Intact pq s) : Intact pq (State.emit s o) := by
  unfold State.emit
  repeat' first | with_reducible assumption | fail_if_no_progress with_reducible apply Intact.rebuild

theorem State.draw_intact {pq : List Instr} (s : State) (hI : Intact pq s) : Intact pq (State.draw s).2 := by
  unfold State.draw
  repeat' first | with_reducible assumption | fail_if_no_progress with_reducible apply Intact.rebuild

theorem State.updStall_intact {pq : List Instr} (s : State) (i : Nat) (f : Stall → Stall) (hI : Intact pq s) : Intact pq (State.updStall s i f) := by
  unfold State.updStall
  repeat' first | with_reducible assumption | with_reducible apply State.updInst_intact

/-! ## Machine/Flags.lean -/

theorem pinsFollow_intact {pq : List Instr} (old new : State) (h : Intact pq new) : Intact pq (pinsFollow old new) := by
  unfold pinsFollow
  try dsimp only
  repeat' first | with_reducible assumption | with_reducible apply State.emit_intact | split | fail_if_no_progress with_reducible apply Intact.rebuild

theorem messageOut_intact {pq : List Instr} (fn : Nat) (s : State) (hI : Intact pq s) : Intact pq (messageOut fn s) := by
  unfold messageOut
  repeat' first | with_reducible assumption | with_reducible apply State.updFn_intact | with_reducible apply State.emit_intact

theorem sendMessage_intact {pq : List Instr} (fn : Nat) (s : State) (hI : Intact pq s) : Intact pq (sendMessage fn s) := by
  unfold sendMessage
  try dsimp only
  repeat' first | with_reducible assumption | with_reducible apply State.updFn_intact | with_reducible apply messageOut_intact | split

theorem following_intact {pq : List Instr} (fn : Nat) (change : State → State) (s : State) (hchange : ∀ s, Intact pq s → Intact pq (change s)) (hI : Intact pq s) : Intact pq (following fn change s) := by
  unfold following
  repeat' first | with_reducible assumption | with_reducible apply hchange | with_reducible apply sendMessage_intact | with_reducible apply pinsFollow_intact | with_reducible apply Intact.cond | intro _

theorem raiseIn_intact {pq : List Instr} (tree g b detail inst : Nat) (s : State) (hI : Intact pq s) : Intact pq (raiseIn tree g b detail inst s) := by
  unfold raiseIn
  repeat' first | with_reducible assumption | with_reducible apply following_intact | fail_if_no_progress with_reducible apply Intact.rebuild | intro _

theorem raise_intact {pq : List Instr} (fn g b detail : Nat) (s : State) (hI : Intact pq s) : Intact pq (raise fn g b detail s) := by
  unfold raise
  repeat' first | with_reducible assumption | with_reducible apply raiseIn_intact

theorem raiseDev_intact {pq : List Instr} (g b detail : Nat) (s : State) (hI : Intact pq s) : Intact pq (raiseDev g b detail s) := by
  unfold raiseDev
  repeat' first | with_reducible assumption | with_reducible apply raiseIn_intact

theorem raiseDevFor_intact {pq : List Instr} (g b detail inst : Nat) (s : State) (hI : Intact pq s) : Intact pq (raiseDevFor g b detail inst s) := by
  unfold raiseDevFor
  repeat' first | with_reducible assumption | with_reducible apply raiseIn_intact

theorem setLive_intact {pq : List Instr} (tree g b : Nat) (on : Bool) (detail inst : Nat) (s : State) (hI : Intact pq s) : Intact pq (setLive tree g b on detail inst s) := by
  unfold setLive
  repeat' first | with_reducible assumption | with_reducible apply following_intact | with_reducible apply Intact.cond | fail_if_no_progress with_reducible apply Intact.rebuild | intro _

theorem clearCauses_intact {pq : List Instr} (tree g mask : Nat) (s : State) (hI : Intact pq s) : Intact pq (clearCauses tree g mask s) := by
  unfold clearCauses
  repeat' first | with_reducible assumption | with_reducible apply following_intact | fail_if_no_progress with_reducible apply Intact.rebuild | intro _

theorem resetCauses_intact {pq : List Instr} (fn : Nat) (keepFatal : Bool) (s : State) (hI : Intact pq s) : Intact pq (resetCauses fn keepFatal s) := by
  unfold resetCauses
  repeat' first | with_reducible assumption | fail_if_no_progress with_reducible apply Intact.rebuild

theorem resetAllCauses_intact {pq : List Instr} (s : State) (hI : Intact pq s) : Intact pq (resetAllCauses s) := by
  unfold resetAllCauses
  repeat' first | with_reducible assumption | fail_if_no_progress with_reducible apply Intact.rebuild

theorem setCompletionBit_intact {pq : List Instr} (fn : Nat) (s : State) (hI : Intact pq s) : Intact pq (setCompletionBit fn s) := by
  unfold setCompletionBit
  repeat' first | with_reducible assumption | with_reducible apply following_intact | with_reducible apply State.updFn_intact | intro _

theorem setExportBit_intact {pq : List Instr} (fn : Nat) (s : State) (hI : Intact pq s) : Intact pq (setExportBit fn s) := by
  unfold setExportBit
  repeat' first | with_reducible assumption | with_reducible apply following_intact | with_reducible apply State.updFn_intact | intro _

theorem setMaintBit_intact {pq : List Instr} (s : State) (hI : Intact pq s) : Intact pq (setMaintBit s) := by
  unfold setMaintBit
  repeat' first | with_reducible assumption | with_reducible apply following_intact | with_reducible apply State.updFn_intact | intro _

/-! ## Machine/Rings.lean -/

theorem writeCpl_intact {pq : List Instr} (fn : Nat) (c : Cpl) (s : State) (hI : Intact pq s) : Intact pq (writeCpl fn c s) := by
  unfold writeCpl
  repeat' first | with_reducible assumption | with_reducible apply State.emit_intact | with_reducible apply State.updFn_intact | with_reducible apply setCompletionBit_intact | with_reducible apply raise_intact | with_reducible apply Intact.cond | intro _

theorem releaseGo_intact {pq : List Instr} (fn : Nat) (x0 : List Cpl) (s : State) (hI : Intact pq s) : Intact pq (releaseGo fn x0 s) := by
  fun_induction releaseGo fn x0 s
  all_goals (repeat' first | with_reducible assumption | with_reducible refine (‹Intact _ _ → Intact _ _› : _) ?_ | with_reducible apply State.updFn_intact | with_reducible apply writeCpl_intact)

theorem releaseHeld_intact {pq : List Instr} (fn : Nat) (s : State) (hI : Intact pq s) : Intact pq (releaseHeld fn s) := by
  unfold releaseHeld
  repeat' first | with_reducible assumption | with_reducible apply releaseGo_intact

theorem post_intact {pq : List Instr} (fn : Nat) (c : Cpl) (s : State) (hI : Intact pq s) : Intact pq (post fn c s) := by
  unfold post
  repeat' first | with_reducible assumption | with_reducible apply writeCpl_intact | with_reducible apply State.updFn_intact | with_reducible apply Intact.cond | intro _

theorem finish_intact {pq : List Instr} (fn tag status : Nat) (result : Nat) (s : State) (hI : Intact pq s) : Intact pq (finish fn tag status result s) := by
  unfold finish
  repeat' first | with_reducible assumption | with_reducible apply post_intact

theorem finishMaint_intact {pq : List Instr} (tag status result : Nat) (s : State) (hI : Intact pq s) : Intact pq (finishMaint tag status result s) := by
  unfold finishMaint
  repeat' first | with_reducible assumption | with_reducible apply setMaintBit_intact | with_reducible apply finish_intact

theorem finishStep_intact {pq : List Instr} (fn tag status flags result : Nat) (bound : Option Nat) (s : State) (hI : Intact pq s) : Intact pq (finishStep fn tag status flags result bound s) := by
  unfold finishStep
  repeat' first | with_reducible assumption | with_reducible apply post_intact

theorem interim_intact {pq : List Instr} (fn tag status : Nat) (s : State) (hI : Intact pq s) : Intact pq (interim fn tag status s) := by
  unfold interim
  repeat' first | with_reducible assumption | with_reducible apply post_intact

theorem notAvailable_intact {pq : List Instr} (fn tag family : Nat) (s : State) (hI : Intact pq s) : Intact pq (notAvailable fn tag family s) := by
  unfold notAvailable
  repeat' first | with_reducible assumption | fail_if_no_progress with_reducible apply Intact.rebuild

theorem releaseGoPadded_intact {pq : List Instr}  (x0 : List (Nat × Nat × Cpl)) (s : State) (hI : Intact pq s) : Intact pq (releaseGoPadded  x0 s) := by
  fun_induction releaseGoPadded  x0 s
  all_goals (repeat' first | with_reducible assumption | with_reducible refine (‹Intact _ _ → Intact _ _› : _) ?_ | with_reducible apply post_intact | fail_if_no_progress with_reducible apply Intact.rebuild)

theorem releasePadded_intact {pq : List Instr} (s : State) (hI : Intact pq s) : Intact pq (releasePadded s) := by
  unfold releasePadded
  repeat' first | with_reducible assumption | with_reducible apply releaseGoPadded_intact | fail_if_no_progress with_reducible apply Intact.rebuild

theorem hostWriteGo_intact {pq : List Instr} (fn : Nat) (x0 : Nat) (x1 : Nat) (x2 : Bytes) (s : State) (hI : Intact pq s) : Intact pq (hostWriteGo fn x0 x1 x2 s) := by
  fun_induction hostWriteGo fn x0 x1 x2 s
  all_goals (repeat' first | with_reducible assumption | with_reducible refine (‹Intact _ _ → Intact _ _› : _) ?_ | with_reducible apply State.emit_intact)

theorem hostWrite_intact {pq : List Instr} (fn addr : Nat) (bs : Bytes) (s : State) (hI : Intact pq s) : Intact pq (hostWrite fn addr bs s) := by
  unfold hostWrite
  repeat' first | with_reducible assumption | with_reducible apply hostWriteGo_intact | with_reducible apply Intact.cond | intro _

/-! ## Machine/Maint.lean -/

theorem declareAct_intact {pq : List Instr} (kind : ActKind) (res : List Res) (tag : Option Nat) (arg : Nat) (s : State) (hI : Intact pq s) : Intact pq (declareAct kind res tag arg s) := by
  unfold declareAct
  repeat' first | with_reducible assumption | fail_if_no_progress with_reducible apply Intact.rebuild

theorem startAct_intact {pq : List Instr} (id : Nat) (endBy : Option Nat) (s : State) (hI : Intact pq s) : Intact pq (startAct id endBy s) := by
  unfold startAct
  repeat' first | with_reducible assumption | fail_if_no_progress with_reducible apply Intact.rebuild

theorem endAct_intact {pq : List Instr} (id : Nat) (s : State) (hI : Intact pq s) : Intact pq (endAct id s) := by
  unfold endAct
  repeat' first | with_reducible assumption | fail_if_no_progress with_reducible apply Intact.rebuild

/-! ## Machine/Lines.lean -/

theorem State.setPte_intact {pq : List Instr} (s : State) (key : Nat) (e : Pte) (hI : Intact pq s) : Intact pq (State.setPte s key e) := by
  unfold State.setPte
  repeat' first | with_reducible assumption | fail_if_no_progress with_reducible apply Intact.rebuild

theorem sendToRetirement_intact {pq : List Instr} (part frame : Nat) (s : State) (hI : Intact pq s) : Intact pq (sendToRetirement part frame s) := by
  unfold sendToRetirement
  repeat' first | with_reducible assumption | with_reducible apply declareAct_intact | split

theorem noteCorrections_intact {pq : List Instr} (part line : Nat) (f : LineFind) (s : State) (hI : Intact pq s) : Intact pq (noteCorrections part line f s) := by
  unfold noteCorrections
  repeat' first | with_reducible assumption | with_reducible apply forEach_intact | with_reducible apply sendToRetirement_intact | with_reducible apply Intact.cond | fail_if_no_progress with_reducible apply Intact.rebuild | intro _

theorem markRekey_intact {pq : List Instr} (inst key : Nat) (s : State) (hI : Intact pq s) : Intact pq (markRekey inst key s) := by
  unfold markRekey
  repeat' first | with_reducible assumption | with_reducible apply declareAct_intact | split

theorem recordRead_intact {pq : List Instr} (base : Bool) (inst key part line page : Nat) (f : LineFind) (r : LineRead) (s : State) (hI : Intact pq s) : Intact pq (recordRead base inst key part line page f r s) := by
  unfold recordRead
  repeat' first | with_reducible assumption | with_reducible apply State.setLine_intact | with_reducible apply raiseDev_intact | with_reducible apply raise_intact | with_reducible apply noteCorrections_intact | with_reducible apply sendToRetirement_intact | with_reducible apply markRekey_intact | with_reducible apply Intact.cond | intro _

theorem readStored_intact {pq : List Instr} (inst key : Nat) (e : Pte) (off ll : Nat) (f : LineFind) (s : State) (hI : Intact pq s) : Intact pq (readStored inst key e off ll f s).2 := by
  unfold readStored
  repeat' first | with_reducible assumption | with_reducible apply raiseDev_intact | with_reducible apply raise_intact | with_reducible apply recordRead_intact | split

theorem readStoredRun_intact {pq : List Instr} (inst key : Nat) (e : Pte) (ll0 : Nat) (finds : List LineFind) (n o : Nat) (s : State) (h : Intact pq s) : Intact pq (readStoredRun inst key e ll0 finds n o s).2.2 := by
  fun_induction readStoredRun inst key e ll0 finds n o s
  all_goals (repeat' first | with_reducible assumption | with_reducible refine (‹Intact _ _ → Intact _ _› : _) ?_ | with_reducible apply readStored_intact | with_reducible refine Intact.snd (by assumption) ?_ | with_reducible refine Intact.thd (by assumption) ?_)

theorem readPacked_intact {pq : List Instr} (inst key : Nat) (e : Pte) (ll0 b : Nat) (finds : List LineFind) (s : State) (hI : Intact pq s) : Intact pq (readPacked inst key e ll0 b finds s).2 := by
  unfold readPacked
  try dsimp only
  repeat' first | with_reducible assumption | with_reducible apply readStoredRun_intact | with_reducible apply raiseDev_intact | with_reducible apply raise_intact | split

theorem readLine_intact {pq : List Instr} (inst key : Nat) (e : Pte) (la : Nat) (f : LineFind) (s : State) (hI : Intact pq s) : Intact pq (readLine inst key e la f s).2 := by
  unfold readLine
  try dsimp only
  repeat' first | with_reducible assumption | with_reducible apply readPacked_intact | with_reducible apply readStored_intact | split | with_reducible refine Intact.snd (by assumption) ?_

theorem takeMap_intact {pq : List Instr} (inst : Nat) (s : State) (hI : Intact pq s) : Intact pq (takeMap inst s).2.2 := by
  unfold takeMap
  try dsimp only
  repeat' first | with_reducible assumption | with_reducible apply State.updInst_intact | split

theorem ensureRekey_intact {pq : List Instr} (inst key : Nat) (s : State) (hI : Intact pq s) : Intact pq (ensureRekey inst key s) := by
  unfold ensureRekey
  try dsimp only
  repeat' first | with_reducible assumption | with_reducible apply takeMap_intact | split | fail_if_no_progress with_reducible apply Intact.rebuild

theorem putLine_intact {pq : List Instr} (inst key : Nat) (e : Pte) (part line ll : Nat) (l : Line) (data : Bytes) (s : State) (hI : Intact pq s) : Intact pq (putLine inst key e part line ll l data s) := by
  unfold putLine
  repeat' first | with_reducible assumption | with_reducible apply State.setLine_intact | with_reducible apply markRekey_intact | with_reducible apply Intact.cond | intro _

theorem waitRekey_intact {pq : List Instr} (inst key page : Nat) (s : State) (hI : Intact pq s) : Intact pq (waitRekey inst key page s) := by
  unfold waitRekey
  repeat' first | with_reducible assumption | with_reducible apply ensureRekey_intact | with_reducible apply markRekey_intact | with_reducible apply raise_intact

theorem writeLine_intact {pq : List Instr} (inst key : Nat) (e : Pte) (la o : Nat) (bs : Bytes) (f : LineFind) (s : State) (hI : Intact pq s) : Intact pq (writeLine inst key e la o bs f s).2 := by
  unfold writeLine
  try dsimp only
  repeat' first | with_reducible assumption | with_reducible apply raise_intact | with_reducible apply noteCorrections_intact | with_reducible apply waitRekey_intact | with_reducible apply markRekey_intact | with_reducible apply State.setLine_intact | with_reducible apply putLine_intact | split

theorem rekeyLine_intact {pq : List Instr} (inst key : Nat) (e : Pte) (r : RekeyRec) (off ll : Nat) (f : LineFind) (s : State) (hI : Intact pq s) : Intact pq (rekeyLine inst key e r off ll f s) := by
  unfold rekeyLine
  try dsimp only
  repeat' first | with_reducible assumption | with_reducible apply readStored_intact | with_reducible apply State.setLine_intact | split

theorem readRange_intact {pq : List Instr} (inst : Nat) (finds : List LineFind) (n k la : Nat) (s : State) (h : Intact pq s) : Intact pq (readRange inst finds n k la s).2 := by
  fun_induction readRange inst finds n k la s
  all_goals (repeat' first | with_reducible assumption | with_reducible refine (‹Intact _ _ → Intact _ _› : _) ?_ | with_reducible apply readLine_intact | with_reducible refine Intact.snd (by assumption) ?_)

theorem writeRange_intact {pq : List Instr} (inst : Nat) (finds : List LineFind) (n k la : Nat) (bs : Bytes) (s : State) (h : Intact pq s) : Intact pq (writeRange inst finds n k la bs s).2 := by
  fun_induction writeRange inst finds n k la bs s
  all_goals (repeat' first | with_reducible assumption | with_reducible refine (‹Intact _ _ → Intact _ _› : _) ?_ | with_reducible apply writeLine_intact | with_reducible refine Intact.snd (by assumption) ?_)

theorem writeBytes_intact {pq : List Instr} (inst : Nat) (finds : List LineFind) (n k la : Nat) (bs : Bytes) (s : State) (h : Intact pq s) : Intact pq (writeBytes inst finds n k la bs s).2 := by
  fun_induction writeBytes inst finds n k la bs s
  all_goals (repeat' first | with_reducible assumption | with_reducible refine (‹Intact _ _ → Intact _ _› : _) ?_ | with_reducible apply writeLine_intact | with_reducible refine Intact.snd (by assumption) ?_)

theorem readBytes_intact {pq : List Instr} (inst la n : Nat) (finds : List LineFind) (s : State) (hI : Intact pq s) : Intact pq (readBytes inst la n finds s).2 := by
  unfold readBytes
  try dsimp only
  repeat' first | with_reducible assumption | with_reducible apply readRange_intact | split

theorem zeroPage_intact {pq : List Instr} (e : Pte) (frames : Nat) (s : State) (h : Intact pq s) : Intact pq (zeroPage e frames s) := by
  unfold zeroPage
  split
  · exact h
  · exact Intact.dropLines _ h rfl rfl rfl

theorem unmapPage_intact {pq : List Instr} (key : Nat) (s : State) (hI : Intact pq s) : Intact pq (unmapPage key s) := by
  unfold unmapPage
  repeat' first | with_reducible assumption | with_reducible apply zeroPage_intact | with_reducible apply Intact.cond | fail_if_no_progress with_reducible apply Intact.rebuild | intro _

/-! ## Machine/Link.lean -/

theorem freeBuffer_intact {pq : List Instr} (port pool : Nat) (s : State) (hI : Intact pq s) : Intact pq (freeBuffer port pool s) := by
  unfold freeBuffer
  repeat' first | with_reducible assumption | with_reducible apply State.updPort_intact

theorem transmit_intact {pq : List Instr} (port : Nat) (t : TxFrame) (s : State) (hI : Intact pq s) : Intact pq (transmit port t s) := by
  unfold transmit
  repeat' first | with_reducible assumption | with_reducible apply State.updPort_intact | with_reducible apply State.emit_intact | with_reducible apply freeBuffer_intact | split

theorem drainPortGo_intact {pq : List Instr} (port : Nat) (x0 : Nat) (s : State) (hI : Intact pq s) : Intact pq (drainPortGo port x0 s) := by
  fun_induction drainPortGo port x0 s
  all_goals (repeat' first | with_reducible assumption | with_reducible refine (‹Intact _ _ → Intact _ _› : _) ?_ | with_reducible apply transmit_intact | with_reducible apply State.updPort_intact)

theorem drainPort_intact {pq : List Instr} (port : Nat) (s : State) (hI : Intact pq s) : Intact pq (drainPort port s) := by
  unfold drainPort
  repeat' first | with_reducible assumption | with_reducible apply drainPortGo_intact

theorem sendFrame_intact {pq : List Instr} (port : Nat) (h : Hdr) (payload : Bytes) (holds : Option (Nat × Nat)) (s : State) (hI : Intact pq s) : Intact pq (sendFrame port h payload holds s) := by
  unfold sendFrame
  repeat' first | with_reducible assumption | with_reducible apply drainPort_intact | with_reducible apply State.updPort_intact

theorem sendControl_intact {pq : List Instr} (port typ : Nat) (payload : Bytes) (s : State) (hI : Intact pq s) : Intact pq (sendControl port typ payload s) := by
  unfold sendControl
  repeat' first | with_reducible assumption | with_reducible apply sendFrame_intact

theorem sendTo_intact {pq : List Instr} (dev : Nat) (h : Hdr) (payload : Bytes) (s : State) (hI : Intact pq s) : Intact pq (sendTo dev h payload s) := by
  unfold sendTo
  repeat' first | with_reducible assumption | with_reducible apply sendFrame_intact | split

theorem sendE2eAck_intact {pq : List Instr} (dev flow cls seq epoch status : Nat) (s : State) (hI : Intact pq s) : Intact pq (sendE2eAck dev flow cls seq epoch status s) := by
  unfold sendE2eAck
  repeat' first | with_reducible assumption | with_reducible apply sendTo_intact

theorem State.updSrc_intact {pq : List Instr} (s : State) (key : Nat) (f : FlowSrc → FlowSrc) (hI : Intact pq s) : Intact pq (State.updSrc s key f) := by
  unfold State.updSrc
  repeat' first | with_reducible assumption | fail_if_no_progress with_reducible apply Intact.rebuild

theorem countTags_intact {pq : List Instr} (port : Nat) (s : State) (hI : Intact pq s) : Intact pq (countTags port s) := by
  unfold countTags
  repeat' first | with_reducible assumption | with_reducible apply State.updPort_intact

theorem releaseRates_intact {pq : List Instr} (inst : Nat) (s : State) (hI : Intact pq s) : Intact pq (releaseRates inst s) := by
  unfold releaseRates
  repeat' first | with_reducible assumption | fail_if_no_progress with_reducible apply Intact.rebuild

theorem drainFlowGo_intact {pq : List Instr} (key : Nat) (x0 : Nat) (s : State) (hI : Intact pq s) : Intact pq (drainFlowGo key x0 s) := by
  fun_induction drainFlowGo key x0 s
  all_goals (repeat' first | with_reducible assumption | with_reducible refine (‹Intact _ _ → Intact _ _› : _) ?_ | with_reducible apply State.updSrc_intact | with_reducible apply sendFrame_intact | with_reducible apply countTags_intact)

theorem drainFlow_intact {pq : List Instr} (key : Nat) (s : State) (hI : Intact pq s) : Intact pq (drainFlow key s) := by
  unfold drainFlow
  repeat' first | with_reducible assumption | with_reducible apply drainFlowGo_intact

theorem pushFlow_intact {pq : List Instr} (key : Nat) (frames : List (Hdr × Bytes)) (s : State) (hI : Intact pq s) : Intact pq (pushFlow key frames s) := by
  unfold pushFlow
  repeat' first | with_reducible assumption | with_reducible apply drainFlow_intact | with_reducible apply State.updSrc_intact

theorem resendAll_intact {pq : List Instr} (key : Nat) (s : State) (hI : Intact pq s) : Intact pq (resendAll key s) := by
  unfold resendAll
  repeat' first | with_reducible assumption | with_reducible apply forEach_intact | with_reducible apply sendFrame_intact | with_reducible apply State.updSrc_intact | intro _

theorem reroute_intact {pq : List Instr} (key : Nat) (s : State) (hI : Intact pq s) : Intact pq (reroute key s) := by
  unfold reroute
  try dsimp only
  repeat' first | with_reducible assumption | with_reducible apply State.updSrc_intact | with_reducible apply drainFlow_intact | with_reducible apply resendAll_intact | with_reducible apply raise_intact | with_reducible apply countTags_intact | split

theorem rerouteWhere_intact {pq : List Instr} (test : FlowSrc → Bool) (s : State) (hI : Intact pq s) : Intact pq (rerouteWhere test s) := by
  unfold rerouteWhere
  repeat' first | with_reducible assumption | with_reducible apply forEach_intact | with_reducible apply reroute_intact | with_reducible apply Intact.cond | intro _

theorem topoChanged_intact {pq : List Instr} (dev : Nat) (s : State) (hI : Intact pq s) : Intact pq (topoChanged dev s) := by
  unfold topoChanged
  repeat' first | with_reducible assumption | with_reducible apply State.updSys_intact | with_reducible apply raiseDev_intact | with_reducible apply rerouteWhere_intact | fail_if_no_progress with_reducible apply Intact.rebuild

theorem floodTopo_intact {pq : List Instr} (s : State) (hI : Intact pq s) : Intact pq (floodTopo s) := by
  unfold floodTopo
  repeat' first | with_reducible assumption | with_reducible apply forEach_intact | with_reducible apply sendControl_intact | with_reducible apply Intact.cond | intro _

theorem ownTopoChange_intact {pq : List Instr} (s : State) (hI : Intact pq s) : Intact pq (ownTopoChange s) := by
  unfold ownTopoChange
  repeat' first | with_reducible assumption | with_reducible apply floodTopo_intact | with_reducible apply topoChanged_intact | with_reducible apply Intact.cond | intro _

theorem sendPathDown_intact {pq : List Instr} (h : Hdr) (s : State) (hI : Intact pq s) : Intact pq (sendPathDown h s) := by
  unfold sendPathDown
  repeat' first | with_reducible assumption | with_reducible apply sendTo_intact | with_reducible apply Intact.cond | intro _

theorem portDown_intact {pq : List Instr} (port reason : Nat) (s : State) (hI : Intact pq s) : Intact pq (portDown port reason s) := by
  unfold portDown
  try dsimp only
  repeat' first | with_reducible assumption | with_reducible apply State.updPort_intact | with_reducible apply raiseDev_intact | with_reducible apply ownTopoChange_intact | with_reducible apply rerouteWhere_intact | with_reducible apply forEach_intact | with_reducible apply freeBuffer_intact | with_reducible apply sendPathDown_intact | split | intro _

theorem sendHail_intact {pq : List Instr} (port state : Nat) (s : State) (hI : Intact pq s) : Intact pq (sendHail port state s) := by
  unfold sendHail
  repeat' first | with_reducible assumption | with_reducible apply sendControl_intact | with_reducible apply State.updPort_intact

theorem hailStopping_intact {pq : List Instr} (ports : Nat → Bool) (s : State) (hI : Intact pq s) : Intact pq (hailStopping ports s) := by
  unfold hailStopping
  repeat' first | with_reducible assumption | with_reducible apply forEach_intact | with_reducible apply sendHail_intact | with_reducible apply Intact.cond | intro _

end Sys2Proof.Machine
end

