-- ==== Sys2Proof/Laws/IntactSteps.lean ====
section
/-! SUPPORT. Operations, verdicts, steps, residency and tasks: each keeps the queue and every memory (Intact). -/

namespace Sys2Proof.Machine

set_option maxRecDepth 4000

/-! ## Machine/Ops.lean -/

theorem sramWrite_intact {pq : List Instr} (core a : Nat) (bs : Bytes) (s : State) (hI : Intact pq s) : Intact pq (sramWrite core a bs s) := by
  unfold sramWrite
  repeat' first | with_reducible assumption | with_reducible apply State.updCore_intact | with_reducible apply Core.store_memWf

theorem writeFor_intact {pq : List Instr} (bubble : Bool) (core a : Nat) (bs : Bytes) (poisoned : Bool) (s : State) (h : Intact pq s) : Intact pq (writeFor bubble core a bs poisoned s) := by
  unfold writeFor
  refine State.updCore_intact _ _ h (fun c hc => ?_)
  split
  · next sp hs =>
    split
    · exact Core.memWf_some (sp := _) rfl (Core.memWf_sram (c := c) hc) (Mem.wf_write _ _ _ (Core.memWf_spilled hc hs))
    · exact Core.store_memWf _ _ _ hc
  · exact Core.store_memWf _ _ _ hc

theorem State.updStep_intact {pq : List Instr} (s : State) (fn tag : Nat) (f : Step → Step) (hI : Intact pq s) : Intact pq (State.updStep s fn tag f) := by
  unfold State.updStep
  repeat' first | with_reducible assumption | with_reducible apply State.updInst_intact

theorem updTaskStep_intact {pq : List Instr} (core : Nat) (f : Step → Step) (s : State) (hI : Intact pq s) : Intact pq (updTaskStep core f s) := by
  unfold updTaskStep
  repeat' first | with_reducible assumption | with_reducible apply State.updStep_intact | split

theorem markNonfinite_intact {pq : List Instr} (core : Nat) (on : Bool) (s : State) (hI : Intact pq s) : Intact pq (markNonfinite core on s) := by
  unfold markNonfinite
  repeat' first | with_reducible assumption | with_reducible apply updTaskStep_intact | with_reducible apply Intact.cond | intro _

theorem markLedger_intact {pq : List Instr} (core : Nat) (on : Bool) (s : State) (hI : Intact pq s) : Intact pq (markLedger core on s) := by
  unfold markLedger
  repeat' first | with_reducible assumption | with_reducible apply updTaskStep_intact | with_reducible apply Intact.cond | intro _

theorem markArrival_intact {pq : List Instr} (inst : Nat) (bubble on : Bool) (s : State) (hI : Intact pq s) : Intact pq (markArrival inst bubble on s) := by
  unfold markArrival
  repeat' first | with_reducible assumption | with_reducible apply State.updInst_intact | with_reducible apply Intact.cond | intro _

theorem ledgerInto_intact {pq : List Instr} (inst : Nat) (bubble : Bool) (core a : Nat) (bs : Bytes) (flags : Bool) (s : State) (hI : Intact pq s) : Intact pq (ledgerInto inst bubble core a bs flags s) := by
  unfold ledgerInto
  repeat' first | with_reducible assumption | with_reducible apply markArrival_intact | with_reducible apply writeFor_intact

theorem updRun_intact {pq : List Instr} (inst coll : Nat) (f : CollRun → CollRun) (s : State) (hI : Intact pq s) : Intact pq (updRun inst coll f s) := by
  unfold updRun
  repeat' first | with_reducible assumption | fail_if_no_progress with_reducible apply Intact.rebuild

theorem ensureColl_intact {pq : List Instr} (inst : Nat) (c : Coll) (s : State) (hI : Intact pq s) : Intact pq (ensureColl inst c s) := by
  unfold ensureColl
  repeat' first | with_reducible assumption | with_reducible apply writeFor_intact | split | fail_if_no_progress with_reducible apply Intact.rebuild

theorem collPut_intact {pq : List Instr} (inst : Nat) (c : Coll) (member off : Nat) (bs : Bytes) (flags : Bool) (s : State) (hI : Intact pq s) : Intact pq (collPut inst c member off bs flags s) := by
  unfold collPut
  repeat' first | with_reducible assumption | with_reducible apply ledgerInto_intact | with_reducible apply writeFor_intact | with_reducible apply updRun_intact | with_reducible apply Intact.cond | intro _

theorem sendParts_intact {pq : List Instr} (inst : Nat) (c : Coll) (src : Bytes) (x0 : List (Nat × Nat × Nat)) (x1 : Nat) (s : State) (hI : Intact pq s) : Intact pq (sendParts inst c src x0 x1 s) := by
  fun_induction sendParts inst c src x0 x1 s
  all_goals (repeat' first | with_reducible assumption | with_reducible refine (‹Intact _ _ → Intact _ _› : _) ?_ | with_reducible apply collPut_intact | with_reducible apply pushFlow_intact | with_reducible apply Intact.cond | intro _)

theorem startColl.go_intact {pq : List Instr} (inst : Nat) (c : Coll) (s : State) (hI : Intact pq s) : Intact pq (startColl.go inst c s) := by
  unfold startColl.go
  repeat' first | with_reducible assumption | with_reducible apply updRun_intact | with_reducible apply ensureColl_intact | with_reducible apply sendParts_intact

theorem startColl_intact {pq : List Instr} (inst : Nat) (c : Coll) (s : State) (hI : Intact pq s) : Intact pq (startColl inst c s) := by
  unfold startColl
  repeat' first | with_reducible assumption | with_reducible apply startColl.go_intact | split

theorem declareMoves_intact {pq : List Instr} (inst : Nat) (r : Region) (s : State) (hI : Intact pq s) : Intact pq (declareMoves inst r s) := by
  unfold declareMoves
  repeat' first | with_reducible assumption | with_reducible apply forEach_intact | with_reducible apply declareAct_intact | with_reducible apply Intact.cond | intro _

theorem releaseRegion_intact {pq : List Instr} (inst : Nat) (r : Region) (s : State) (hI : Intact pq s) : Intact pq (releaseRegion inst r s) := by
  unfold releaseRegion
  repeat' first | with_reducible assumption | with_reducible apply forEach_intact | with_reducible apply unmapPage_intact | intro _

theorem afterAdd_intact {pq : List Instr} (inst obj : Nat) (s : State) (hI : Intact pq s) : Intact pq (afterAdd inst obj s) := by
  unfold afterAdd
  repeat' first | with_reducible assumption | with_reducible apply forEach_intact | with_reducible apply startColl_intact | with_reducible apply declareMoves_intact | with_reducible apply releaseRegion_intact | split | intro _

theorem addObj_intact {pq : List Instr} (inst obj n : Nat) (s : State) (hI : Intact pq s) : Intact pq (addObj inst obj n s).1 := by
  unfold addObj
  repeat' first | with_reducible assumption | with_reducible apply State.updObj_intact | with_reducible apply raise_intact | with_reducible apply afterAdd_intact | with_reducible apply Intact.cond | intro _

theorem signalKind_intact {pq : List Instr} (inst obj kind n : Nat) (s : State) (hI : Intact pq s) : Intact pq (signalKind inst obj kind n s).1 := by
  unfold signalKind
  repeat' first | with_reducible assumption | with_reducible apply addObj_intact | with_reducible apply State.updObj_intact | split

theorem carried_intact {pq : List Instr} (inst obj : Nat) (s : State) (hI : Intact pq s) : Intact pq (carried inst obj s).1 := by
  unfold carried
  repeat' first | with_reducible assumption | with_reducible apply signalKind_intact | split

theorem pace_intact {pq : List Instr} (obj : Nat) (s : State) (hI : Intact pq s) : Intact pq (pace obj s) := by
  unfold pace
  repeat' first | with_reducible assumption | with_reducible apply State.updObj_intact

theorem renewRealTime_intact {pq : List Instr} (inst : Nat) (s : State) (hI : Intact pq s) : Intact pq (renewRealTime inst s) := by
  unfold renewRealTime
  repeat' first | with_reducible assumption | with_reducible apply forEach_intact | with_reducible apply State.updObj_intact | split | intro _

theorem renewAll_intact {pq : List Instr} (inst : Nat) (s : State) (hI : Intact pq s) : Intact pq (renewAll inst s) := by
  unfold renewAll
  repeat' first | with_reducible assumption | with_reducible apply forEach_intact | with_reducible apply State.updObj_intact | split | intro _

/-! ## Machine/Verdict.lean -/

theorem State.updJob_intact {pq : List Instr} (s : State) (inst id : Nat) (f : Job → Job) (hI : Intact pq s) : Intact pq (State.updJob s inst id f) := by
  unfold State.updJob
  repeat' first | with_reducible assumption | with_reducible apply State.updInst_intact

theorem stateWrite_intact {pq : List Instr} (inst la : Nat) (bs : Bytes) (s : State) (hI : Intact pq s) : Intact pq (stateWrite inst la bs s) := by
  unfold stateWrite
  repeat' first | with_reducible assumption | with_reducible apply writeBytes_intact

theorem sendVerdict_intact {pq : List Instr} (inst dev : Nat) (payload : Bytes) (s : State) (hI : Intact pq s) : Intact pq (sendVerdict inst dev payload s) := by
  unfold sendVerdict
  repeat' first | with_reducible assumption | with_reducible apply pushFlow_intact | with_reducible apply sendTo_intact | split

theorem endStep_intact {pq : List Instr} (inst tag status : Nat) (result : Nat) (s : State) (hI : Intact pq s) : Intact pq (endStep inst tag status result s) := by
  unfold endStep
  repeat' first | with_reducible assumption | with_reducible apply State.updInst_intact | with_reducible apply finishStep_intact | split

theorem resend_intact {pq : List Instr} (r : Rdma) (s : State) (hI : Intact pq s) : Intact pq (resend r s) := by
  unfold resend
  repeat' first | with_reducible assumption | with_reducible apply State.emit_intact

theorem sendRdma_intact {pq : List Instr} (id : Nat) (s : State) (hI : Intact pq s) : Intact pq (sendRdma id s) := by
  unfold sendRdma
  repeat' first | with_reducible assumption | with_reducible apply resend_intact | split | fail_if_no_progress with_reducible apply Intact.rebuild

theorem pumpRdma_intact {pq : List Instr} (port : Nat) (s : State) (hI : Intact pq s) : Intact pq (pumpRdma port s) := by
  unfold pumpRdma
  repeat' first | with_reducible assumption | with_reducible apply forEach_intact | with_reducible apply sendRdma_intact | with_reducible apply Intact.cond | intro _

theorem rdmaIssue_intact {pq : List Instr} (inst : Nat) (h : Bytes) (write : Bool) (use : RdmaFor) (off : Nat) (data : Bytes) (want : Nat) (s : State) (hI : Intact pq s) : Intact pq (rdmaIssue inst h write use off data want s) := by
  unfold rdmaIssue
  repeat' first | with_reducible assumption | with_reducible apply sendRdma_intact | fail_if_no_progress with_reducible apply Intact.rebuild

theorem refetch_intact {pq : List Instr} (r : Rdma) (s : State) (hI : Intact pq s) : Intact pq (refetch r s) := by
  unfold refetch
  repeat' first | with_reducible assumption | with_reducible apply sendRdma_intact | fail_if_no_progress with_reducible apply Intact.rebuild

theorem sealBytes_intact {pq : List Instr} (key : BitVec 256) (kind object version : Nat) (bs : Bytes) (s : State) (hI : Intact pq s) : Intact pq (sealBytes key kind object version bs s).2 := by
  unfold sealBytes
  repeat' first | with_reducible assumption | with_reducible apply State.draw_intact

theorem exportPump_intact {pq : List Instr} (inst job : Nat) (s : State) (hI : Intact pq s) : Intact pq (exportPump inst job s) := by
  unfold exportPump
  repeat' first | with_reducible assumption | with_reducible apply sealBytes_intact | with_reducible apply rdmaIssue_intact | with_reducible apply hostWrite_intact | with_reducible apply State.updJob_intact | split

theorem commitTensor_intact {pq : List Instr} (inst : Nat) (efmt : Fmt) (t : Tensor) (r : SweepRes) (s : State) (hI : Intact pq s) : Intact pq (commitTensor inst efmt t r s) := by
  unfold commitTensor
  repeat' first | with_reducible assumption | with_reducible apply stateWrite_intact

theorem State.updAdapter_intact {pq : List Instr} (s : State) (inst id : Nat) (f : Adapter → Adapter) (hI : Intact pq s) : Intact pq (State.updAdapter s inst id f) := by
  unfold State.updAdapter
  repeat' first | with_reducible assumption | with_reducible apply State.updInst_intact

theorem convertTensor_intact {pq : List Instr} (inst : Nat) (a : Adapter) (ts : List Tensor) (bank : Nat) (b : Nat) (t : Tensor) (s : State) (hI : Intact pq s) : Intact pq (convertTensor inst a ts bank b t s).2 := by
  unfold convertTensor
  repeat' first | with_reducible assumption | with_reducible apply stateWrite_intact | with_reducible apply State.updAdapter_intact | with_reducible apply Intact.cond | intro _

theorem convertWorking_intact {pq : List Instr} (inst job : Nat) (s : State) (hI : Intact pq s) : Intact pq (convertWorking inst job s) := by
  unfold convertWorking
  try dsimp only
  repeat' first | with_reducible assumption | with_reducible apply forEach_intact | with_reducible apply convertTensor_intact | with_reducible apply State.updJob_intact | with_reducible apply State.updInst_intact | with_reducible apply State.updAdapter_intact | split | intro _

theorem seedHistories_intact {pq : List Instr} (inst : Nat) (p : Step) (s : State) (hI : Intact pq s) : Intact pq (seedHistories inst p s) := by
  unfold seedHistories
  repeat' first | with_reducible assumption | with_reducible apply forEach_intact | with_reducible apply State.updAdapter_intact | with_reducible apply Intact.cond | intro _

theorem commitJob_intact {pq : List Instr} (inst job : Nat) (s : State) (hI : Intact pq s) : Intact pq (commitJob inst job s) := by
  unfold commitJob
  repeat' first | with_reducible assumption | with_reducible apply State.updJob_intact | with_reducible apply forEach_intact | with_reducible apply commitTensor_intact | with_reducible apply seedHistories_intact | with_reducible apply State.updStep_intact | split | intro _

theorem clearVotes_intact {pq : List Instr} (inst job : Nat) (s : State) (hI : Intact pq s) : Intact pq (clearVotes inst job s) := by
  unfold clearVotes
  repeat' first | with_reducible assumption | with_reducible apply State.updJob_intact

theorem skipJob_intact {pq : List Instr} (inst job : Nat) (byte : BitVec 8) (s : State) (hI : Intact pq s) : Intact pq (skipJob inst job byte s) := by
  unfold skipJob
  repeat' first | with_reducible assumption | with_reducible apply raise_intact | with_reducible apply hostWrite_intact | with_reducible apply State.updJob_intact | with_reducible apply State.updInst_intact | with_reducible apply endStep_intact | split

theorem replaceExport_intact {pq : List Instr} (inst job : Nat) (s : State) (hI : Intact pq s) : Intact pq (replaceExport inst job s) := by
  unfold replaceExport
  repeat' first | with_reducible assumption | with_reducible apply State.updJob_intact | with_reducible apply finish_intact | split

theorem failExport_intact {pq : List Instr} (inst job status : Nat) (s : State) (hI : Intact pq s) : Intact pq (failExport inst job status s) := by
  unfold failExport
  repeat' first | with_reducible assumption | with_reducible apply State.updJob_intact | with_reducible apply replaceExport_intact | with_reducible apply finish_intact | with_reducible apply raise_intact | split | fail_if_no_progress with_reducible apply Intact.rebuild

theorem completeCommit_intact {pq : List Instr} (inst job : Nat) (s : State) (hI : Intact pq s) : Intact pq (completeCommit inst job s) := by
  unfold completeCommit
  repeat' first | with_reducible assumption | with_reducible apply failExport_intact | with_reducible apply hostWrite_intact | with_reducible apply State.updJob_intact | with_reducible apply State.updInst_intact | with_reducible apply exportPump_intact | with_reducible apply endStep_intact | split

theorem stepVerdict_intact {pq : List Instr} (inst job : Nat) (byte : BitVec 8) (s : State) (hI : Intact pq s) : Intact pq (stepVerdict inst job byte s) := by
  unfold stepVerdict
  repeat' first | with_reducible assumption | with_reducible apply clearVotes_intact | with_reducible apply State.updStep_intact | with_reducible apply commitJob_intact | with_reducible apply skipJob_intact | split

theorem putState_intact {pq : List Instr} (inst : Nat) (t : Tensor) (b : Nat) (bs : Bytes) (s : State) (hI : Intact pq s) : Intact pq (putState inst t b bs s) := by
  unfold putState
  repeat' first | with_reducible assumption | with_reducible apply stateWrite_intact | with_reducible apply Intact.cond | intro _

theorem freeStatePage_intact {pq : List Instr} (inst job : Nat) (t : Tensor) (la : Nat) (s : State) (hI : Intact pq s) : Intact pq (freeStatePage inst job t la s) := by
  unfold freeStatePage
  repeat' first | with_reducible assumption | with_reducible apply unmapPage_intact | with_reducible apply stateWrite_intact | with_reducible apply Intact.cond | intro _

theorem freeStates_intact {pq : List Instr} (inst job : Nat) (ts : List Tensor) (s : State) (hI : Intact pq s) : Intact pq (freeStates inst job ts s) := by
  unfold freeStates
  repeat' first | with_reducible assumption | with_reducible apply forEach_intact | with_reducible apply freeStatePage_intact | intro _

theorem endExport_intact {pq : List Instr} (inst : Nat) (j : Job) (s : State) (hI : Intact pq s) : Intact pq (endExport inst j s) := by
  unfold endExport
  repeat' first | with_reducible assumption | with_reducible apply finish_intact | split

theorem keepReshard_intact {pq : List Instr} (inst job : Nat) (r : Reshard) (s : State) (hI : Intact pq s) : Intact pq (keepReshard inst job r s) := by
  unfold keepReshard
  repeat' first | with_reducible assumption | with_reducible apply endExport_intact | with_reducible apply finish_intact | with_reducible apply freeStates_intact | with_reducible apply State.updInst_intact | with_reducible apply forEach_intact | with_reducible apply putState_intact | with_reducible apply State.updJob_intact | with_reducible apply convertWorking_intact | split | intro _

theorem applyVerdict_intact {pq : List Instr} (inst job : Nat) (byte : BitVec 8) (s : State) (hI : Intact pq s) : Intact pq (applyVerdict inst job byte s) := by
  unfold applyVerdict
  repeat' first | with_reducible assumption | with_reducible apply stepVerdict_intact | with_reducible apply clearVotes_intact | with_reducible apply keepReshard_intact | with_reducible apply finish_intact | with_reducible apply State.updJob_intact | split

theorem returnDown_intact {pq : List Instr} (inst : Nat) (j : Job) (byte : BitVec 8) (s : State) (hI : Intact pq s) : Intact pq (returnDown inst j byte s) := by
  unfold returnDown
  repeat' first | with_reducible assumption | with_reducible apply forEach_intact | with_reducible apply sendVerdict_intact | intro _

theorem tryVerdict_intact {pq : List Instr} (inst job : Nat) (s : State) (hI : Intact pq s) : Intact pq (tryVerdict inst job s) := by
  unfold tryVerdict
  try dsimp only
  repeat' first | with_reducible assumption | with_reducible apply applyVerdict_intact | with_reducible apply returnDown_intact | with_reducible apply sendVerdict_intact | split

theorem contribute_intact {pq : List Instr} (inst job : Nat) (byte : BitVec 8) (digest : BitVec 64) (s : State) (hI : Intact pq s) : Intact pq (contribute inst job byte digest s) := by
  unfold contribute
  repeat' first | with_reducible assumption | with_reducible apply applyVerdict_intact | with_reducible apply tryVerdict_intact | with_reducible apply State.updJob_intact | split

theorem updReshard_intact {pq : List Instr} (inst job : Nat) (f : Reshard → Reshard) (s : State) (hI : Intact pq s) : Intact pq (updReshard inst job f s) := by
  unfold updReshard
  repeat' first | with_reducible assumption | with_reducible apply State.updJob_intact

theorem contributeReshard_intact {pq : List Instr} (inst job : Nat) (failed : Bool) (s : State) (hI : Intact pq s) : Intact pq (contributeReshard inst job failed s) := by
  unfold contributeReshard
  repeat' first | with_reducible assumption | with_reducible apply contribute_intact | with_reducible apply tryVerdict_intact | with_reducible apply State.updJob_intact | split

theorem settleReshard_intact {pq : List Instr} (inst job : Nat) (s : State) (hI : Intact pq s) : Intact pq (settleReshard inst job s) := by
  unfold settleReshard
  try dsimp only
  repeat' first | with_reducible assumption | with_reducible apply contributeReshard_intact | with_reducible apply updReshard_intact | split

theorem reshardData_intact {pq : List Instr} (inst job dev : Nat) (bs : Bytes) (s : State) (hI : Intact pq s) : Intact pq (reshardData inst job dev bs s) := by
  unfold reshardData
  repeat' first | with_reducible assumption | with_reducible apply settleReshard_intact | with_reducible apply updReshard_intact

theorem sendStates_intact {pq : List Instr} (inst : Nat) (j : Job) (r : Reshard) (s : State) (hI : Intact pq s) : Intact pq (sendStates inst j r s) := by
  unfold sendStates
  try dsimp only
  repeat' first | with_reducible assumption | with_reducible apply forEach_intact | with_reducible apply State.draw_intact | with_reducible apply pushFlow_intact | split | intro _

theorem takeSet_intact {pq : List Instr} (inst job : Nat) (bs : Bytes) (s : State) (hI : Intact pq s) : Intact pq (takeSet inst job bs s) := by
  unfold takeSet
  repeat' first | with_reducible assumption | with_reducible apply contributeReshard_intact | with_reducible apply updReshard_intact | split

theorem startReshard_intact {pq : List Instr} (inst job : Nat) (s : State) (hI : Intact pq s) : Intact pq (startReshard inst job s) := by
  unfold startReshard
  try dsimp only
  repeat' first | with_reducible assumption | with_reducible apply State.updJob_intact | with_reducible apply takeSet_intact | with_reducible apply rdmaIssue_intact | with_reducible apply contributeReshard_intact | with_reducible apply sendStates_intact | split

theorem startReshards_intact {pq : List Instr} (inst : Nat) (s : State) (hI : Intact pq s) : Intact pq (startReshards inst s) := by
  unfold startReshards
  repeat' first | with_reducible assumption | with_reducible apply forEach_intact | with_reducible apply startReshard_intact | intro _

/-! ## Machine/Steps.lean -/

theorem stopCore_intact {pq : List Instr} (core : Nat) (why : StopWhy) (seq : Nat) (s : State) (hI : Intact pq s) : Intact pq (stopCore core why seq s) := by
  unfold stopCore
  repeat' first | with_reducible assumption | with_reducible apply State.updWork_intact

theorem stopCores_intact {pq : List Instr} (cores : List Nat) (why : StopWhy) (s : State) (hI : Intact pq s) : Intact pq (stopCores cores why s) := by
  unfold stopCores
  try dsimp only
  repeat' first | with_reducible assumption | with_reducible apply forEach_intact | with_reducible apply stopCore_intact | split | intro _

theorem setGap_intact {pq : List Instr} (inst : Nat) (s : State) (hI : Intact pq s) : Intact pq (setGap inst s) := by
  unfold setGap
  repeat' first | with_reducible assumption | with_reducible apply forEach_intact | with_reducible apply pushFlow_intact | with_reducible apply Intact.cond | intro _

theorem failStep.tryFail_intact {pq : List Instr} (inst : Nat) (tag : Nat) (why : StopWhy) (p : Step) (s : State) (hI : Intact pq s) : Intact pq (failStep.tryFail inst tag why p s) := by
  unfold failStep.tryFail
  repeat' first | with_reducible assumption | with_reducible apply endStep_intact | with_reducible apply State.updStep_intact | with_reducible apply applyVerdict_intact | with_reducible apply tryVerdict_intact | with_reducible apply State.updJob_intact | split

theorem failStep_intact {pq : List Instr} (inst tag : Nat) (why : StopWhy) (s : State) (hI : Intact pq s) : Intact pq (failStep inst tag why s) := by
  unfold failStep
  repeat' first | with_reducible assumption | with_reducible apply stopCores_intact | with_reducible apply State.updStep_intact | with_reducible apply failStep.tryFail_intact | with_reducible apply endStep_intact | with_reducible apply setGap_intact | split

theorem coreException_intact {pq : List Instr} (core : Nat) (g b detail : Nat) (why : StopWhy) (seq : Nat) (s : State) (hI : Intact pq s) : Intact pq (coreException core g b detail why seq s) := by
  unfold coreException
  repeat' first | with_reducible assumption | with_reducible apply stopCore_intact | with_reducible apply raise_intact | with_reducible apply failStep_intact | split

theorem descFault_intact {pq : List Instr} (core : Nat) (s : State) (hI : Intact pq s) : Intact pq (descFault core s) := by
  unfold descFault
  repeat' first | with_reducible assumption | with_reducible apply coreException_intact

theorem ticketFault_intact {pq : List Instr} (core ticket seq : Nat) (s : State) (hI : Intact pq s) : Intact pq (ticketFault core ticket seq s) := by
  unfold ticketFault
  repeat' first | with_reducible assumption | with_reducible apply coreException_intact

theorem sramFound_intact {pq : List Instr} (core : Nat) (ws : List SramFind) (s : State) (hI : Intact pq s) : Intact pq (sramFound core ws s) := by
  unfold sramFound
  repeat' first | with_reducible assumption | with_reducible apply forEach_intact | with_reducible apply State.updCore_intact | with_reducible apply raise_intact | split | exact Core.memWf_of (by assumption) rfl rfl | intro _

theorem sramFault_intact {pq : List Instr} (core addr seq : Nat) (s : State) (hI : Intact pq s) : Intact pq (sramFault core addr seq s) := by
  unfold sramFault
  repeat' first | with_reducible assumption | with_reducible apply coreException_intact

theorem translationFault_intact {pq : List Instr} (core page seq : Nat) (s : State) (hI : Intact pq s) : Intact pq (translationFault core page seq s) := by
  unfold translationFault
  repeat' first | with_reducible assumption | with_reducible apply coreException_intact

theorem clearCore_intact {pq : List Instr} (core : Nat) (s : State) (hI : Intact pq s) : Intact pq (clearCore core s) := by
  unfold clearCore
  repeat' first | with_reducible assumption | with_reducible apply State.updCore_intact | exact Core.memWf_none rfl rfl | intro _

theorem clearCores_intact {pq : List Instr} (cores : List Nat) (s : State) (hI : Intact pq s) : Intact pq (clearCores cores s) := by
  unfold clearCores
  repeat' first | with_reducible assumption | with_reducible apply forEach_intact | with_reducible apply clearCore_intact

theorem endAllSteps_intact {pq : List Instr} (inst : Nat) (status : Option Nat) (s : State) (hI : Intact pq s) : Intact pq (endAllSteps inst status s) := by
  unfold endAllSteps
  repeat' first | with_reducible assumption | with_reducible apply forEach_intact | with_reducible apply endStep_intact | with_reducible apply State.updInst_intact | split | intro _

theorem settleJobs_intact {pq : List Instr} (inst : Nat) (s : State) (hI : Intact pq s) : Intact pq (settleJobs inst s) := by
  unfold settleJobs
  repeat' first | with_reducible assumption | with_reducible apply forEach_intact | with_reducible apply convertWorking_intact | with_reducible apply State.updStep_intact | with_reducible apply failStep_intact | split | intro _

theorem wipeStall_intact {pq : List Instr} (inst : Nat) (s : State) (hI : Intact pq s) : Intact pq (wipeStall inst s) := by
  unfold wipeStall
  repeat' first | with_reducible assumption | with_reducible apply renewAll_intact | with_reducible apply clearCores_intact | with_reducible apply State.updStall_intact | split | fail_if_no_progress with_reducible apply Intact.rebuild

theorem resetStall_intact {pq : List Instr} (inst : Nat) (status : Option Nat) (s : State) (hI : Intact pq s) : Intact pq (resetStall inst status s) := by
  unfold resetStall
  repeat' first | with_reducible assumption | with_reducible apply wipeStall_intact | with_reducible apply endAllSteps_intact | with_reducible apply settleJobs_intact | split

theorem recoverStep_intact {pq : List Instr} (inst : Nat) (p : Step) (s : State) (hI : Intact pq s) : Intact pq (recoverStep inst p s) := by
  unfold recoverStep
  repeat' first | with_reducible assumption | with_reducible apply endStep_intact | split

theorem recoverStall_intact {pq : List Instr} (inst why : Nat) (s : State) (hI : Intact pq s) : Intact pq (recoverStall inst why s) := by
  unfold recoverStall
  repeat' first | with_reducible assumption | with_reducible apply settleJobs_intact | with_reducible apply raise_intact | with_reducible apply wipeStall_intact | with_reducible apply forEach_intact | with_reducible apply recoverStep_intact

theorem queueScrub_intact {pq : List Instr} (inst : Nat) (s : State) (hI : Intact pq s) : Intact pq (queueScrub inst s) := by
  unfold queueScrub
  repeat' first | with_reducible assumption | fail_if_no_progress with_reducible apply Intact.rebuild

theorem lateDiscard_intact {pq : List Instr} (inst kind : Nat) (s : State) (hI : Intact pq s) : Intact pq (lateDiscard inst kind s) := by
  unfold lateDiscard
  repeat' first | with_reducible assumption | with_reducible apply raiseDevFor_intact | with_reducible apply State.updInst_intact

theorem dropQueued_intact {pq : List Instr} (inst : Nat) (s : State) (hI : Intact pq s) : Intact pq (dropQueued inst s) := by
  unfold dropQueued
  repeat' first | with_reducible assumption | fail_if_no_progress with_reducible apply Intact.rebuild

theorem dropObjects_intact {pq : List Instr} (st : Stall) (s : State) (hI : Intact pq s) : Intact pq (dropObjects st s) := by
  unfold dropObjects
  repeat' first | with_reducible assumption | fail_if_no_progress with_reducible apply Intact.rebuild

theorem dropKeyed_intact {pq : List Instr} (inst : Nat) (s0 : State) (hI : Intact pq s0) : Intact pq (dropKeyed inst s0) := by
  unfold dropKeyed
  repeat' first | with_reducible assumption | with_reducible apply releaseRates_intact | with_reducible apply dropQueued_intact | with_reducible apply dropObjects_intact | with_reducible apply State.updInst_intact | split | fail_if_no_progress with_reducible apply Intact.rebuild

theorem raiseGen_intact {pq : List Instr} (inst : Nat) (keepSecrets : Bool) (s : State) (hI : Intact pq s) : Intact pq (raiseGen inst keepSecrets s) := by
  unfold raiseGen
  repeat' first | with_reducible assumption | with_reducible apply State.draw_intact | with_reducible apply State.updInst_intact

theorem raiseOrWait_intact {pq : List Instr} (inst : Nat) (s : State) (hI : Intact pq s) : Intact pq (raiseOrWait inst s) := by
  unfold raiseOrWait
  repeat' first | with_reducible assumption | with_reducible apply State.updInst_intact | with_reducible apply raiseGen_intact | with_reducible apply Intact.cond | intro _

theorem sendLoss_intact {pq : List Instr} (j : Job) (lost : Nat) (s : State) (hI : Intact pq s) : Intact pq (sendLoss j lost s) := by
  unfold sendLoss
  repeat' first | with_reducible assumption | with_reducible apply forEach_intact | with_reducible apply sendTo_intact | with_reducible apply Intact.cond | intro _

theorem sendAllLoss_intact {pq : List Instr} (inst : Nat) (s : State) (hI : Intact pq s) : Intact pq (sendAllLoss inst s) := by
  unfold sendAllLoss
  repeat' first | with_reducible assumption | with_reducible apply forEach_intact | with_reducible apply sendLoss_intact | intro _

theorem resetFn_intact {pq : List Instr} (fn : Nat) (s : State) (hI : Intact pq s) : Intact pq (resetFn fn s) := by
  unfold resetFn
  repeat' first | with_reducible assumption | fail_if_no_progress with_reducible apply Intact.rebuild

theorem writePreload_intact {pq : List Instr} (st : Stall) (im : Image) (bubble : Bool) (r : Preload) (s : State) (hI : Intact pq s) : Intact pq (writePreload st im bubble r s) := by
  unfold writePreload
  repeat' first | with_reducible assumption | with_reducible apply forEach_intact | with_reducible apply writeFor_intact | split | intro _

theorem writeArea_intact {pq : List Instr} (inst : Nat) (s : State) (hI : Intact pq s) : Intact pq (writeArea inst s) := by
  unfold writeArea
  repeat' first | with_reducible assumption | with_reducible apply forEach_intact | with_reducible apply sramWrite_intact | with_reducible apply writePreload_intact | split | intro _

theorem groupOut_intact {pq : List Instr} (g why : Nat) (s : State) (hI : Intact pq s) : Intact pq (groupOut g why s) := by
  unfold groupOut
  try dsimp only
  repeat' first | with_reducible assumption | with_reducible apply State.updGroup_intact | with_reducible apply raiseDevFor_intact | with_reducible apply raise_intact | split

theorem followHeat_intact {pq : List Instr} (inst : Nat) (s : State) (hI : Intact pq s) : Intact pq (followHeat inst s) := by
  unfold followHeat
  repeat' first | with_reducible assumption | with_reducible apply setLive_intact | split

theorem followAllHeat_intact {pq : List Instr} (s : State) (hI : Intact pq s) : Intact pq (followAllHeat s) := by
  unfold followAllHeat
  repeat' first | with_reducible assumption | with_reducible apply forEach_intact | with_reducible apply followHeat_intact | intro _

theorem followLevels_intact {pq : List Instr} (s : State) (hI : Intact pq s) : Intact pq (followLevels s) := by
  unfold followLevels
  repeat' first | with_reducible assumption | with_reducible apply setLive_intact

/-! ## Machine/Operands.lean -/

theorem issued_intact {pq : List Instr} (core : Nat) (s : State) (hI : Intact pq s) : Intact pq (issued core s) := by
  unfold issued
  repeat' first | with_reducible assumption | with_reducible apply State.updWork_intact

theorem issue_intact {pq : List Instr} (core : Nat) (ok : Bool) (effect : State → State) (s : State) (heffect : ∀ s, Intact pq s → Intact pq (effect s)) (hI : Intact pq s) : Intact pq (issue core ok effect s) := by
  unfold issue
  repeat' first | with_reducible assumption | with_reducible apply heffect | with_reducible apply descFault_intact | with_reducible apply Intact.cond | intro _

/-! ## Machine/Engine.lean -/

theorem descFaultAt_intact {pq : List Instr} (core seq : Nat) (s : State) (hI : Intact pq s) : Intact pq (descFaultAt core seq s) := by
  unfold descFaultAt
  repeat' first | with_reducible assumption | with_reducible apply coreException_intact

theorem coreAdd_intact {pq : List Instr} (core obj n : Nat) (s : State) (hI : Intact pq s) : Intact pq (coreAdd core obj n s) := by
  unfold coreAdd
  try dsimp only
  repeat' first | with_reducible assumption | with_reducible apply addObj_intact | with_reducible apply failStep_intact | split

theorem accessFault_intact {pq : List Instr} (core seq : Nat) (reads writes : List (Nat × Nat)) (s : State) (hI : Intact pq s) (t : State) (ht : accessFault core seq reads writes s = some t) : Intact pq t := by
  unfold accessFault at ht
  try dsimp only at ht
  repeat' split at ht
  all_goals try cases ht
  all_goals (repeat' first | with_reducible assumption | with_reducible apply descFaultAt_intact | with_reducible apply sramFault_intact)

theorem putReg_intact {pq : List Instr} (core d : Nat) (v : Lanes) (s : State) (hI : Intact pq s) : Intact pq (putReg core d v s) := by
  unfold putReg
  repeat' first | with_reducible assumption | with_reducible apply markNonfinite_intact | with_reducible apply State.updEng_intact

theorem countClips_intact {pq : List Instr} (core pair n clipped : Nat) (s : State) (hI : Intact pq s) : Intact pq (countClips core pair n clipped s) := by
  unfold countClips
  repeat' first | with_reducible assumption | with_reducible apply State.updInst_intact

theorem countConvs_intact {pq : List Instr} (core pair : Nat) (fmt : Nat) (cs : List Conv) (s : State) (hI : Intact pq s) : Intact pq (countConvs core pair fmt cs s) := by
  unfold countConvs
  repeat' first | with_reducible assumption | with_reducible apply countClips_intact | with_reducible apply markNonfinite_intact | with_reducible apply Intact.cond | intro _

theorem runCvt_intact {pq : List Instr} (core : Nat) (e : Engine) (i : TIns) (s : State) (hI : Intact pq s) : Intact pq (runCvt core e i s) := by
  unfold runCvt
  repeat' first | with_reducible assumption | with_reducible apply putReg_intact | with_reducible apply countConvs_intact

theorem runRscale_intact {pq : List Instr} (core : Nat) (e : Engine) (i : TIns) (s : State) (hI : Intact pq s) : Intact pq (runRscale core e i s) := by
  unfold runRscale
  repeat' first | with_reducible assumption | with_reducible apply putReg_intact | with_reducible apply markNonfinite_intact | with_reducible apply State.updEng_intact

theorem runBscale_intact {pq : List Instr} (core : Nat) (e : Engine) (i : TIns) (s : State) (hI : Intact pq s) : Intact pq (runBscale core e i s) := by
  unfold runBscale
  repeat' first | with_reducible assumption | with_reducible apply putReg_intact | with_reducible apply State.updEng_intact

theorem runColumn_intact {pq : List Instr} (core : Nat) (e : Engine) (i : TIns) (s : State) (hI : Intact pq s) : Intact pq (runColumn core e i s) := by
  unfold runColumn
  repeat' first | with_reducible assumption | with_reducible apply markNonfinite_intact | with_reducible apply State.updEng_intact

theorem runSts_intact {pq : List Instr} (core : Nat) (e : Engine) (i : TIns) (s : State) (hI : Intact pq s) : Intact pq (runSts core e i s) := by
  unfold runSts
  repeat' first | with_reducible assumption | with_reducible apply sramWrite_intact | with_reducible apply countConvs_intact | with_reducible apply forEach_intact | with_reducible apply runRow_intact | with_reducible apply Intact.cond | intro _

theorem runSend_intact {pq : List Instr} (core seq : Nat) (e : Engine) (i : TIns) (s : State) (hI : Intact pq s) : Intact pq (runSend core seq e i s) := by
  unfold runSend
  repeat' first | with_reducible assumption | with_reducible apply descFaultAt_intact | with_reducible apply sramFault_intact | with_reducible apply State.updWork_intact | with_reducible apply Intact.cond | intro _

theorem runIns_intact {pq : List Instr} (core seq : Nat) (i : TIns) (s : State) (hI : Intact pq s) : Intact pq (runIns core seq i s) := by
  unfold runIns
  try dsimp only
  repeat' first | with_reducible assumption | with_reducible refine accessFault_intact (hI := ?_) (ht := by assumption) .. | with_reducible apply runSts_intact | with_reducible apply runColumn_intact | with_reducible apply runCvt_intact | with_reducible apply runRscale_intact | with_reducible apply runBscale_intact | with_reducible apply runSend_intact | with_reducible apply putReg_intact | split

theorem runRow_intact {pq : List Instr} (core : Nat) (a : Att) (accs : List Nat) (r : Nat) (s : State) (hI : Intact pq s) : Intact pq (runRow core a accs r s) := by
  unfold runRow
  try dsimp only
  repeat' first | with_reducible assumption | with_reducible apply State.updEng_intact | with_reducible refine accessFault_intact (hI := ?_) (ht := by assumption) .. | with_reducible apply markNonfinite_intact | with_reducible apply forEach_intact | with_reducible apply runIns_intact | split

theorem runTail_intact {pq : List Instr} (core : Nat) (a : Att) (s : State) (hI : Intact pq s) : Intact pq (runTail core a s) := by
  unfold runTail
  repeat' first | with_reducible assumption | with_reducible apply forEach_intact | with_reducible apply runIns_intact | with_reducible apply markNonfinite_intact | with_reducible apply State.updEng_intact | with_reducible apply Intact.cond | intro _

theorem updAtt_intact {pq : List Instr} (core id : Nat) (f : Att → Att) (s : State) (hI : Intact pq s) : Intact pq (updAtt core id f s) := by
  unfold updAtt
  repeat' first | with_reducible assumption | with_reducible apply State.updWork_intact

theorem runTile_intact {pq : List Instr} (core : Nat) (a : Att) (accs : List Nat) (rows : Nat) (s : State) (hI : Intact pq s) : Intact pq (runTile core a accs rows s) := by
  unfold runTile
  repeat' first | with_reducible assumption | with_reducible apply descFaultAt_intact | with_reducible apply forEach_intact | with_reducible apply pace_intact | with_reducible apply State.updEng_intact | with_reducible apply runRow_intact | with_reducible apply runTail_intact | with_reducible apply updAtt_intact | with_reducible apply State.updWork_intact | with_reducible apply coreAdd_intact | with_reducible apply Intact.cond | intro _

theorem takeEffect_intact {pq : List Instr} (core id : Nat) (s : State) (hI : Intact pq s) : Intact pq (takeEffect core id s) := by
  unfold takeEffect
  repeat' first | with_reducible assumption | with_reducible apply updAtt_intact | with_reducible apply descFaultAt_intact | with_reducible apply sramFault_intact | split

theorem nextTile.afterEpilogue_intact {pq : List Instr} (core : Nat) (s : State) (hI : Intact pq s) : Intact pq (nextTile.afterEpilogue core s) := by
  unfold nextTile.afterEpilogue
  try dsimp only
  repeat' first | with_reducible assumption | with_reducible apply runTile_intact | with_reducible apply takeEffect_intact | split

theorem nextTile_intact {pq : List Instr} (core : Nat) (s : State) (hI : Intact pq s) : Intact pq (nextTile core s) := by
  unfold nextTile
  repeat' first | with_reducible assumption | with_reducible apply runTile_intact | with_reducible apply State.updWork_intact | with_reducible apply nextTile.afterEpilogue_intact | split

theorem tileStep_intact {pq : List Instr} (core : Nat) (i : TIns) (s : State) (hI : Intact pq s) : Intact pq (tileStep core i s) := by
  unfold tileStep
  repeat' first | with_reducible assumption | with_reducible apply runIns_intact | with_reducible apply descFault_intact | with_reducible apply Intact.cond | intro _

/-! ## Machine/Residency.lean -/

theorem mapPage_intact {pq : List Instr} (inst la set : Nat) (e0 : Pte) (s : State) (hI : Intact pq s) (t : State) (ht : mapPage inst la set e0 s = some t) : Intact pq t := by
  unfold mapPage at ht
  try dsimp only at ht
  repeat' split at ht
  all_goals try cases ht
  all_goals (repeat' first | with_reducible assumption | with_reducible apply takeMap_intact | with_reducible apply zeroPage_intact | with_reducible apply State.setPte_intact)

theorem mapPages_intact {pq : List Instr} (inst set : Nat) (e0 : Pte) (x0 : Nat) (x1 : Nat) (s : State) (hI : Intact pq s) (t : State) (ht : mapPages inst set e0 x0 x1 s = some t) : Intact pq t := by
  fun_induction mapPages inst set e0 x0 x1 s
  all_goals (try dsimp only at ht)
  all_goals (repeat' split at ht)
  all_goals (try cases ht)
  all_goals (repeat' first | with_reducible assumption | with_reducible refine (‹Intact _ _ → _ = some _ → Intact _ _› : _) ?_ (by assumption) | with_reducible refine mapPage_intact (hI := ?_) (ht := by assumption) ..)

theorem unmapPages_intact {pq : List Instr} (inst n la : Nat) (s : State) (hI : Intact pq s) : Intact pq (unmapPages inst n la s) := by
  unfold unmapPages
  repeat' first | with_reducible assumption | with_reducible apply forEach_intact | with_reducible apply unmapPage_intact | intro _

theorem writeBack_intact {pq : List Instr} (inst id : Nat) (s : State) (hI : Intact pq s) : Intact pq (writeBack inst id s) := by
  unfold writeBack
  repeat' first | with_reducible assumption | with_reducible apply sealBytes_intact | with_reducible apply rdmaIssue_intact | with_reducible apply State.updAdapter_intact | split

theorem dropCopy_intact {pq : List Instr} (inst id : Nat) (s : State) (hI : Intact pq s) : Intact pq (dropCopy inst id s) := by
  unfold dropCopy
  repeat' first | with_reducible assumption | with_reducible apply State.updAdapter_intact

theorem evict_intact {pq : List Instr} (inst id : Nat) (s : State) (hI : Intact pq s) : Intact pq (evict inst id s) := by
  unfold evict
  try dsimp only
  repeat' first | with_reducible assumption | with_reducible apply unmapPages_intact | with_reducible apply State.updAdapter_intact | with_reducible apply writeBack_intact | with_reducible apply dropCopy_intact | split

theorem placeFetch_intact {pq : List Instr} (inst : Nat) (st : Stall) (a : Adapter) (slot : Nat) (early : Bool) (s : State) (hI : Intact pq s) : Intact pq (placeFetch inst st a slot early s) := by
  unfold placeFetch
  try dsimp only
  repeat' first | with_reducible assumption | with_reducible refine mapPages_intact (hI := ?_) (ht := by assumption) .. | with_reducible apply State.updAdapter_intact | with_reducible apply rdmaIssue_intact | split

theorem fetchOne_intact {pq : List Instr} (inst : Nat) (st : Stall) (earlier : List (List Nat)) (id : Nat) (x0 : Nat) (s : State) (hI : Intact pq s) : Intact pq (fetchOne inst st earlier id x0 s) := by
  fun_induction fetchOne inst st earlier id x0 s
  all_goals (repeat' first | with_reducible assumption | with_reducible refine (‹Intact _ _ → Intact _ _› : _) ?_ | with_reducible apply State.updAdapter_intact | with_reducible apply finish_intact | with_reducible apply placeFetch_intact | with_reducible apply evict_intact)

theorem startFetches.go_intact {pq : List Instr} (inst : Nat) (st : Stall) (earlier : List (List Nat)) (cls : List (Bool × List Nat)) (s : State) (hI : Intact pq s) : Intact pq (startFetches.go inst st earlier cls s) := by
  fun_induction startFetches.go inst st earlier cls s
  all_goals (repeat' first | with_reducible assumption | with_reducible refine (‹Intact _ _ → Intact _ _› : _) ?_ | with_reducible apply Intact.cond | with_reducible apply startColl.go_intact | with_reducible apply forEach_intact | with_reducible apply fetchOne_intact | intro _)

theorem startFetches_intact {pq : List Instr} (inst : Nat) (s : State) (hI : Intact pq s) : Intact pq (startFetches inst s) := by
  unfold startFetches
  repeat' first | with_reducible assumption | with_reducible apply startColl.go_intact | with_reducible apply startFetches.go_intact | split

theorem park_intact {pq : List Instr} (inst tag : Nat) (s : State) (hI : Intact pq s) : Intact pq (park inst tag s) := by
  unfold park
  repeat' first | with_reducible assumption | with_reducible apply State.updStep_intact | with_reducible apply startFetches_intact | with_reducible apply interim_intact | with_reducible apply Intact.cond | intro _

theorem unpark_intact {pq : List Instr} (inst : Nat) (s : State) (hI : Intact pq s) : Intact pq (unpark inst s) := by
  unfold unpark
  repeat' first | with_reducible assumption | with_reducible apply forEach_intact | with_reducible apply State.updStep_intact | with_reducible apply Intact.cond | intro _

theorem applyWrite_intact {pq : List Instr} (inst id : Nat) (s : State) (hI : Intact pq s) : Intact pq (applyWrite inst id s) := by
  unfold applyWrite
  repeat' first | with_reducible assumption | with_reducible apply State.updAdapter_intact | with_reducible apply stateWrite_intact | with_reducible apply finish_intact | with_reducible apply writeBack_intact | split

theorem applyUnregister_intact {pq : List Instr} (inst id : Nat) (s : State) (hI : Intact pq s) : Intact pq (applyUnregister inst id s) := by
  unfold applyUnregister
  repeat' first | with_reducible assumption | with_reducible apply evict_intact | with_reducible apply finish_intact | with_reducible apply State.updInst_intact | split

theorem stepBoundary_intact {pq : List Instr} (inst : Nat) (s : State) (hI : Intact pq s) : Intact pq (stepBoundary inst s) := by
  unfold stepBoundary
  repeat' first | with_reducible assumption | with_reducible apply unpark_intact | with_reducible apply startFetches_intact | with_reducible apply forEach_intact | with_reducible apply applyUnregister_intact | with_reducible apply applyWrite_intact

theorem fetchArrives_intact {pq : List Instr} (inst id : Nat) (s : State) (hI : Intact pq s) : Intact pq (fetchArrives inst id s) := by
  unfold fetchArrives
  repeat' first | with_reducible assumption | with_reducible apply stateWrite_intact | with_reducible apply State.updAdapter_intact | with_reducible apply stepBoundary_intact | with_reducible apply finish_intact | split

theorem fetchFails_intact {pq : List Instr} (inst id status : Nat) (s : State) (hI : Intact pq s) : Intact pq (fetchFails inst id status s) := by
  unfold fetchFails
  repeat' first | with_reducible assumption | with_reducible apply evict_intact | with_reducible apply State.updAdapter_intact | with_reducible apply finish_intact | with_reducible apply stepBoundary_intact | with_reducible apply forEach_intact | with_reducible apply endStep_intact | split | fail_if_no_progress with_reducible apply Intact.rebuild | intro _

/-! ## Machine/Tasks.lean -/

theorem giveTask_intact {pq : List Instr} (fn tag : Nat) (bubble : Bool) (core : Nat) (s : State) (hI : Intact pq s) : Intact pq (giveTask fn tag bubble core s) := by
  unfold giveTask
  repeat' first | with_reducible assumption | with_reducible apply State.updWork_intact

theorem startTasks_intact {pq : List Instr} (inst tag : Nat) (bubble : Bool) (ts : List TaskEnt) (s : State) (hI : Intact pq s) : Intact pq (startTasks inst tag bubble ts s) := by
  unfold startTasks
  repeat' first | with_reducible assumption | with_reducible apply forEach_intact | with_reducible apply giveTask_intact | with_reducible apply State.updStep_intact | split

theorem decideLayers_intact {pq : List Instr} (inst tag : Nat) (bubble : Bool) (s : State) (hI : Intact pq s) : Intact pq (decideLayers inst tag bubble s) := by
  unfold decideLayers
  repeat' first | with_reducible assumption | with_reducible apply forEach_intact | with_reducible apply State.updStep_intact | split | intro _

theorem settleClips_intact {pq : List Instr} (inst : Nat) (bubble keep : Bool) (s : State) (hI : Intact pq s) : Intact pq (settleClips inst bubble keep s) := by
  unfold settleClips
  repeat' first | with_reducible assumption | with_reducible apply State.updInst_intact

theorem writeRows_intact {pq : List Instr} (inst addr width : Nat) (data : Bytes) (x0 : List Nat) (x1 : Nat) (s : State) (hI : Intact pq s) : Intact pq (writeRows inst addr width data x0 x1 s) := by
  fun_induction writeRows inst addr width data x0 x1 s
  all_goals (repeat' first | with_reducible assumption | with_reducible refine (‹Intact _ _ → Intact _ _› : _) ?_ | with_reducible apply hostWrite_intact)

theorem deliver_intact {pq : List Instr} (inst tag : Nat) (s : State) (hI : Intact pq s) : Intact pq (deliver inst tag s) := by
  unfold deliver
  repeat' first | with_reducible assumption | with_reducible apply endStep_intact | with_reducible apply readBytes_intact | with_reducible apply stepBoundary_intact | with_reducible apply settleClips_intact | with_reducible apply writeRows_intact | with_reducible apply seedHistories_intact | with_reducible apply setGap_intact | split | with_reducible refine Intact.snd (by assumption) ?_

theorem rollClips_intact {pq : List Instr} (inst : Nat) (s : State) (hI : Intact pq s) : Intact pq (rollClips inst s) := by
  unfold rollClips
  repeat' first | with_reducible assumption | with_reducible apply State.updInst_intact

theorem stepTasksEnd_intact {pq : List Instr} (inst tag : Nat) (s : State) (hI : Intact pq s) : Intact pq (stepTasksEnd inst tag s) := by
  unfold stepTasksEnd
  try dsimp only
  repeat' first | with_reducible assumption | with_reducible apply deliver_intact | with_reducible apply decideLayers_intact | with_reducible apply rollClips_intact | with_reducible apply State.updStep_intact | split

theorem tasksMayEnd_intact {pq : List Instr} (inst tag : Nat) (s : State) (hI : Intact pq s) : Intact pq (tasksMayEnd inst tag s) := by
  unfold tasksMayEnd
  repeat' first | with_reducible assumption | with_reducible apply stepTasksEnd_intact | split

theorem fenceEnds_intact {pq : List Instr} (core : Nat) (s : State) (hI : Intact pq s) : Intact pq (fenceEnds core s) :=
  State.updWork_intact _ _ hI

theorem taskEnds_intact {pq : List Instr} (core : Nat) (s : State) (hI : Intact pq s) : Intact pq (taskEnds core s) := by
  unfold taskEnds
  try dsimp only
  repeat' first | with_reducible assumption | with_reducible apply State.updWork_intact | with_reducible apply tasksMayEnd_intact | split

theorem heldSteps_intact {pq : List Instr} (core : Nat) (s : State) (hI : Intact pq s) : Intact pq (heldSteps core s) :=
  State.updCore_intact _ _ (State.draw_intact s hI) (fun _ hc => hc)

theorem settle_intact {pq : List Instr} (core : Nat) (s : State) (hI : Intact pq s) : Intact pq (settle core s) := by
  unfold settle
  try dsimp only
  repeat' first | with_reducible assumption | with_reducible apply fenceEnds_intact | with_reducible apply taskEnds_intact | with_reducible apply heldSteps_intact | split

end Sys2Proof.Machine
end

