-- ==== Sys2Proof/Laws/IntactCores.lean ====
section
/-! SUPPORT. The commands of the cores: each keeps the queue and every memory (Intact). -/

namespace Sys2Proof.Machine

set_option maxRecDepth 4000

/-! ## Machine/Array.lean -/

theorem queuePass_intact {pq : List Instr} (core : Nat) (d : Desc) (residues : List Residue) (s : State) (hI : Intact pq s) : Intact pq (queuePass core d residues s) := by
  unfold queuePass
  repeat' first | with_reducible assumption | with_reducible apply State.updWork_intact

-- TODO startPass : StartEnd

theorem enterRows_intact {pq : List Instr} (core : Nat) (j : PassJob) (n : Nat) (s : State) (hI : Intact pq s) : Intact pq (enterRows core j n s) := by
  unfold enterRows
  repeat' first | with_reducible assumption | with_reducible apply State.updCore_intact | exact Core.memWf_of (by assumption) rfl rfl | intro _

theorem rowFault_intact {pq : List Instr} (core seq : Nat) (e : RowErr) (s : State) (hI : Intact pq s) : Intact pq (rowFault core seq e s) := by
  unfold rowFault
  repeat' first | with_reducible assumption | with_reducible apply ticketFault_intact | with_reducible apply sramFault_intact | with_reducible apply descFaultAt_intact | split

theorem pumpGo_intact {pq : List Instr} (core : Nat) (x0 : Nat) (s : State) (hI : Intact pq s) : Intact pq (pumpGo core x0 s) := by
  fun_induction pumpGo core x0 s
  all_goals (repeat' first | with_reducible assumption | with_reducible refine (‹Intact _ _ → Intact _ _› : _) ?_ | with_reducible apply State.updWork_intact | with_reducible apply takeEffect_intact | with_reducible apply rowFault_intact | with_reducible apply enterRows_intact | split | dsimp +zetaDelta only)

theorem pumpArray_intact {pq : List Instr} (core : Nat) (s : State) (hI : Intact pq s) : Intact pq (pumpArray core s) := by
  unfold pumpArray
  repeat' first | with_reducible assumption | with_reducible apply pumpGo_intact | with_reducible apply Intact.cond | intro _

theorem addGap_intact {pq : List Instr} (core n : Nat) (s : State) (hI : Intact pq s) : Intact pq (addGap core n s) := by
  unfold addGap
  repeat' first | with_reducible assumption | with_reducible apply State.updCore_intact | exact Core.memWf_of (by assumption) rfl rfl | intro _

theorem rowsGo_intact {pq : List Instr} (core : Nat) (j : PassJob) (x0 : List Nat) (x1 : Nat) (x2 : Nat) (s : State) (hI : Intact pq s) : Intact pq (rowsGo core j x0 x1 x2 s) := by
  fun_induction rowsGo core j x0 x1 x2 s
  all_goals (repeat' first | with_reducible assumption | with_reducible refine (‹Intact _ _ → Intact _ _› : _) ?_ | with_reducible apply coreException_intact | with_reducible apply State.updCore_intact | with_reducible apply rowFault_intact | with_reducible apply forEach_intact | with_reducible apply addGap_intact | with_reducible apply raise_intact | with_reducible apply sramWrite_intact | with_reducible apply markLedger_intact | with_reducible apply markNonfinite_intact | with_reducible apply State.updWork_intact | with_reducible apply Intact.cond | exact Core.memWf_of (by assumption) rfl rfl | intro _)

theorem passResults_intact {pq : List Instr} (core : Nat) (s : State) (hI : Intact pq s) : Intact pq (passResults core s) := by
  unfold passResults
  try dsimp only
  repeat' first | with_reducible assumption | with_reducible apply rowsGo_intact | with_reducible apply State.updWork_intact | with_reducible apply pumpArray_intact | split

theorem ringSegment_intact {pq : List Instr} (core waited : Nat) (s : State) (hI : Intact pq s) : Intact pq (ringSegment core waited s) := by
  unfold ringSegment
  try dsimp only
  repeat' first | with_reducible assumption | with_reducible apply pumpArray_intact | with_reducible apply addGap_intact | with_reducible apply enterRows_intact | with_reducible apply pace_intact | split

theorem queueResume_intact {pq : List Instr} (core waited : Nat) (s : State) (hI : Intact pq s) : Intact pq (queueResume core waited s) := by
  unfold queueResume
  repeat' first | with_reducible assumption | with_reducible apply pumpArray_intact | with_reducible apply addGap_intact | split

theorem sideLoaded_intact {pq : List Instr} (core waited : Nat) (s : State) (hI : Intact pq s) : Intact pq (sideLoaded core waited s) := by
  unfold sideLoaded
  repeat' first | with_reducible assumption | with_reducible apply pumpArray_intact | with_reducible apply addGap_intact | with_reducible apply State.updWork_intact | with_reducible apply Intact.cond | intro _

theorem loadDone_intact {pq : List Instr} (core waited : Nat) (s : State) (hI : Intact pq s) : Intact pq (loadDone core waited s) := by
  unfold loadDone
  try dsimp only
  repeat' first | with_reducible assumption | with_reducible apply sramFault_intact | with_reducible apply addGap_intact | with_reducible apply pumpArray_intact | with_reducible apply State.updWork_intact | split

/-! ## Machine/Descriptors.lean -/

theorem coreFail_intact {pq : List Instr} (core : Nat) (why : StopWhy) (seq : Nat) (s : State) (hI : Intact pq s) : Intact pq (coreFail core why seq s) := by
  unfold coreFail
  repeat' first | with_reducible assumption | with_reducible apply stopCore_intact | with_reducible apply failStep_intact | split

theorem execLoadBlock_intact {pq : List Instr} (core : CoreId) (d : Desc) (s : State) (hI : Intact pq s) (t : State) (ht : execLoadBlock core d s = .next t) : Intact pq t := by
  unfold execLoadBlock at ht
  obtain rfl := Host.Outcome.next.inj ht
  repeat' first | with_reducible assumption | with_reducible apply issue_intact | with_reducible apply issued_intact | with_reducible apply State.updWork_intact | intro _

theorem execLoadBlockComplete_intact {pq : List Instr} (core : CoreId) (waited : Nat) (s : State) (hI : Intact pq s) (t : State) (ht : execLoadBlockComplete core waited s = .next t) : Intact pq t := by
  unfold execLoadBlockComplete at ht
  obtain rfl := Host.Outcome.next.inj ht
  repeat' first | with_reducible assumption | with_reducible apply settle_intact | with_reducible apply loadDone_intact

theorem execPass_intact {pq : List Instr} (core : CoreId) (d : Desc) (residues : List Residue) (words : List SramFind) (s : State) (hI : Intact pq s) (t : State) (ht : execPass core d residues words s = .next t) : Intact pq t := by
  unfold execPass at ht
  obtain rfl := Host.Outcome.next.inj ht
  repeat' first | with_reducible assumption | with_reducible apply issue_intact | with_reducible apply pumpArray_intact | with_reducible apply issued_intact | with_reducible apply queuePass_intact | with_reducible apply sramFound_intact | intro _

theorem execRingSegmentEntry_intact {pq : List Instr} (core : CoreId) (waited : Nat) (s : State) (hI : Intact pq s) (t : State) (ht : execRingSegmentEntry core waited s = .next t) : Intact pq t := by
  unfold execRingSegmentEntry at ht
  obtain rfl := Host.Outcome.next.inj ht
  repeat' first | with_reducible assumption | with_reducible apply ringSegment_intact

theorem execSide_intact {pq : List Instr} (core : CoreId) (d : Desc) (s : State) (hI : Intact pq s) (t : State) (ht : execSide core d s = .next t) : Intact pq t := by
  unfold execSide at ht
  obtain rfl := Host.Outcome.next.inj ht
  repeat' first | with_reducible assumption | with_reducible apply issue_intact | with_reducible apply pumpArray_intact | with_reducible apply issued_intact | with_reducible apply State.updWork_intact | intro _

theorem execEpilogueQueueResume_intact {pq : List Instr} (core : CoreId) (waited : Nat) (s : State) (hI : Intact pq s) (t : State) (ht : execEpilogueQueueResume core waited s = .next t) : Intact pq t := by
  unfold execEpilogueQueueResume at ht
  obtain rfl := Host.Outcome.next.inj ht
  repeat' first | with_reducible assumption | with_reducible apply queueResume_intact

theorem execPassResultsWritten_intact {pq : List Instr} (core : CoreId) (s : State) (hI : Intact pq s) (t : State) (ht : execPassResultsWritten core s = .next t) : Intact pq t := by
  unfold execPassResultsWritten at ht
  obtain rfl := Host.Outcome.next.inj ht
  repeat' first | with_reducible assumption | with_reducible apply settle_intact | with_reducible apply passResults_intact

theorem execSideArrayLoadComplete_intact {pq : List Instr} (core : CoreId) (waited : Nat) (s : State) (hI : Intact pq s) (t : State) (ht : execSideArrayLoadComplete core waited s = .next t) : Intact pq t := by
  unfold execSideArrayLoadComplete at ht
  obtain rfl := Host.Outcome.next.inj ht
  repeat' first | with_reducible assumption | with_reducible apply sideLoaded_intact

theorem execTileprogPrologue_intact {pq : List Instr} (core : CoreId) (d : Desc) (s : State) (hI : Intact pq s) (t : State) (ht : execTileprogPrologue core d s = .next t) : Intact pq t := by
  unfold execTileprogPrologue at ht
  obtain rfl := Host.Outcome.next.inj ht
  repeat' first | with_reducible assumption | with_reducible apply issue_intact | with_reducible apply pumpArray_intact | with_reducible apply issued_intact | with_reducible apply State.updWork_intact | intro _

theorem execTileprogEpilogue_intact {pq : List Instr} (core : CoreId) (d : Desc) (s : State) (hI : Intact pq s) (t : State) (ht : execTileprogEpilogue core d s = .next t) : Intact pq t := by
  unfold execTileprogEpilogue at ht
  obtain rfl := Host.Outcome.next.inj ht
  repeat' first | with_reducible assumption | with_reducible apply issue_intact | with_reducible apply takeEffect_intact | with_reducible apply issued_intact | with_reducible apply State.updWork_intact | intro _

theorem execTileprogRun_intact {pq : List Instr} (core : CoreId) (d : Desc) (s : State) (hI : Intact pq s) (t : State) (ht : execTileprogRun core d s = .next t) : Intact pq t := by
  unfold execTileprogRun at ht
  obtain rfl := Host.Outcome.next.inj ht
  repeat' first | with_reducible assumption | with_reducible apply issue_intact | with_reducible apply issued_intact | with_reducible apply State.updWork_intact | intro _

theorem execTileprogDetach_intact {pq : List Instr} (core : CoreId) (d : Desc) (s : State) (hI : Intact pq s) (t : State) (ht : execTileprogDetach core d s = .next t) : Intact pq t := by
  unfold execTileprogDetach at ht
  obtain rfl := Host.Outcome.next.inj ht
  repeat' first | with_reducible assumption | with_reducible apply issue_intact | with_reducible apply pumpArray_intact | with_reducible apply issued_intact | with_reducible apply State.updWork_intact | intro _

theorem queueMove_intact {pq : List Instr} (d : Desc) (predicted : Bool) (core : Nat) (s : State) (hI : Intact pq s) : Intact pq (queueMove d predicted core s) := by
  unfold queueMove
  repeat' first | with_reducible assumption | with_reducible apply State.updWork_intact

theorem execMove_intact {pq : List Instr} (core : CoreId) (d : Desc) (words : List SramFind) (s : State) (hI : Intact pq s) (t : State) (ht : execMove core d words s = .next t) : Intact pq t := by
  unfold execMove at ht
  try dsimp only at ht
  repeat' split at ht
  all_goals try cases ht
  all_goals (repeat' first | with_reducible assumption | with_reducible apply issue_intact | with_reducible apply sramFound_intact | with_reducible apply issued_intact | with_reducible apply queueMove_intact | with_reducible apply State.updWork_intact | with_reducible apply translationFault_intact | split | intro _)

theorem bringIn_intact {pq : List Instr} (core inst la sram len seq : Nat) (finds : List LineFind) (s : State) (hI : Intact pq s) : (bringIn core inst la sram len seq finds s).Keeps pq := by
  unfold bringIn
  split
  · exact hI
  · split
    next x s1 hx =>
    have h1 : Intact pq s1 := Intact.snd hx (readRange_intact inst finds _ _ _ s hI)
    split
    · exact translationFault_intact _ _ _ _ hI
    · split
      · exact h1
      · split
        · exact coreFail_intact _ _ _ _ h1
        · exact sramWrite_intact _ _ _ _ h1

theorem takeOut_intact {pq : List Instr} (core inst la sram len seq : Nat) (finds : List LineFind) (s : State) (hI : Intact pq s) : (takeOut core inst la sram len seq finds s).Keeps pq := by
  unfold takeOut
  split
  · exact sramFault_intact _ _ _ _ hI
  · split
    next x s1 hx =>
    have h1 : Intact pq s1 := Intact.snd hx (writeRange_intact inst finds _ _ _ _ s hI)
    split
    · exact translationFault_intact _ _ _ _ hI
    · split
      · exact h1
      · split
        · exact coreFail_intact _ _ _ _ h1
        · exact h1

theorem dropMove_intact {pq : List Instr} (core seq : Nat) (region : Option (Nat × Nat)) (s : State) (hI : Intact pq s) : Intact pq (dropMove core seq region s) := by
  unfold dropMove
  repeat' first | with_reducible assumption | with_reducible apply State.updWork_intact

theorem moveRun_intact {pq : List Instr} (core : Nat) (j : UnitJob) (finds : List LineFind) (s : State) (hI : Intact pq s) : (moveRun core j finds s).Keeps pq := by
  unfold moveRun
  dsimp only
  split
  · split
    · exact sramFault_intact _ _ _ _ hI
    · exact sramWrite_intact _ _ _ _ hI
  · split
    · exact takeOut_intact _ _ _ _ _ _ _ _ hI
    · split
      · exact State.updWork_intact _ _ hI
      · exact bringIn_intact _ _ _ _ _ _ _ _ hI

theorem predictedRun_intact {pq : List Instr} (core : Nat) (j : UnitJob) (finds : List LineFind) (s : State) (hI : Intact pq s) : Intact pq (predictedRun core j finds s) := by
  unfold predictedRun
  repeat' first | with_reducible assumption | with_reducible apply dropMove_intact | with_reducible apply State.updWork_intact | with_reducible apply readRange_intact | with_reducible apply sramWrite_intact | with_reducible apply Intact.cond | intro _

theorem moverSettle_intact {pq : List Instr} (core : Nat) (j : UnitJob) (region : Option (Nat × Nat)) (sig : Bool) (obj : Nat) (e : MoverEnd) (hI : e.Keeps pq) : Intact pq (moverSettle core j region sig obj e) := by
  unfold moverSettle
  split
  · exact hI
  · exact hI
  · dsimp only
    have h1 : Intact pq (dropMove core j.seq region ‹State›) := dropMove_intact _ _ _ _ hI
    split
    · exact settle_intact _ _ (coreAdd_intact _ _ _ _ h1)
    · exact settle_intact _ _ h1

theorem execMoveComplete_intact {pq : List Instr} (core : CoreId) (finds : List LineFind) (s : State) (hI : Intact pq s) (t : State) (ht : execMoveComplete core finds s = .next t) : Intact pq t := by
  unfold execMoveComplete at ht
  obtain rfl := Host.Outcome.next.inj ht
  repeat' first | with_reducible assumption | with_reducible apply predictedRun_intact | with_reducible apply moverSettle_intact | with_reducible apply moveRun_intact | split

theorem issueSpill_intact {pq : List Instr} (core : Nat) (d : Desc) (restore : Bool) (s : State) (hI : Intact pq s) : Intact pq (issueSpill core d restore s) := by
  unfold issueSpill
  try dsimp only
  repeat' first | with_reducible assumption | with_reducible apply issue_intact | with_reducible apply translationFault_intact | with_reducible apply issued_intact | with_reducible apply queueMove_intact | split | intro _

theorem execSpill_intact {pq : List Instr} (core : CoreId) (d : Desc) (s : State) (hI : Intact pq s) (t : State) (ht : execSpill core d s = .next t) : Intact pq t := by
  unfold execSpill at ht
  obtain rfl := Host.Outcome.next.inj ht
  repeat' first | with_reducible assumption | with_reducible apply issueSpill_intact

theorem execSpillRestore_intact {pq : List Instr} (core : CoreId) (d : Desc) (s : State) (hI : Intact pq s) (t : State) (ht : execSpillRestore core d s = .next t) : Intact pq t := by
  unfold execSpillRestore at ht
  obtain rfl := Host.Outcome.next.inj ht
  repeat' first | with_reducible assumption | with_reducible apply issueSpill_intact

theorem execSpillComplete_intact {pq : List Instr} (core : CoreId) (finds : List LineFind) (s : State) (hI : Intact pq s) (t : State) (ht : execSpillComplete core finds s = .next t) : Intact pq t := by
  unfold execSpillComplete at ht
  obtain rfl := Host.Outcome.next.inj ht
  try dsimp only
  repeat' first | with_reducible assumption | with_reducible apply moverSettle_intact | with_reducible apply bringIn_intact | with_reducible apply takeOut_intact | split

theorem pumpSends_intact {pq : List Instr} (core : Nat) (x0 : Nat) (s : State) (hI : Intact pq s) : Intact pq (pumpSends core x0 s) := by
  fun_induction pumpSends core x0 s
  all_goals (repeat' first | with_reducible assumption | with_reducible refine (‹Intact _ _ → Intact _ _› : _) ?_ | with_reducible apply coreFail_intact | with_reducible apply pushFlow_intact | with_reducible apply State.updWork_intact)

theorem drainSends_intact {pq : List Instr} (core : Nat) (s : State) (hI : Intact pq s) : Intact pq (drainSends core s) := by
  unfold drainSends
  repeat' first | with_reducible assumption | with_reducible apply pumpSends_intact | with_reducible apply Intact.cond | intro _

theorem execSend_intact {pq : List Instr} (core : CoreId) (d : Desc) (s : State) (hI : Intact pq s) (t : State) (ht : execSend core d s = .next t) : Intact pq t := by
  unfold execSend at ht
  try dsimp only at ht
  repeat' split at ht
  all_goals try cases ht
  all_goals (repeat' first | with_reducible assumption | with_reducible apply issue_intact | with_reducible apply sramFault_intact | with_reducible apply drainSends_intact | with_reducible apply issued_intact | with_reducible apply State.updWork_intact | with_reducible apply Intact.cond | intro _)

theorem sendArrives_intact {pq : List Instr} (core : Nat) (s : State) (hI : Intact pq s) : Intact pq (sendArrives core s) := by
  unfold sendArrives
  repeat' first | with_reducible assumption | with_reducible apply State.updWork_intact | with_reducible apply ledgerInto_intact | with_reducible apply writeFor_intact | with_reducible apply settle_intact | with_reducible apply drainSends_intact | with_reducible apply coreAdd_intact | split

theorem execSendArrival_intact {pq : List Instr} (core : CoreId) (s : State) (hI : Intact pq s) (t : State) (ht : execSendArrival core s = .next t) : Intact pq t := by
  unfold execSendArrival at ht
  obtain rfl := Host.Outcome.next.inj ht
  repeat' first | with_reducible assumption | with_reducible apply sendArrives_intact

theorem execWait_intact {pq : List Instr} (core : CoreId) (d : Desc) (s : State) (hI : Intact pq s) (t : State) (ht : execWait core d s = .next t) : Intact pq t := by
  unfold execWait at ht
  obtain rfl := Host.Outcome.next.inj ht
  repeat' first | with_reducible assumption | with_reducible apply issue_intact | with_reducible apply issued_intact | with_reducible apply State.updWork_intact | with_reducible apply Intact.cond | intro _

theorem execWaitResume_intact {pq : List Instr} (core : CoreId) (waited : Nat) (s : State) (hI : Intact pq s) (t : State) (ht : execWaitResume core waited s = .next t) : Intact pq t := by
  unfold execWaitResume at ht
  obtain rfl := Host.Outcome.next.inj ht
  repeat' first | with_reducible assumption | with_reducible apply State.updCore_intact | split | exact Core.memWf_of (by assumption) rfl rfl | intro _

theorem execWaitTimeout_intact {pq : List Instr} (core : CoreId) (s : State) (hI : Intact pq s) (t : State) (ht : execWaitTimeout core s = .next t) : Intact pq t := by
  unfold execWaitTimeout at ht
  obtain rfl := Host.Outcome.next.inj ht
  repeat' first | with_reducible assumption | with_reducible apply coreException_intact | split

theorem execSignal_intact {pq : List Instr} (core : CoreId) (d : Desc) (s : State) (hI : Intact pq s) (t : State) (ht : execSignal core d s = .next t) : Intact pq t := by
  unfold execSignal at ht
  obtain rfl := Host.Outcome.next.inj ht
  repeat' first | with_reducible assumption | with_reducible apply issue_intact | with_reducible apply issued_intact | with_reducible apply State.updWork_intact | intro _

theorem signalActs_intact {pq : List Instr} (core : Nat) (s : State) (hI : Intact pq s) : Intact pq (signalActs core s) := by
  unfold signalActs
  repeat' first | with_reducible assumption | with_reducible apply State.updWork_intact | with_reducible apply settle_intact | with_reducible apply coreAdd_intact | with_reducible apply signalKind_intact | split

theorem execSignalTakesEffect_intact {pq : List Instr} (core : CoreId) (s : State) (hI : Intact pq s) (t : State) (ht : execSignalTakesEffect core s = .next t) : Intact pq t := by
  unfold execSignalTakesEffect at ht
  obtain rfl := Host.Outcome.next.inj ht
  repeat' first | with_reducible assumption | with_reducible apply signalActs_intact

theorem execFence_intact {pq : List Instr} (core : CoreId) (d : Desc) (s : State) (hI : Intact pq s) (t : State) (ht : execFence core d s = .next t) : Intact pq t := by
  unfold execFence at ht
  obtain rfl := Host.Outcome.next.inj ht
  repeat' first | with_reducible assumption | with_reducible apply issue_intact | with_reducible apply fenceEnds_intact | with_reducible apply Intact.cond | with_reducible apply issued_intact | with_reducible apply State.updWork_intact | intro _

theorem execEndTask_intact {pq : List Instr} (core : CoreId) (d : Desc) (s : State) (hI : Intact pq s) (t : State) (ht : execEndTask core d s = .next t) : Intact pq t := by
  unfold execEndTask at ht
  obtain rfl := Host.Outcome.next.inj ht
  repeat' first | with_reducible assumption | with_reducible apply issue_intact | with_reducible apply taskEnds_intact | with_reducible apply Intact.cond | with_reducible apply issued_intact | with_reducible apply State.updWork_intact | intro _

/-! ## Machine/TileOps.lean -/

theorem execTileBegin_intact {pq : List Instr} (core : CoreId) (s : State) (hI : Intact pq s) (t : State) (ht : execTileBegin core s = .next t) : Intact pq t := by
  unfold execTileBegin at ht
  obtain rfl := Host.Outcome.next.inj ht
  repeat' first | with_reducible assumption | with_reducible apply settle_intact | with_reducible apply drainSends_intact | with_reducible apply nextTile_intact

theorem execMov_intact {pq : List Instr} (core : CoreId) (d a : BitVec 5) (s : State) (hI : Intact pq s) (t : State) (ht : execMov core d a s = .next t) : Intact pq t := by
  unfold execMov at ht
  obtain rfl := Host.Outcome.next.inj ht
  repeat' first | with_reducible assumption | with_reducible apply tileStep_intact

theorem execConst_intact {pq : List Instr} (core : CoreId) (d : BitVec 5) (m : BitVec 6) (s : State) (hI : Intact pq s) (t : State) (ht : execConst core d m s = .next t) : Intact pq t := by
  unfold execConst at ht
  obtain rfl := Host.Outcome.next.inj ht
  repeat' first | with_reducible assumption | with_reducible apply tileStep_intact

theorem execLds_intact {pq : List Instr} (core : CoreId) (d : BitVec 5) (m : BitVec 6) (words : List SramFind) (s : State) (hI : Intact pq s) (t : State) (ht : execLds core d m words s = .next t) : Intact pq t := by
  unfold execLds at ht
  obtain rfl := Host.Outcome.next.inj ht
  repeat' first | with_reducible assumption | with_reducible apply tileStep_intact | with_reducible apply sramFound_intact | with_reducible apply Intact.cond | intro _

theorem execSts_intact {pq : List Instr} (core : CoreId) (a : BitVec 5) (m : BitVec 6) (s : State) (hI : Intact pq s) (t : State) (ht : execSts core a m s = .next t) : Intact pq t := by
  unfold execSts at ht
  obtain rfl := Host.Outcome.next.inj ht
  repeat' first | with_reducible assumption | with_reducible apply tileStep_intact

theorem execLane_intact {pq : List Instr} (core : CoreId) (d : BitVec 5) (s : State) (hI : Intact pq s) (t : State) (ht : execLane core d s = .next t) : Intact pq t := by
  unfold execLane at ht
  obtain rfl := Host.Outcome.next.inj ht
  repeat' first | with_reducible assumption | with_reducible apply tileStep_intact

theorem execRownum_intact {pq : List Instr} (core : CoreId) (d : BitVec 5) (s : State) (hI : Intact pq s) (t : State) (ht : execRownum core d s = .next t) : Intact pq t := by
  unfold execRownum at ht
  obtain rfl := Host.Outcome.next.inj ht
  repeat' first | with_reducible assumption | with_reducible apply tileStep_intact

theorem execAdd_intact {pq : List Instr} (core : CoreId) (d a b : BitVec 5) (s : State) (hI : Intact pq s) (t : State) (ht : execAdd core d a b s = .next t) : Intact pq t := by
  unfold execAdd at ht
  obtain rfl := Host.Outcome.next.inj ht
  repeat' first | with_reducible assumption | with_reducible apply tileStep_intact

theorem execSub_intact {pq : List Instr} (core : CoreId) (d a b : BitVec 5) (s : State) (hI : Intact pq s) (t : State) (ht : execSub core d a b s = .next t) : Intact pq t := by
  unfold execSub at ht
  obtain rfl := Host.Outcome.next.inj ht
  repeat' first | with_reducible assumption | with_reducible apply tileStep_intact

theorem execMul_intact {pq : List Instr} (core : CoreId) (d a b : BitVec 5) (s : State) (hI : Intact pq s) (t : State) (ht : execMul core d a b s = .next t) : Intact pq t := by
  unfold execMul at ht
  obtain rfl := Host.Outcome.next.inj ht
  repeat' first | with_reducible assumption | with_reducible apply tileStep_intact

theorem execFma_intact {pq : List Instr} (core : CoreId) (d a b c : BitVec 5) (s : State) (hI : Intact pq s) (t : State) (ht : execFma core d a b c s = .next t) : Intact pq t := by
  unfold execFma at ht
  obtain rfl := Host.Outcome.next.inj ht
  repeat' first | with_reducible assumption | with_reducible apply tileStep_intact

theorem execMin_intact {pq : List Instr} (core : CoreId) (d a b : BitVec 5) (s : State) (hI : Intact pq s) (t : State) (ht : execMin core d a b s = .next t) : Intact pq t := by
  unfold execMin at ht
  obtain rfl := Host.Outcome.next.inj ht
  repeat' first | with_reducible assumption | with_reducible apply tileStep_intact

theorem execMax_intact {pq : List Instr} (core : CoreId) (d a b : BitVec 5) (s : State) (hI : Intact pq s) (t : State) (ht : execMax core d a b s = .next t) : Intact pq t := by
  unfold execMax at ht
  obtain rfl := Host.Outcome.next.inj ht
  repeat' first | with_reducible assumption | with_reducible apply tileStep_intact

theorem execAbs_intact {pq : List Instr} (core : CoreId) (d a : BitVec 5) (s : State) (hI : Intact pq s) (t : State) (ht : execAbs core d a s = .next t) : Intact pq t := by
  unfold execAbs at ht
  obtain rfl := Host.Outcome.next.inj ht
  repeat' first | with_reducible assumption | with_reducible apply tileStep_intact

theorem execNeg_intact {pq : List Instr} (core : CoreId) (d a : BitVec 5) (s : State) (hI : Intact pq s) (t : State) (ht : execNeg core d a s = .next t) : Intact pq t := by
  unfold execNeg at ht
  obtain rfl := Host.Outcome.next.inj ht
  repeat' first | with_reducible assumption | with_reducible apply tileStep_intact

theorem execScale_intact {pq : List Instr} (core : CoreId) (d a b : BitVec 5) (s : State) (hI : Intact pq s) (t : State) (ht : execScale core d a b s = .next t) : Intact pq t := by
  unfold execScale at ht
  obtain rfl := Host.Outcome.next.inj ht
  repeat' first | with_reducible assumption | with_reducible apply tileStep_intact

theorem execFloor_intact {pq : List Instr} (core : CoreId) (d a : BitVec 5) (s : State) (hI : Intact pq s) (t : State) (ht : execFloor core d a s = .next t) : Intact pq t := by
  unfold execFloor at ht
  obtain rfl := Host.Outcome.next.inj ht
  repeat' first | with_reducible assumption | with_reducible apply tileStep_intact

theorem execCmplt_intact {pq : List Instr} (core : CoreId) (d a b : BitVec 5) (s : State) (hI : Intact pq s) (t : State) (ht : execCmplt core d a b s = .next t) : Intact pq t := by
  unfold execCmplt at ht
  obtain rfl := Host.Outcome.next.inj ht
  repeat' first | with_reducible assumption | with_reducible apply tileStep_intact

theorem execCmple_intact {pq : List Instr} (core : CoreId) (d a b : BitVec 5) (s : State) (hI : Intact pq s) (t : State) (ht : execCmple core d a b s = .next t) : Intact pq t := by
  unfold execCmple at ht
  obtain rfl := Host.Outcome.next.inj ht
  repeat' first | with_reducible assumption | with_reducible apply tileStep_intact

theorem execCmpeq_intact {pq : List Instr} (core : CoreId) (d a b : BitVec 5) (s : State) (hI : Intact pq s) (t : State) (ht : execCmpeq core d a b s = .next t) : Intact pq t := by
  unfold execCmpeq at ht
  obtain rfl := Host.Outcome.next.inj ht
  repeat' first | with_reducible assumption | with_reducible apply tileStep_intact

theorem execSel_intact {pq : List Instr} (core : CoreId) (d a b c : BitVec 5) (s : State) (hI : Intact pq s) (t : State) (ht : execSel core d a b c s = .next t) : Intact pq t := by
  unfold execSel at ht
  obtain rfl := Host.Outcome.next.inj ht
  repeat' first | with_reducible assumption | with_reducible apply tileStep_intact

theorem execIsfin_intact {pq : List Instr} (core : CoreId) (d a : BitVec 5) (s : State) (hI : Intact pq s) (t : State) (ht : execIsfin core d a s = .next t) : Intact pq t := by
  unfold execIsfin at ht
  obtain rfl := Host.Outcome.next.inj ht
  repeat' first | with_reducible assumption | with_reducible apply tileStep_intact

theorem execRcp_intact {pq : List Instr} (core : CoreId) (d a : BitVec 5) (s : State) (hI : Intact pq s) (t : State) (ht : execRcp core d a s = .next t) : Intact pq t := by
  unfold execRcp at ht
  obtain rfl := Host.Outcome.next.inj ht
  repeat' first | with_reducible assumption | with_reducible apply tileStep_intact

theorem execSqrt_intact {pq : List Instr} (core : CoreId) (d a : BitVec 5) (s : State) (hI : Intact pq s) (t : State) (ht : execSqrt core d a s = .next t) : Intact pq t := by
  unfold execSqrt at ht
  obtain rfl := Host.Outcome.next.inj ht
  repeat' first | with_reducible assumption | with_reducible apply tileStep_intact

theorem execRsqrt_intact {pq : List Instr} (core : CoreId) (d a : BitVec 5) (s : State) (hI : Intact pq s) (t : State) (ht : execRsqrt core d a s = .next t) : Intact pq t := by
  unfold execRsqrt at ht
  obtain rfl := Host.Outcome.next.inj ht
  repeat' first | with_reducible assumption | with_reducible apply tileStep_intact

theorem execExp_intact {pq : List Instr} (core : CoreId) (d a : BitVec 5) (s : State) (hI : Intact pq s) (t : State) (ht : execExp core d a s = .next t) : Intact pq t := by
  unfold execExp at ht
  obtain rfl := Host.Outcome.next.inj ht
  repeat' first | with_reducible assumption | with_reducible apply tileStep_intact

theorem execExp2_intact {pq : List Instr} (core : CoreId) (d a : BitVec 5) (s : State) (hI : Intact pq s) (t : State) (ht : execExp2 core d a s = .next t) : Intact pq t := by
  unfold execExp2 at ht
  obtain rfl := Host.Outcome.next.inj ht
  repeat' first | with_reducible assumption | with_reducible apply tileStep_intact

theorem execLog_intact {pq : List Instr} (core : CoreId) (d a : BitVec 5) (s : State) (hI : Intact pq s) (t : State) (ht : execLog core d a s = .next t) : Intact pq t := by
  unfold execLog at ht
  obtain rfl := Host.Outcome.next.inj ht
  repeat' first | with_reducible assumption | with_reducible apply tileStep_intact

theorem execLog2_intact {pq : List Instr} (core : CoreId) (d a : BitVec 5) (s : State) (hI : Intact pq s) (t : State) (ht : execLog2 core d a s = .next t) : Intact pq t := by
  unfold execLog2 at ht
  obtain rfl := Host.Outcome.next.inj ht
  repeat' first | with_reducible assumption | with_reducible apply tileStep_intact

theorem execTanh_intact {pq : List Instr} (core : CoreId) (d a : BitVec 5) (s : State) (hI : Intact pq s) (t : State) (ht : execTanh core d a s = .next t) : Intact pq t := by
  unfold execTanh at ht
  obtain rfl := Host.Outcome.next.inj ht
  repeat' first | with_reducible assumption | with_reducible apply tileStep_intact

theorem execSigm_intact {pq : List Instr} (core : CoreId) (d a : BitVec 5) (s : State) (hI : Intact pq s) (t : State) (ht : execSigm core d a s = .next t) : Intact pq t := by
  unfold execSigm at ht
  obtain rfl := Host.Outcome.next.inj ht
  repeat' first | with_reducible assumption | with_reducible apply tileStep_intact

theorem execRamax_intact {pq : List Instr} (core : CoreId) (d a : BitVec 5) (s : State) (hI : Intact pq s) (t : State) (ht : execRamax core d a s = .next t) : Intact pq t := by
  unfold execRamax at ht
  obtain rfl := Host.Outcome.next.inj ht
  repeat' first | with_reducible assumption | with_reducible apply tileStep_intact

theorem execRsum_intact {pq : List Instr} (core : CoreId) (d a : BitVec 5) (m : BitVec 6) (s : State) (hI : Intact pq s) (t : State) (ht : execRsum core d a m s = .next t) : Intact pq t := by
  unfold execRsum at ht
  obtain rfl := Host.Outcome.next.inj ht
  repeat' first | with_reducible assumption | with_reducible apply tileStep_intact

theorem execRmax_intact {pq : List Instr} (core : CoreId) (d a : BitVec 5) (s : State) (hI : Intact pq s) (t : State) (ht : execRmax core d a s = .next t) : Intact pq t := by
  unfold execRmax at ht
  obtain rfl := Host.Outcome.next.inj ht
  repeat' first | with_reducible assumption | with_reducible apply tileStep_intact

theorem execRmin_intact {pq : List Instr} (core : CoreId) (d a : BitVec 5) (s : State) (hI : Intact pq s) (t : State) (ht : execRmin core d a s = .next t) : Intact pq t := by
  unfold execRmin at ht
  obtain rfl := Host.Outcome.next.inj ht
  repeat' first | with_reducible assumption | with_reducible apply tileStep_intact

theorem execRsumsq_intact {pq : List Instr} (core : CoreId) (d a : BitVec 5) (m : BitVec 6) (s : State) (hI : Intact pq s) (t : State) (ht : execRsumsq core d a m s = .next t) : Intact pq t := by
  unfold execRsumsq at ht
  obtain rfl := Host.Outcome.next.inj ht
  repeat' first | with_reducible assumption | with_reducible apply tileStep_intact

theorem execCsum_intact {pq : List Instr} (core : CoreId) (a : BitVec 5) (m : BitVec 6) (s : State) (hI : Intact pq s) (t : State) (ht : execCsum core a m s = .next t) : Intact pq t := by
  unfold execCsum at ht
  obtain rfl := Host.Outcome.next.inj ht
  repeat' first | with_reducible assumption | with_reducible apply tileStep_intact

theorem execCmax_intact {pq : List Instr} (core : CoreId) (a : BitVec 5) (m : BitVec 6) (s : State) (hI : Intact pq s) (t : State) (ht : execCmax core a m s = .next t) : Intact pq t := by
  unfold execCmax at ht
  obtain rfl := Host.Outcome.next.inj ht
  repeat' first | with_reducible assumption | with_reducible apply tileStep_intact

theorem execCget_intact {pq : List Instr} (core : CoreId) (d : BitVec 5) (m : BitVec 6) (s : State) (hI : Intact pq s) (t : State) (ht : execCget core d m s = .next t) : Intact pq t := by
  unfold execCget at ht
  obtain rfl := Host.Outcome.next.inj ht
  repeat' first | with_reducible assumption | with_reducible apply tileStep_intact

theorem execCvt_intact {pq : List Instr} (core : CoreId) (d a : BitVec 5) (m : BitVec 6) (s : State) (hI : Intact pq s) (t : State) (ht : execCvt core d a m s = .next t) : Intact pq t := by
  unfold execCvt at ht
  obtain rfl := Host.Outcome.next.inj ht
  repeat' first | with_reducible assumption | with_reducible apply tileStep_intact

theorem execRscale_intact {pq : List Instr} (core : CoreId) (d a : BitVec 5) (m : BitVec 6) (s : State) (hI : Intact pq s) (t : State) (ht : execRscale core d a m s = .next t) : Intact pq t := by
  unfold execRscale at ht
  obtain rfl := Host.Outcome.next.inj ht
  repeat' first | with_reducible assumption | with_reducible apply tileStep_intact

theorem execBscale_intact {pq : List Instr} (core : CoreId) (d a : BitVec 5) (s : State) (hI : Intact pq s) (t : State) (ht : execBscale core d a s = .next t) : Intact pq t := by
  unfold execBscale at ht
  obtain rfl := Host.Outcome.next.inj ht
  repeat' first | with_reducible assumption | with_reducible apply tileStep_intact

theorem execTileSend_intact {pq : List Instr} (core : CoreId) (m : BitVec 6) (s : State) (hI : Intact pq s) (t : State) (ht : execTileSend core m s = .next t) : Intact pq t := by
  unfold execTileSend at ht
  obtain rfl := Host.Outcome.next.inj ht
  repeat' first | with_reducible assumption | with_reducible apply tileStep_intact

end Sys2Proof.Machine
end

