-- ==== Sys2Proof/Laws/IntactAlmanac.lean ====
section
/-! SUPPORT. Ingest, the almanac and maintenance of memory: each keeps the queue and every memory (Intact). -/

namespace Sys2Proof.Machine

set_option maxRecDepth 4000

/-! ## Machine/Ingest.lean -/

theorem askGo_intact {pq : List Instr} (fn tag total : Nat) (x0 : Nat) (s : State) (hI : Intact pq s) : Intact pq (askGo fn tag total x0 s) := by
  fun_induction askGo fn tag total x0 s
  all_goals (repeat' first | with_reducible assumption | with_reducible refine (‹Intact _ _ → Intact _ _› : _) ?_ | with_reducible apply State.emit_intact | with_reducible apply State.updStep_intact | fail_if_no_progress with_reducible apply Intact.rebuild)

theorem askRows_intact {pq : List Instr} (fn tag : Nat) (s : State) (hI : Intact pq s) : Intact pq (askRows fn tag s) := by
  unfold askRows
  try dsimp only
  repeat' first | with_reducible assumption | with_reducible apply failStep_intact | with_reducible apply raise_intact | with_reducible apply askGo_intact | split

theorem ingestSettle_intact {pq : List Instr} (fn tag : Nat) (finds : List LineFind) (s : State) (hI : Intact pq s) : Intact pq (ingestSettle fn tag finds s) := by
  unfold ingestSettle
  try dsimp only
  repeat' first | with_reducible assumption | with_reducible apply writeBytes_intact | with_reducible apply tasksMayEnd_intact | with_reducible apply State.updStep_intact | with_reducible apply failStep_intact | split | with_reducible refine Intact.snd (by assumption) ?_

theorem ingestPiece_intact {pq : List Instr} (fn tag offset : Nat) (bs : Bytes) (finds : List LineFind) (s : State) (hI : Intact pq s) : Intact pq (ingestPiece fn tag offset bs finds s) := by
  unfold ingestPiece
  repeat' first | with_reducible assumption | with_reducible apply ingestSettle_intact | with_reducible apply askRows_intact | with_reducible apply State.updStep_intact

theorem writeTickets_intact {pq : List Instr} (inst tag : Nat) (bubble : Bool) (st : Stall) (im : Image) (pr : Program) (s : State) (hI : Intact pq s) : Intact pq (writeTickets inst tag bubble st im pr s) := by
  unfold writeTickets
  repeat' first | with_reducible assumption | with_reducible apply State.updStep_intact | with_reducible apply forEach_intact | with_reducible apply State.updAdapter_intact | with_reducible apply writeFor_intact | split | intro _

theorem writeBubble_intact {pq : List Instr} (st : Stall) (im : Image) (pr : Program) (p : Step) (s : State) (hI : Intact pq s) : Intact pq (writeBubble st im pr p s) := by
  unfold writeBubble
  repeat' first | with_reducible assumption | with_reducible apply forEach_intact | with_reducible apply writePreload_intact | with_reducible apply Intact.cond | intro _

/-! ## Machine/Almanac.lean -/

theorem refuseStep_intact {pq : List Instr} (inst tag : Nat) (hot : Bool) (s : State) (hI : Intact pq s) : Intact pq (refuseStep inst tag hot s) := by
  unfold refuseStep
  repeat' first | with_reducible assumption | with_reducible apply finishStep_intact | with_reducible apply State.updInst_intact | split

theorem gapCheck_intact {pq : List Instr} (inst : Nat) (s : State) (hI : Intact pq s) : Intact pq (gapCheck inst s) := by
  unfold gapCheck
  try dsimp only
  repeat' first | with_reducible assumption | with_reducible apply forEach_intact | with_reducible apply setGap_intact | with_reducible apply endStep_intact | with_reducible apply State.updObj_intact | split | intro _

theorem lend_intact {pq : List Instr} (inst slot occ length : Nat) (st : Stall) (s : State) (hI : Intact pq s) : Intact pq (lend inst slot occ length st s) := by
  unfold lend
  repeat' first | with_reducible assumption | with_reducible apply State.updStall_intact | with_reducible apply Intact.cond | intro _

theorem accept_intact {pq : List Instr} (inst slot occ start : Nat) (sl : Slot) (st : Stall) (im : Image) (pr : Program) (p : Step) (s : State) (hI : Intact pq s) : Intact pq (accept inst slot occ start sl st im pr p s) := by
  unfold accept
  repeat' first | with_reducible assumption | with_reducible apply State.updStall_intact | with_reducible apply State.updStep_intact | with_reducible apply startFetches_intact | with_reducible apply writeTickets_intact

theorem refuseWaiting_intact {pq : List Instr} (inst program : Nat) (hot : Bool) (s : State) (hI : Intact pq s) : Intact pq (refuseWaiting inst program hot s) := by
  unfold refuseWaiting
  repeat' first | with_reducible assumption | with_reducible apply forEach_intact | with_reducible apply refuseStep_intact | split | intro _

theorem decide__intact {pq : List Instr} (inst slot occ start : Nat) (sl : Slot) (st : Stall) (im : Image) (pr : Program) (s : State) (hI : Intact pq s) : Intact pq (decide_ inst slot occ start sl st im pr s) := by
  unfold decide_
  try dsimp only
  repeat' first | with_reducible assumption | with_reducible apply lend_intact | with_reducible apply refuseWaiting_intact | with_reducible apply park_intact | with_reducible apply accept_intact | split

theorem decisionAt_intact {pq : List Instr} (inst slot occ : Nat) (s : State) (hI : Intact pq s) : Intact pq (decisionAt inst slot occ s) := by
  unfold decisionAt
  try dsimp only
  repeat' first | with_reducible assumption | with_reducible apply decide__intact | with_reducible apply lend_intact | with_reducible apply gapCheck_intact | with_reducible apply stepBoundary_intact | split

theorem execDecisionPoint_intact {pq : List Instr} (fn : FnId) (slot occ : Nat) (s : State) (hI : Intact pq s) (t : State) (ht : execDecisionPoint fn slot occ s = .next t) : Intact pq t := by
  unfold execDecisionPoint at ht
  obtain rfl := Host.Outcome.next.inj ht
  repeat' first | with_reducible assumption | with_reducible apply decisionAt_intact

theorem clearClips_intact {pq : List Instr} (inst : Nat) (bubble : Bool) (s : State) (hI : Intact pq s) : Intact pq (clearClips inst bubble s) := by
  unfold clearClips
  repeat' first | with_reducible assumption | with_reducible apply State.updInst_intact

theorem occurrenceAt_intact {pq : List Instr} (inst slot occ : Nat) (s : State) (hI : Intact pq s) : Intact pq (occurrenceAt inst slot occ s) := by
  unfold occurrenceAt
  repeat' first | with_reducible assumption | with_reducible apply clearClips_intact | with_reducible apply renewRealTime_intact | with_reducible apply State.updStep_intact | with_reducible apply askRows_intact | with_reducible apply startTasks_intact | split

theorem execOccurrenceStart_intact {pq : List Instr} (fn : FnId) (slot occ : Nat) (s : State) (hI : Intact pq s) (t : State) (ht : execOccurrenceStart fn slot occ s = .next t) : Intact pq t := by
  unfold execOccurrenceStart at ht
  obtain rfl := Host.Outcome.next.inj ht
  repeat' first | with_reducible assumption | with_reducible apply occurrenceAt_intact

theorem slotEnd_intact {pq : List Instr} (inst slot occ : Nat) (s : State) (hI : Intact pq s) : Intact pq (slotEnd inst slot occ s) := by
  unfold slotEnd
  try dsimp only
  repeat' first | with_reducible assumption | with_reducible apply State.updStall_intact | with_reducible apply stepBoundary_intact | with_reducible apply failStep_intact | with_reducible apply raise_intact | split

theorem execSlotEndStop_intact {pq : List Instr} (fn : FnId) (slot occ : Nat) (s : State) (hI : Intact pq s) (t : State) (ht : execSlotEndStop fn slot occ s = .next t) : Intact pq t := by
  unfold execSlotEndStop at ht
  obtain rfl := Host.Outcome.next.inj ht
  repeat' first | with_reducible assumption | with_reducible apply slotEnd_intact

theorem finishMoves_intact {pq : List Instr} (core : Nat) (x0 : Nat) (s : State) (hI : Intact pq s) : Intact pq (finishMoves core x0 s) := by
  fun_induction finishMoves core x0 s
  all_goals (repeat' first | with_reducible assumption | with_reducible refine (‹Intact _ _ → Intact _ _› : _) ?_ | with_reducible apply predictedRun_intact | with_reducible apply moverSettle_intact | with_reducible apply moveRun_intact | with_reducible apply bringIn_intact | with_reducible apply takeOut_intact | with_reducible apply Intact.cond | intro _)

theorem spillCore_intact {pq : List Instr} (start core : Nat) (s : State) (h : Intact pq s) : Intact pq (spillCore start core s) := by
  unfold spillCore
  exact State.updCore_intact _ _ h (fun c hc => Core.memWf_some rfl (Core.memWf_sram (c := c) hc) (Mem.wf_filter _ _ (Core.memWf_sram (c := c) hc)))

theorem restoreCore_intact {pq : List Instr} (start core : Nat) (s : State) (h : Intact pq s) : Intact pq (restoreCore start core s) := by
  unfold restoreCore
  refine State.updCore_intact _ _ h (fun c hc => ?_)
  split
  · next sp hs => exact Core.memWf_none rfl (Mem.wf_splice _ _ _ (Core.memWf_spilled hc hs) (Core.memWf_sram (c := c) hc))
  · exact hc

theorem suspend_intact {pq : List Instr} (inst : Nat) (s : State) (hI : Intact pq s) : Intact pq (suspend inst s) := by
  unfold suspend
  repeat' first | with_reducible assumption | with_reducible apply forEach_intact | with_reducible apply finishMoves_intact | with_reducible apply spillCore_intact | with_reducible apply State.updStall_intact | split | intro _

theorem execBubbleSuspend_intact {pq : List Instr} (fn : FnId) (s : State) (hI : Intact pq s) (t : State) (ht : execBubbleSuspend fn s = .next t) : Intact pq t := by
  unfold execBubbleSuspend at ht
  obtain rfl := Host.Outcome.next.inj ht
  repeat' first | with_reducible assumption | with_reducible apply suspend_intact | split

theorem resume_intact {pq : List Instr} (inst : Nat) (s : State) (hI : Intact pq s) : Intact pq (resume inst s) := by
  unfold resume
  repeat' first | with_reducible assumption | with_reducible apply forEach_intact | with_reducible apply restoreCore_intact | with_reducible apply State.updStall_intact | split

theorem execBubbleResume_intact {pq : List Instr} (fn : FnId) (s : State) (hI : Intact pq s) (t : State) (ht : execBubbleResume fn s = .next t) : Intact pq t := by
  unfold execBubbleResume at ht
  obtain rfl := Host.Outcome.next.inj ht
  repeat' first | with_reducible assumption | with_reducible apply resume_intact

theorem startSubstep_intact {pq : List Instr} (inst : Nat) (im : Image) (pr : Program) (tag k : Nat) (s : State) (hI : Intact pq s) : Intact pq (startSubstep inst im pr tag k s) := by
  unfold startSubstep
  repeat' first | with_reducible assumption | with_reducible apply startTasks_intact | with_reducible apply State.updStep_intact

theorem startBubble_intact {pq : List Instr} (inst : Nat) (st : Stall) (im : Image) (p : Step) (s : State) (hI : Intact pq s) : Intact pq (startBubble inst st im p s) := by
  unfold startBubble
  repeat' first | with_reducible assumption | with_reducible apply refuseStep_intact | with_reducible apply park_intact | with_reducible apply writeBubble_intact | with_reducible apply clearClips_intact | with_reducible apply State.updStep_intact | with_reducible apply askRows_intact | with_reducible apply startSubstep_intact | with_reducible apply writeTickets_intact | split

theorem substepStart_intact {pq : List Instr} (inst : Nat) (s : State) (hI : Intact pq s) : Intact pq (substepStart inst s) := by
  unfold substepStart
  repeat' first | with_reducible assumption | with_reducible apply startSubstep_intact | with_reducible apply startBubble_intact | split

theorem execBubbleSubstepStart_intact {pq : List Instr} (fn : FnId) (s : State) (hI : Intact pq s) (t : State) (ht : execBubbleSubstepStart fn s = .next t) : Intact pq t := by
  unfold execBubbleSubstepStart at ht
  obtain rfl := Host.Outcome.next.inj ht
  repeat' first | with_reducible assumption | with_reducible apply substepStart_intact | with_reducible apply stepBoundary_intact | with_reducible apply startReshards_intact

theorem refitWaiting_intact {pq : List Instr} (inst : Nat) (s : State) (hI : Intact pq s) : Intact pq (refitWaiting inst s) := by
  unfold refitWaiting
  repeat' first | with_reducible assumption | with_reducible apply forEach_intact | with_reducible apply endStep_intact | split | intro _

theorem almanacSwitch_intact {pq : List Instr} (inst : Nat) (s : State) (hI : Intact pq s) : Intact pq (almanacSwitch inst s) := by
  unfold almanacSwitch
  repeat' first | with_reducible assumption | with_reducible apply State.updInst_intact | with_reducible apply State.updStall_intact | with_reducible apply refitWaiting_intact | with_reducible apply finish_intact | split

theorem execAlmanacSwitch_intact {pq : List Instr} (fn : FnId) (s : State) (hI : Intact pq s) (t : State) (ht : execAlmanacSwitch fn s = .next t) : Intact pq t := by
  unfold execAlmanacSwitch at ht
  obtain rfl := Host.Outcome.next.inj ht
  repeat' first | with_reducible assumption | with_reducible apply almanacSwitch_intact

theorem countSteps_intact {pq : List Instr} (g rate : Nat) (s : State) (hI : Intact pq s) : Intact pq (countSteps g rate s) := by
  unfold countSteps
  repeat' first | with_reducible assumption | with_reducible apply forEach_intact | with_reducible apply State.updCore_intact | with_reducible apply Intact.cond | exact Core.memWf_of (by assumption) rfl rfl | intro _

theorem speedFault_intact {pq : List Instr} (g : Nat) (s : State) (hI : Intact pq s) : Intact pq (speedFault g s) := by
  unfold speedFault
  try dsimp only
  repeat' first | with_reducible assumption | with_reducible apply groupOut_intact | with_reducible apply State.updGroup_intact | with_reducible apply stopCores_intact | with_reducible apply forEach_intact | with_reducible apply failStep_intact | split | intro _

theorem measure_intact {pq : List Instr} (g rate : Nat) (s : State) (hI : Intact pq s) : Intact pq (measure g rate s) := by
  unfold measure
  repeat' first | with_reducible assumption | with_reducible apply State.updGroup_intact | with_reducible apply countSteps_intact | with_reducible apply speedFault_intact | with_reducible apply Intact.cond | intro _

theorem execTransitMeasurement_intact {pq : List Instr} (group : GroupId) (rate : BitVec 16) (s : State) (hI : Intact pq s) (t : State) (ht : execTransitMeasurement group rate s = .next t) : Intact pq t := by
  unfold execTransitMeasurement at ht
  obtain rfl := Host.Outcome.next.inj ht
  repeat' first | with_reducible assumption | with_reducible apply measure_intact

theorem shed_intact {pq : List Instr} (s : State) (hI : Intact pq s) : Intact pq (shed s) := by
  unfold shed
  repeat' first | with_reducible assumption | with_reducible apply forEach_intact | with_reducible apply suspend_intact | with_reducible apply State.updStall_intact | split | intro _

theorem heatChanged_intact {pq : List Instr} (s : State) (hI : Intact pq s) : Intact pq (heatChanged s) := by
  unfold heatChanged
  repeat' first | with_reducible assumption | with_reducible apply shed_intact | with_reducible apply followAllHeat_intact | with_reducible apply followLevels_intact

theorem execGroupThermalLevel_intact {pq : List Instr} (group : GroupId) (tenths : Nat) (s : State) (hI : Intact pq s) (t : State) (ht : execGroupThermalLevel group tenths s = .next t) : Intact pq t := by
  unfold execGroupThermalLevel at ht
  obtain rfl := Host.Outcome.next.inj ht
  repeat' first | with_reducible assumption | with_reducible apply heatChanged_intact | with_reducible apply State.updGroup_intact

theorem execStackThermalLevel_intact {pq : List Instr} (stack : Fin 12) (tenths : Nat) (s : State) (hI : Intact pq s) (t : State) (ht : execStackThermalLevel stack tenths s = .next t) : Intact pq t := by
  unfold execStackThermalLevel at ht
  obtain rfl := Host.Outcome.next.inj ht
  repeat' first | with_reducible assumption | with_reducible apply heatChanged_intact | fail_if_no_progress with_reducible apply Intact.rebuild

theorem execAdapterResident_intact {pq : List Instr} (fn : FnId) (adapter : BitVec 32) (outcome : FetchEnd) (s : State) (hI : Intact pq s) (t : State) (ht : execAdapterResident fn adapter outcome s = .next t) : Intact pq t := by
  unfold execAdapterResident at ht
  obtain rfl := Host.Outcome.next.inj ht
  repeat' first | with_reducible assumption | with_reducible apply fetchFails_intact | with_reducible apply fetchArrives_intact | split

theorem execEarlyRead_intact {pq : List Instr} (fn : FnId) (adapter : BitVec 32) (s : State) (hI : Intact pq s) (t : State) (ht : execEarlyRead fn adapter s = .next t) : Intact pq t := by
  unfold execEarlyRead at ht
  obtain rfl := Host.Outcome.next.inj ht
  repeat' first | with_reducible assumption | with_reducible apply placeFetch_intact | split

theorem execExpertPredictedFetch_intact {pq : List Instr} (core : CoreId) (sram : BitVec 19) (len : BitVec 24) (mem : BitVec 48) (s : State) (hI : Intact pq s) (t : State) (ht : execExpertPredictedFetch core sram len mem s = .next t) : Intact pq t := by
  unfold execExpertPredictedFetch at ht
  obtain rfl := Host.Outcome.next.inj ht
  repeat' first | with_reducible assumption | with_reducible apply queueMove_intact | with_reducible apply State.updWork_intact | split

/-! ## Machine/MemMaint.lean -/

theorem execMaintActivityStart_intact {pq : List Instr} (id : Nat) (s : State) (hI : Intact pq s) (t : State) (ht : execMaintActivityStart id s = .next t) : Intact pq t := by
  unfold execMaintActivityStart at ht
  obtain rfl := Host.Outcome.next.inj ht
  repeat' first | with_reducible assumption | with_reducible apply startAct_intact | split

theorem endGroupTest_intact {pq : List Instr} (g : Nat) (repaired degraded : Bool) (s : State) (hI : Intact pq s) : Intact pq (endGroupTest g repaired degraded s) := by
  unfold endGroupTest
  repeat' first | with_reducible assumption | with_reducible apply forEach_intact | with_reducible apply raiseDev_intact | with_reducible apply State.updCore_intact | with_reducible apply State.updGroup_intact | with_reducible apply speedFault_intact | with_reducible apply Intact.cond | exact Core.memWf_of (by assumption) rfl rfl | intro _

theorem endUpdate_intact {pq : List Instr} (a : Act) (s : State) (hI : Intact pq s) : Intact pq (endUpdate a s) := by
  unfold endUpdate
  repeat' first | with_reducible assumption | with_reducible apply endAct_intact | with_reducible apply State.updSys_intact | with_reducible apply finishMaint_intact | split

theorem execMaintActivityEnd_intact {pq : List Instr} (id : Nat) (result : BitVec 128) (s : State) (hI : Intact pq s) (t : State) (ht : execMaintActivityEnd id result s = .next t) : Intact pq t := by
  unfold execMaintActivityEnd at ht
  obtain rfl := Host.Outcome.next.inj ht
  repeat' first | with_reducible assumption | with_reducible apply endAct_intact | with_reducible apply endGroupTest_intact | with_reducible apply finishMaint_intact | with_reducible apply endUpdate_intact | split

theorem execMeasurementHoldEnd_intact {pq : List Instr} (id : Nat) (s : State) (hI : Intact pq s) (t : State) (ht : execMeasurementHoldEnd id s = .next t) : Intact pq t := by
  unfold execMeasurementHoldEnd at ht
  obtain rfl := Host.Outcome.next.inj ht
  repeat' first | with_reducible assumption | with_reducible apply finishMaint_intact | with_reducible apply endAct_intact | split

theorem pageMove_intact {pq : List Instr} (inst page : Nat) (dest : MoveTo) (s : State) (hI : Intact pq s) : Intact pq (pageMove inst page dest s) := by
  unfold pageMove
  try dsimp only
  repeat' first | with_reducible assumption | with_reducible apply declareAct_intact | with_reducible apply State.setPte_intact | split | fail_if_no_progress with_reducible apply Intact.rebuild

theorem execPageMove_intact {pq : List Instr} (inst : FnId) (page : Nat) (dest : MoveTo) (s : State) (hI : Intact pq s) (t : State) (ht : execPageMove inst page dest s = .next t) : Intact pq t := by
  unfold execPageMove at ht
  obtain rfl := Host.Outcome.next.inj ht
  repeat' first | with_reducible assumption | with_reducible apply pageMove_intact

theorem copyLines_intact {pq : List Instr} (inst key : Nat) (e e' : Pte) (ll0 : Nat) (finds : List LineFind) (s : State) (hI : Intact pq s) : Intact pq (copyLines inst key e e' ll0 finds s) := by
  unfold copyLines
  repeat' first | with_reducible assumption | with_reducible apply forEach_intact | with_reducible apply readStored_intact | with_reducible apply State.setLine_intact | split | intro _

theorem pageBlocks_intact {pq : List Instr} (inst key : Nat) (e : Pte) (ll0 : Nat) (finds : List LineFind) (s : State) (hI : Intact pq s) : Intact pq (pageBlocks inst key e ll0 finds s).2 := by
  unfold pageBlocks
  repeat' first | with_reducible assumption | with_reducible apply readPacked_intact | with_reducible apply readStoredRun_intact | split | with_reducible refine Intact.foldSnd _ ?_ _ _ ?_ | intro _

theorem storePage_intact {pq : List Instr} (e : Pte) (ll0 : Nat) (bs : Bytes) (bad : Nat → Bool) (s : State) (hI : Intact pq s) : Intact pq (storePage e ll0 bs bad s) := by
  unfold storePage
  repeat' first | with_reducible assumption | with_reducible apply forEach_intact | with_reducible apply State.setLine_intact | split | intro _

theorem recodePage_intact {pq : List Instr} (inst key : Nat) (e e0 : Pte) (ll0 : Nat) (finds : List LineFind) (s : State) (hI : Intact pq s) : Intact pq (recodePage inst key e e0 ll0 finds s).2 := by
  unfold recodePage
  try dsimp only
  repeat' first | with_reducible assumption | with_reducible apply pageBlocks_intact | with_reducible apply takeMap_intact | with_reducible apply storePage_intact | split

theorem pageMoveComplete_intact {pq : List Instr} (id : Nat) (finds : List LineFind) (s : State) (hI : Intact pq s) : Intact pq (pageMoveComplete id finds s) := by
  unfold pageMoveComplete
  try dsimp only
  repeat' first | with_reducible assumption | with_reducible apply copyLines_intact | with_reducible apply recodePage_intact | with_reducible apply zeroPage_intact | with_reducible apply State.setPte_intact | with_reducible apply endAct_intact | with_reducible apply addObj_intact | split | fail_if_no_progress with_reducible apply Intact.rebuild

theorem execPageMoveComplete_intact {pq : List Instr} (id : Nat) (finds : List LineFind) (s : State) (hI : Intact pq s) (t : State) (ht : execPageMoveComplete id finds s = .next t) : Intact pq t := by
  unfold execPageMoveComplete at ht
  obtain rfl := Host.Outcome.next.inj ht
  repeat' first | with_reducible assumption | with_reducible apply pageMoveComplete_intact

theorem rekeyPage_intact {pq : List Instr} (inst page : Nat) (s : State) (hI : Intact pq s) : Intact pq (rekeyPage inst page s) := by
  unfold rekeyPage
  try dsimp only
  repeat' first | with_reducible assumption | with_reducible apply markRekey_intact | with_reducible apply ensureRekey_intact | with_reducible apply startAct_intact | split

theorem execRekeyPage_intact {pq : List Instr} (inst : FnId) (page : Nat) (s : State) (hI : Intact pq s) (t : State) (ht : execRekeyPage inst page s = .next t) : Intact pq t := by
  unfold execRekeyPage at ht
  obtain rfl := Host.Outcome.next.inj ht
  repeat' first | with_reducible assumption | with_reducible apply rekeyPage_intact

theorem rekeyComplete_intact {pq : List Instr} (inst page : Nat) (finds : List LineFind) (s : State) (hI : Intact pq s) : Intact pq (rekeyComplete inst page finds s) := by
  unfold rekeyComplete
  repeat' first | with_reducible assumption | with_reducible apply forEach_intact | with_reducible apply rekeyLine_intact | with_reducible apply State.setPte_intact | with_reducible apply endAct_intact | split | fail_if_no_progress with_reducible apply Intact.rebuild | intro _

theorem execRekeyComplete_intact {pq : List Instr} (inst : FnId) (page : Nat) (finds : List LineFind) (s : State) (hI : Intact pq s) (t : State) (ht : execRekeyComplete inst page finds s = .next t) : Intact pq t := by
  unfold execRekeyComplete at ht
  obtain rfl := Host.Outcome.next.inj ht
  repeat' first | with_reducible assumption | with_reducible apply rekeyComplete_intact

theorem retryIngests_intact {pq : List Instr} (inst : Nat) (s : State) (hI : Intact pq s) : Intact pq (retryIngests inst s) := by
  unfold retryIngests
  repeat' first | with_reducible assumption | with_reducible apply forEach_intact | with_reducible apply ingestSettle_intact | intro _

theorem lineRekey_intact {pq : List Instr} (inst line : Nat) (s : State) (hI : Intact pq s) : Intact pq (lineRekey inst line s) := by
  unfold lineRekey
  try dsimp only
  repeat' first | with_reducible assumption | with_reducible apply retryIngests_intact | with_reducible apply rekeyLine_intact | split

theorem execLineRekeyComplete_intact {pq : List Instr} (inst : FnId) (line : Nat) (s : State) (hI : Intact pq s) (t : State) (ht : execLineRekeyComplete inst line s = .next t) : Intact pq t := by
  unfold execLineRekeyComplete at ht
  obtain rfl := Host.Outcome.next.inj ht
  repeat' first | with_reducible assumption | with_reducible apply lineRekey_intact

theorem scrubVisit_intact {pq : List Instr} (part : Nat) (f : LineFind) (s : State) (hI : Intact pq s) : Intact pq (scrubVisit part f s) := by
  unfold scrubVisit
  repeat' first | with_reducible assumption | with_reducible apply readStored_intact | with_reducible apply raiseDev_intact | with_reducible apply noteCorrections_intact | with_reducible apply sendToRetirement_intact | split

theorem execPatrolScrubVisit_intact {pq : List Instr} (part : Fin 28) (find : LineFind) (s : State) (hI : Intact pq s) (t : State) (ht : execPatrolScrubVisit part find s = .next t) : Intact pq t := by
  unfold execPatrolScrubVisit at ht
  try dsimp only at ht
  repeat' split at ht
  all_goals try cases ht
  all_goals (repeat' first | with_reducible assumption | with_reducible apply scrubVisit_intact)

theorem relocatePage_intact {pq : List Instr} (key : Nat) (s : State) (hI : Intact pq s) (t : State) (ht : relocatePage key s = some t) : Intact pq t := by
  unfold relocatePage at ht
  try dsimp only at ht
  repeat' split at ht
  all_goals try cases ht
  all_goals (repeat' first | with_reducible assumption | with_reducible apply zeroPage_intact | with_reducible apply copyLines_intact | with_reducible apply State.setPte_intact)

theorem relocateAll_intact {pq : List Instr}  (x0 : List Nat) (s : State) (hI : Intact pq s) (t : State) (ht : relocateAll  x0 s = some t) : Intact pq t := by
  fun_induction relocateAll  x0 s
  all_goals (try dsimp only at ht)
  all_goals (repeat' split at ht)
  all_goals (try cases ht)
  all_goals (repeat' first | with_reducible assumption | with_reducible refine (‹Intact _ _ → _ = some _ → Intact _ _› : _) ?_ (by assumption) | with_reducible refine relocatePage_intact (hI := ?_) (ht := by assumption) ..)

theorem spareRow_intact {pq : List Instr} (part row : Nat) (s : State) (hI : Intact pq s) : Intact pq (spareRow part row s) := by
  unfold spareRow
  repeat' first | with_reducible assumption | with_reducible apply raiseDev_intact | with_reducible apply Intact.cond | fail_if_no_progress with_reducible apply Intact.rebuild | intro _

theorem retireFrame_intact {pq : List Instr} (part frame : Nat) (row : Option Nat) (s : State) (hI : Intact pq s) : Intact pq (retireFrame part frame row s) := by
  unfold retireFrame
  try dsimp only
  repeat' first | with_reducible assumption | with_reducible refine relocateAll_intact (hI := ?_) (ht := by assumption) .. | with_reducible apply endAct_intact | with_reducible apply raiseDev_intact | with_reducible apply spareRow_intact | split | fail_if_no_progress with_reducible apply Intact.rebuild

theorem execFrameRetirement_intact {pq : List Instr} (part : Fin 28) (frame : Nat) (sparedRow : Option Nat) (s : State) (hI : Intact pq s) (t : State) (ht : execFrameRetirement part frame sparedRow s = .next t) : Intact pq t := by
  unfold execFrameRetirement at ht
  try dsimp only at ht
  repeat' split at ht
  all_goals try cases ht
  all_goals (repeat' first | with_reducible assumption | with_reducible apply retireFrame_intact)

theorem execChannelRecal_intact {pq : List Instr} (part : Fin 28) (channel : BitVec 7) (s : State) (hI : Intact pq s) (t : State) (ht : execChannelRecal part channel s = .next t) : Intact pq t := by
  unfold execChannelRecal at ht
  obtain rfl := Host.Outcome.next.inj ht
  repeat' first | with_reducible assumption | with_reducible apply declareAct_intact | with_reducible apply raiseDev_intact | with_reducible apply startAct_intact | split

theorem execTenantScrub_intact {pq : List Instr} (part : Fin 28) (frame : Nat) (s : State) (hI : Intact pq s) (t : State) (ht : execTenantScrub part frame s = .next t) : Intact pq t := by
  unfold execTenantScrub at ht
  try dsimp only at ht
  repeat' split at ht
  all_goals try cases ht
  all_goals (repeat' first | with_reducible assumption | with_reducible apply zeroPage_intact | fail_if_no_progress with_reducible apply Intact.rebuild)

end Sys2Proof.Machine
end

