-- ==== Sys2Proof/Laws/IntactFabric.lean ====
section
/-! SUPPORT. The fabric and fine-tuning: each keeps the queue and every memory (Intact). -/

namespace Sys2Proof.Machine

set_option maxRecDepth 4000

/-! ## Machine/Fabric.lean -/

theorem sendLinkAck_intact {pq : List Instr} (port : Nat) (nak : Bool) (s : State) (hI : Intact pq s) : Intact pq (sendLinkAck port nak s) := by
  unfold sendLinkAck
  repeat' first | with_reducible assumption | with_reducible apply sendControl_intact | with_reducible apply State.updPort_intact

theorem damaged_intact {pq : List Instr} (port : Nat) (s : State) (hI : Intact pq s) : Intact pq (damaged port s) := by
  unfold damaged
  repeat' first | with_reducible assumption | with_reducible apply sendLinkAck_intact | with_reducible apply State.updPort_intact | with_reducible apply Intact.cond | intro _

theorem ackLink_intact {pq : List Instr} (port lack : Nat) (s : State) (hI : Intact pq s) : Intact pq (ackLink port lack s) := by
  unfold ackLink
  repeat' first | with_reducible assumption | with_reducible apply drainPort_intact | with_reducible apply State.updPort_intact

theorem dropOther_intact {pq : List Instr} (port : Nat) (s : State) (hI : Intact pq s) : Intact pq (dropOther port s) := by
  unfold dropOther
  repeat' first | with_reducible assumption | with_reducible apply State.updPort_intact

theorem dropTarget_intact {pq : List Instr} (port : Nat) (s : State) (hI : Intact pq s) : Intact pq (dropTarget port s) := by
  unfold dropTarget
  repeat' first | with_reducible assumption | with_reducible apply State.updPort_intact

theorem linkAccept_intact {pq : List Instr} (port : Nat) (f : RxFrame) (s : State) (hI : Intact pq s) : Intact pq (linkAccept port f s).2 := by
  unfold linkAccept
  try dsimp only
  repeat' first | with_reducible assumption | with_reducible apply State.updPort_intact | with_reducible apply damaged_intact | with_reducible apply ackLink_intact | split

theorem oweCredit_intact {pq : List Instr} (port pool : Nat) (s : State) (hI : Intact pq s) : Intact pq (oweCredit port pool s) := by
  unfold oweCredit
  repeat' first | with_reducible assumption | with_reducible apply State.updPort_intact

theorem forward_intact {pq : List Instr} (port pool : Nat) (h : Hdr) (payload : Bytes) (s : State) (hI : Intact pq s) : Intact pq (forward port pool h payload s) := by
  unfold forward
  repeat' first | with_reducible assumption | with_reducible apply oweCredit_intact | with_reducible apply dropOther_intact | with_reducible apply sendPathDown_intact | with_reducible apply State.updPort_intact | with_reducible apply sendFrame_intact | with_reducible apply Intact.cond | intro _

theorem onFrame_intact {pq : List Instr} (port typ : Nat) (f : RxFrame) (local_ : Hdr → State → State) (s : State) (hlocal_ : ∀ a0 s, Intact pq s → Intact pq (local_ a0 s)) (hI : Intact pq s) : Intact pq (onFrame port typ f local_ s) := by
  unfold onFrame
  repeat' first | with_reducible assumption | with_reducible apply hlocal_ | with_reducible apply linkAccept_intact | with_reducible apply oweCredit_intact | with_reducible apply dropOther_intact | with_reducible apply forward_intact | with_reducible apply Intact.cond | intro _

theorem updDst_intact {pq : List Instr} (flow : Nat) (g : FlowDst → FlowDst) (s : State) (hI : Intact pq s) : Intact pq (updDst flow g s) := by
  unfold updDst
  repeat' first | with_reducible assumption | fail_if_no_progress with_reducible apply Intact.rebuild

theorem answer_intact {pq : List Instr} (flow status : Nat) (s : State) (hI : Intact pq s) : Intact pq (answer flow status s) := by
  unfold answer
  repeat' first | with_reducible assumption | with_reducible apply sendE2eAck_intact | with_reducible apply updDst_intact | split

theorem flowFrame_intact {pq : List Instr} (port : Nat) (h : Hdr) (act : FlowDst → State → Nat × State) (s : State) (hact : ∀ a0 s, Intact pq s → Intact pq (act a0 s).2) (hI : Intact pq s) : Intact pq (flowFrame port h act s) := by
  unfold flowFrame
  try dsimp only
  repeat' first | with_reducible assumption | with_reducible apply hact | with_reducible apply dropOther_intact | with_reducible apply updDst_intact | with_reducible apply answer_intact | split

theorem refuseFrame_intact {pq : List Instr} (port status inst : Nat) (s : State) (hI : Intact pq s) : Intact pq (refuseFrame port status inst s).2 := by
  unfold refuseFrame
  repeat' first | with_reducible assumption | with_reducible apply lateDiscard_intact | with_reducible apply State.updPort_intact | with_reducible apply dropTarget_intact | with_reducible apply Intact.cond | intro _

theorem failRunning_intact {pq : List Instr} (inst : Nat) (bubble : Bool) (why : StopWhy) (s : State) (hI : Intact pq s) : Intact pq (failRunning inst bubble why s) := by
  unfold failRunning
  repeat' first | with_reducible assumption | with_reducible apply forEach_intact | with_reducible apply failStep_intact | with_reducible apply Intact.cond | intro _

theorem frameSignal_intact {pq : List Instr} (port : Nat) (d : FlowDst) (obj : Nat) (s : State) (hI : Intact pq s) : Intact pq (frameSignal port d obj s) := by
  unfold frameSignal
  repeat' first | with_reducible assumption | with_reducible apply dropTarget_intact | with_reducible apply carried_intact | with_reducible apply failRunning_intact | with_reducible apply Intact.cond | intro _

theorem dataLands_intact {pq : List Instr} (port : Nat) (h : Hdr) (payload : Bytes) (d : FlowDst) (s : State) (hI : Intact pq s) : Intact pq (dataLands port h payload d s).2 := by
  unfold dataLands
  try dsimp only
  repeat' first | with_reducible assumption | with_reducible apply refuseFrame_intact | with_reducible apply reshardData_intact | with_reducible apply writeFor_intact | with_reducible apply ledgerInto_intact | with_reducible apply markArrival_intact | with_reducible apply frameSignal_intact | split

theorem execDataFrame_intact {pq : List Instr} (port : Fin 96) (f : RxFrame) (s : State) (hI : Intact pq s) (t : State) (ht : execDataFrame port f s = .next t) : Intact pq t := by
  unfold execDataFrame at ht
  obtain rfl := Host.Outcome.next.inj ht
  repeat' first | with_reducible assumption | with_reducible apply onFrame_intact | with_reducible apply flowFrame_intact | with_reducible apply dataLands_intact | intro _

theorem signalLands_intact {pq : List Instr} (port : Nat) (h : Hdr) (d : FlowDst) (s : State) (hI : Intact pq s) : Intact pq (signalLands port h d s).2 := by
  unfold signalLands
  try dsimp only
  repeat' first | with_reducible assumption | with_reducible apply refuseFrame_intact | with_reducible apply frameSignal_intact | with_reducible apply State.updObj_intact | split

theorem execSignalFrame_intact {pq : List Instr} (port : Fin 96) (f : RxFrame) (s : State) (hI : Intact pq s) (t : State) (ht : execSignalFrame port f s = .next t) : Intact pq t := by
  unfold execSignalFrame at ht
  obtain rfl := Host.Outcome.next.inj ht
  repeat' first | with_reducible assumption | with_reducible apply onFrame_intact | with_reducible apply flowFrame_intact | with_reducible apply signalLands_intact | intro _

theorem failColl_intact {pq : List Instr} (inst : Nat) (c : Coll) (s : State) (hI : Intact pq s) : Intact pq (failColl inst c s) := by
  unfold failColl
  repeat' first | with_reducible assumption | with_reducible apply failRunning_intact | with_reducible apply raise_intact | fail_if_no_progress with_reducible apply Intact.rebuild

theorem collCoded_intact {pq : List Instr} (inst : Nat) (c : Coll) (m : Nat) (payload : Bytes) (s : State) (hI : Intact pq s) : Intact pq (collCoded inst c m payload s) := by
  unfold collCoded
  repeat' first | with_reducible assumption | with_reducible apply forEach_intact | with_reducible apply collPut_intact | with_reducible apply writeFor_intact | with_reducible apply updRun_intact | split | intro _

theorem collLands_intact {pq : List Instr} (port : Nat) (h : Hdr) (payload : Bytes) (d : FlowDst) (s : State) (hI : Intact pq s) : Intact pq (collLands port h payload d s).2 := by
  unfold collLands
  try dsimp only
  repeat' first | with_reducible assumption | with_reducible apply refuseFrame_intact | with_reducible apply failColl_intact | with_reducible apply ensureColl_intact | with_reducible apply collCoded_intact | with_reducible apply updRun_intact | with_reducible apply writeFor_intact | with_reducible apply markArrival_intact | with_reducible apply collPut_intact | split

theorem execCollFrame_intact {pq : List Instr} (port : Fin 96) (f : RxFrame) (s : State) (hI : Intact pq s) (t : State) (ht : execCollFrame port f s = .next t) : Intact pq t := by
  unfold execCollFrame at ht
  obtain rfl := Host.Outcome.next.inj ht
  repeat' first | with_reducible assumption | with_reducible apply onFrame_intact | with_reducible apply flowFrame_intact | with_reducible apply collLands_intact | intro _

theorem execCollectiveComplete_intact {pq : List Instr} (fn : FnId) (coll : BitVec 16) (s : State) (hI : Intact pq s) (t : State) (ht : execCollectiveComplete fn coll s = .next t) : Intact pq t := by
  unfold execCollectiveComplete at ht
  obtain rfl := Host.Outcome.next.inj ht
  try dsimp only
  repeat' first | with_reducible assumption | with_reducible apply addObj_intact | with_reducible apply failRunning_intact | split | fail_if_no_progress with_reducible apply Intact.rebuild

theorem execCollectiveTimeout_intact {pq : List Instr} (fn : FnId) (coll : BitVec 16) (s : State) (hI : Intact pq s) (t : State) (ht : execCollectiveTimeout fn coll s = .next t) : Intact pq t := by
  unfold execCollectiveTimeout at ht
  obtain rfl := Host.Outcome.next.inj ht
  repeat' first | with_reducible assumption | with_reducible apply failColl_intact | split

theorem settleStall_intact {pq : List Instr} (inst : Nat) (s : State) (hI : Intact pq s) : Intact pq (settleStall inst s) := by
  unfold settleStall
  repeat' first | with_reducible assumption | with_reducible apply forEach_intact | with_reducible apply settle_intact | split

theorem ackLands_intact {pq : List Instr} (h : Hdr) (payload : Bytes) (s : State) (hI : Intact pq s) : Intact pq (ackLands h payload s) := by
  unfold ackLands
  repeat' first | with_reducible assumption | with_reducible apply State.updSrc_intact | with_reducible apply drainFlow_intact | with_reducible apply countTags_intact | with_reducible apply resendAll_intact | with_reducible apply failRunning_intact | with_reducible apply raise_intact | with_reducible apply settleStall_intact | with_reducible apply Intact.cond | intro _

theorem execE2eAck_intact {pq : List Instr} (port : Fin 96) (f : RxFrame) (s : State) (hI : Intact pq s) (t : State) (ht : execE2eAck port f s = .next t) : Intact pq t := by
  unfold execE2eAck at ht
  obtain rfl := Host.Outcome.next.inj ht
  repeat' first | with_reducible assumption | with_reducible apply onFrame_intact | with_reducible apply ackLands_intact | intro _

theorem execPathDown_intact {pq : List Instr} (port : Fin 96) (f : RxFrame) (s : State) (hI : Intact pq s) (t : State) (ht : execPathDown port f s = .next t) : Intact pq t := by
  unfold execPathDown at ht
  obtain rfl := Host.Outcome.next.inj ht
  repeat' first | with_reducible assumption | with_reducible apply onFrame_intact | with_reducible apply reroute_intact | with_reducible apply Intact.cond | intro _

theorem execE2eAckTimer_intact {pq : List Instr} (flow : BitVec 20) (s : State) (hI : Intact pq s) (t : State) (ht : execE2eAckTimer flow s = .next t) : Intact pq t := by
  unfold execE2eAckTimer at ht
  obtain rfl := Host.Outcome.next.inj ht
  repeat' first | with_reducible assumption | with_reducible apply answer_intact | split

theorem execFlowResendTimeout_intact {pq : List Instr} (dest : BitVec 14) (flow : BitVec 20) (s : State) (hI : Intact pq s) (t : State) (ht : execFlowResendTimeout dest flow s = .next t) : Intact pq t := by
  unfold execFlowResendTimeout at ht
  obtain rfl := Host.Outcome.next.inj ht
  repeat' first | with_reducible assumption | with_reducible apply reroute_intact | with_reducible apply resendAll_intact | with_reducible apply State.updSrc_intact | with_reducible apply Intact.cond | intro _

theorem breakFlow_intact {pq : List Instr} (key : Nat) (s : State) (hI : Intact pq s) : Intact pq (breakFlow key s) := by
  unfold breakFlow
  repeat' first | with_reducible assumption | with_reducible apply countTags_intact | with_reducible apply State.updSrc_intact | with_reducible apply raise_intact | with_reducible apply forEach_intact | with_reducible apply failColl_intact | with_reducible apply failRunning_intact | split | intro _

theorem execFlowNoPathTimeout_intact {pq : List Instr} (dest : BitVec 14) (flow : BitVec 20) (s : State) (hI : Intact pq s) (t : State) (ht : execFlowNoPathTimeout dest flow s = .next t) : Intact pq t := by
  unfold execFlowNoPathTimeout at ht
  obtain rfl := Host.Outcome.next.inj ht
  repeat' first | with_reducible assumption | with_reducible apply breakFlow_intact | with_reducible apply Intact.cond | intro _

theorem loseMember_intact {pq : List Instr} (inst job dev : Nat) (s : State) (hI : Intact pq s) : Intact pq (loseMember inst job dev s) := by
  unfold loseMember
  try dsimp only
  repeat' first | with_reducible assumption | with_reducible apply raise_intact | with_reducible apply State.updJob_intact | with_reducible apply forEach_intact | with_reducible apply failColl_intact | with_reducible apply applyVerdict_intact | split | intro _

theorem reportLoss_intact {pq : List Instr} (dev : Nat) (s : State) (hI : Intact pq s) : Intact pq (reportLoss dev s) := by
  unfold reportLoss
  repeat' first | with_reducible assumption | with_reducible apply forEach_intact | with_reducible apply loseMember_intact | with_reducible apply sendLoss_intact | with_reducible apply raiseDev_intact | with_reducible apply Intact.cond | intro _

theorem execLoss_intact {pq : List Instr} (port : Fin 96) (f : RxFrame) (s : State) (hI : Intact pq s) (t : State) (ht : execLoss port f s = .next t) : Intact pq t := by
  unfold execLoss at ht
  obtain rfl := Host.Outcome.next.inj ht
  repeat' first | with_reducible assumption | with_reducible apply onFrame_intact | with_reducible apply forEach_intact | with_reducible apply loseMember_intact | with_reducible apply raiseDev_intact | with_reducible apply Intact.cond | intro _

theorem execMemberLossTimeout_intact {pq : List Instr} (dev : BitVec 14) (s : State) (hI : Intact pq s) (t : State) (ht : execMemberLossTimeout dev s = .next t) : Intact pq t := by
  unfold execMemberLossTimeout at ht
  obtain rfl := Host.Outcome.next.inj ht
  repeat' first | with_reducible assumption | with_reducible apply reportLoss_intact | with_reducible apply Intact.cond | intro _

theorem execPortSignalDetect_intact {pq : List Instr} (port : Fin 96) (s : State) (hI : Intact pq s) (t : State) (ht : execPortSignalDetect port s = .next t) : Intact pq t := by
  unfold execPortSignalDetect at ht
  obtain rfl := Host.Outcome.next.inj ht
  repeat' first | with_reducible assumption | with_reducible apply State.updPort_intact | with_reducible apply Intact.cond | intro _

theorem execLinkTrainingDone_intact {pq : List Instr} (port : Fin 96) (s : State) (hI : Intact pq s) (t : State) (ht : execLinkTrainingDone port s = .next t) : Intact pq t := by
  unfold execLinkTrainingDone at ht
  obtain rfl := Host.Outcome.next.inj ht
  repeat' first | with_reducible assumption | with_reducible apply State.updPort_intact | with_reducible apply Intact.cond | intro _

theorem refusePort_intact {pq : List Instr} (port reason : Nat) (s : State) (hI : Intact pq s) : Intact pq (refusePort port reason s) := by
  unfold refusePort
  repeat' first | with_reducible assumption | with_reducible apply raiseDev_intact | with_reducible apply portDown_intact | with_reducible apply State.updPort_intact

theorem execAttestationDone_intact {pq : List Instr} (port : Fin 96) (identityOk : Bool) (digest : BitVec 384) (s : State) (hI : Intact pq s) (t : State) (ht : execAttestationDone port identityOk digest s = .next t) : Intact pq t := by
  unfold execAttestationDone at ht
  obtain rfl := Host.Outcome.next.inj ht
  repeat' first | with_reducible assumption | with_reducible apply raiseDev_intact | with_reducible apply State.updPort_intact | with_reducible apply ownTopoChange_intact | with_reducible apply drainPort_intact | with_reducible apply Intact.cond | intro _

theorem loseLink_intact {pq : List Instr} (port reason : Nat) (s : State) (hI : Intact pq s) : Intact pq (loseLink port reason s) := by
  unfold loseLink
  repeat' first | with_reducible assumption | with_reducible apply State.updPort_intact | with_reducible apply portDown_intact | with_reducible apply Intact.cond | intro _

theorem execPortLossOfLock_intact {pq : List Instr} (port : Fin 96) (s : State) (hI : Intact pq s) (t : State) (ht : execPortLossOfLock port s = .next t) : Intact pq t := by
  unfold execPortLossOfLock at ht
  obtain rfl := Host.Outcome.next.inj ht
  repeat' first | with_reducible assumption | with_reducible apply loseLink_intact

theorem execPortSilenceTimeout_intact {pq : List Instr} (port : Fin 96) (s : State) (hI : Intact pq s) (t : State) (ht : execPortSilenceTimeout port s = .next t) : Intact pq t := by
  unfold execPortSilenceTimeout at ht
  obtain rfl := Host.Outcome.next.inj ht
  repeat' first | with_reducible assumption | with_reducible apply portDown_intact | with_reducible apply Intact.cond | intro _

theorem hailLands_intact {pq : List Instr} (port : Nat) (bs : Bytes) (rtt : BitVec 16) (s : State) (hI : Intact pq s) : Intact pq (hailLands port bs rtt s) := by
  unfold hailLands
  repeat' first | with_reducible assumption | with_reducible apply dropOther_intact | with_reducible apply State.updPort_intact | with_reducible apply refusePort_intact | with_reducible apply reportLoss_intact | with_reducible apply portDown_intact | with_reducible apply ownTopoChange_intact | with_reducible apply Intact.cond | intro _

theorem execHail_intact {pq : List Instr} (port : Fin 96) (f : RxFrame) (rtt : BitVec 16) (s : State) (hI : Intact pq s) (t : State) (ht : execHail port f rtt s = .next t) : Intact pq t := by
  unfold execHail at ht
  obtain rfl := Host.Outcome.next.inj ht
  repeat' first | with_reducible assumption | with_reducible apply onFrame_intact | with_reducible apply hailLands_intact | intro _

theorem execHailTimer_intact {pq : List Instr} (port : Fin 96) (s : State) (hI : Intact pq s) (t : State) (ht : execHailTimer port s = .next t) : Intact pq t := by
  unfold execHailTimer at ht
  obtain rfl := Host.Outcome.next.inj ht
  repeat' first | with_reducible assumption | with_reducible apply sendHail_intact | with_reducible apply Intact.cond | intro _

theorem countReplays_intact {pq : List Instr} (port n : Nat) (s : State) (hI : Intact pq s) : Intact pq (countReplays port n s) := by
  unfold countReplays
  repeat' first | with_reducible assumption | with_reducible apply replayFrom_intact | with_reducible apply State.updPort_intact | with_reducible apply raiseDev_intact | with_reducible apply Intact.cond | intro _

theorem replayFrom_intact {pq : List Instr} (port lseq : Nat) (s : State) (hI : Intact pq s) : Intact pq (replayFrom port lseq s) := by
  unfold replayFrom
  repeat' first | with_reducible assumption | with_reducible apply portDown_intact | with_reducible apply State.updPort_intact | with_reducible apply forEach_intact | with_reducible apply State.emit_intact | with_reducible apply countReplays_intact | with_reducible apply Intact.cond | intro _

theorem linkAckLands_intact {pq : List Instr} (port : Nat) (bs : Bytes) (s : State) (hI : Intact pq s) : Intact pq (linkAckLands port bs s) := by
  unfold linkAckLands
  repeat' first | with_reducible assumption | with_reducible apply State.updPort_intact | with_reducible apply ackLink_intact | with_reducible apply replayFrom_intact | with_reducible apply drainPort_intact | with_reducible apply Intact.cond | intro _

theorem execLinkAck_intact {pq : List Instr} (port : Fin 96) (f : RxFrame) (s : State) (hI : Intact pq s) (t : State) (ht : execLinkAck port f s = .next t) : Intact pq t := by
  unfold execLinkAck at ht
  obtain rfl := Host.Outcome.next.inj ht
  repeat' first | with_reducible assumption | with_reducible apply onFrame_intact | with_reducible apply linkAckLands_intact | intro _

theorem execLinkAckTimer_intact {pq : List Instr} (port : Fin 96) (s : State) (hI : Intact pq s) (t : State) (ht : execLinkAckTimer port s = .next t) : Intact pq t := by
  unfold execLinkAckTimer at ht
  obtain rfl := Host.Outcome.next.inj ht
  repeat' first | with_reducible assumption | with_reducible apply sendLinkAck_intact | with_reducible apply Intact.cond | intro _

theorem topoLands_intact {pq : List Instr} (port : Nat) (bs : Bytes) (s : State) (hI : Intact pq s) : Intact pq (topoLands port bs s) := by
  unfold topoLands
  repeat' first | with_reducible assumption | with_reducible apply dropOther_intact | with_reducible apply forEach_intact | with_reducible apply sendControl_intact | with_reducible apply topoChanged_intact | with_reducible apply Intact.cond | fail_if_no_progress with_reducible apply Intact.rebuild | intro _

theorem execTopo_intact {pq : List Instr} (port : Fin 96) (f : RxFrame) (s : State) (hI : Intact pq s) (t : State) (ht : execTopo port f s = .next t) : Intact pq t := by
  unfold execTopo at ht
  obtain rfl := Host.Outcome.next.inj ht
  repeat' first | with_reducible assumption | with_reducible apply onFrame_intact | with_reducible apply topoLands_intact | intro _

theorem spdmLands_intact {pq : List Instr} (port : Nat) (bs : Bytes) (s : State) (hI : Intact pq s) : Intact pq (spdmLands port bs s) := by
  unfold spdmLands
  repeat' first | with_reducible assumption | with_reducible apply sendControl_intact | with_reducible apply State.updPort_intact | with_reducible apply Intact.cond | intro _

theorem execSpdmFrame_intact {pq : List Instr} (port : Fin 96) (f : RxFrame) (s : State) (hI : Intact pq s) (t : State) (ht : execSpdmFrame port f s = .next t) : Intact pq t := by
  unfold execSpdmFrame at ht
  obtain rfl := Host.Outcome.next.inj ht
  repeat' first | with_reducible assumption | with_reducible apply onFrame_intact | with_reducible apply spdmLands_intact | intro _

theorem execLinkKeyUpdate_intact {pq : List Instr} (port : Fin 96) (s : State) (hI : Intact pq s) (t : State) (ht : execLinkKeyUpdate port s = .next t) : Intact pq t := by
  unfold execLinkKeyUpdate at ht
  obtain rfl := Host.Outcome.next.inj ht
  repeat' first | with_reducible assumption | with_reducible apply sendControl_intact | with_reducible apply State.updPort_intact | with_reducible apply Intact.cond | intro _

/-! ## Machine/Training.lean -/

theorem sweepLines_intact {pq : List Instr} (inst : Nat) (finds : List LineFind) (x0 : Nat) (x1 : Nat) (s : State) (hI : Intact pq s) : Intact pq (sweepLines inst finds x0 x1 s).2 := by
  fun_induction sweepLines inst finds x0 x1 s
  all_goals (repeat' first | with_reducible assumption | with_reducible refine (‹Intact _ _ → Intact _ _› : _) ?_ | with_reducible apply readLine_intact | with_reducible refine Intact.snd (by assumption) ?_)

theorem sweepArray_intact {pq : List Instr} (inst la k n : Nat) (finds : List LineFind) (s : State) (hI : Intact pq s) : Intact pq (sweepArray inst la k n finds s).2.2 := by
  unfold sweepArray
  repeat' first | with_reducible assumption | with_reducible apply sweepLines_intact

theorem sweepWrite_intact {pq : List Instr} (inst la k : Nat) (items : List Nat) (bad : List Bool) (s : State) (hI : Intact pq s) : Intact pq (sweepWrite inst la k items bad s) := by
  unfold sweepWrite
  repeat' first | with_reducible assumption | with_reducible apply forEach_intact | with_reducible apply stateWrite_intact | with_reducible apply Intact.cond | intro _

theorem sweepTensor_intact {pq : List Instr} (inst : Nat) (j : Job) (p : Step) (finds : List LineFind) (i : Nat) (t : Tensor) (x : SweepAcc × State) (hI : Intact pq x.2) : Intact pq (sweepTensor inst j p finds i t x).2 := by
  unfold sweepTensor
  dsimp only
  split
  · exact sweepWrite_intact _ _ _ _ _ _ (sweepWrite_intact _ _ _ _ _ _ (sweepArray_intact _ _ _ _ _ _ (sweepArray_intact _ _ _ _ _ _ (sweepArray_intact _ _ _ _ _ _ hI))))
  · exact sweepWrite_intact _ _ _ _ _ _ (sweepWrite_intact _ _ _ _ _ _ (sweepWrite_intact _ _ _ _ _ _ (sweepArray_intact _ _ _ _ _ _ (sweepArray_intact _ _ _ _ _ _ (sweepArray_intact _ _ _ _ _ _ (sweepArray_intact _ _ _ _ _ _ hI))))))

theorem sweepAll_intact {pq : List Instr} (inst : Nat) (j : Job) (p : Step) (finds : List LineFind) (ts : List Tensor) (i : Nat) (x : SweepAcc × State) (hI : Intact pq x.2) : Intact pq (sweepAll inst j p finds ts i x).2 := by
  induction ts generalizing i x with
  | nil => exact hI
  | cons t ts ih => exact ih _ _ (sweepTensor_intact inst j p finds i t x hI)

theorem execSweepStart_intact {pq : List Instr} (fn : FnId) (finds : List LineFind) (s : State) (hI : Intact pq s) (t : State) (ht : execSweepStart fn finds s = .next t) : Intact pq t := by
  unfold execSweepStart at ht
  obtain rfl := Host.Outcome.next.inj ht
  repeat' first | with_reducible assumption | with_reducible apply sweepAll_intact | with_reducible apply State.updJob_intact | with_reducible apply State.updStep_intact | split

theorem execSweepEnd_intact {pq : List Instr} (fn : FnId) (s : State) (hI : Intact pq s) (t : State) (ht : execSweepEnd fn s = .next t) : Intact pq t := by
  unfold execSweepEnd at ht
  obtain rfl := Host.Outcome.next.inj ht
  repeat' first | with_reducible assumption | with_reducible apply contribute_intact | with_reducible apply State.updStep_intact | split

theorem verdictMessage_intact {pq : List Instr} (inst : Nat) (bs : Bytes) (s : State) (hI : Intact pq s) : Intact pq (verdictMessage inst bs s) := by
  unfold verdictMessage
  try dsimp only
  repeat' first | with_reducible assumption | with_reducible apply tryVerdict_intact | with_reducible apply State.updJob_intact | with_reducible apply stopCores_intact | with_reducible apply applyVerdict_intact | with_reducible apply returnDown_intact | split

theorem verdictLands_intact {pq : List Instr} (port : Nat) (h : Hdr) (bs : Bytes) (s : State) (hI : Intact pq s) : Intact pq (verdictLands port h bs s) := by
  unfold verdictLands
  try dsimp only
  repeat' first | with_reducible assumption | with_reducible apply verdictMessage_intact | with_reducible apply dropTarget_intact | with_reducible apply flowFrame_intact | with_reducible apply refuseFrame_intact | split | intro _

theorem execVerdictFrame_intact {pq : List Instr} (port : Fin 96) (f : RxFrame) (s : State) (hI : Intact pq s) (t : State) (ht : execVerdictFrame port f s = .next t) : Intact pq t := by
  unfold execVerdictFrame at ht
  obtain rfl := Host.Outcome.next.inj ht
  repeat' first | with_reducible assumption | with_reducible apply onFrame_intact | with_reducible apply verdictLands_intact | intro _

theorem execVerdictTimeout_intact {pq : List Instr} (fn : FnId) (job : BitVec 32) (s : State) (hI : Intact pq s) (t : State) (ht : execVerdictTimeout fn job s = .next t) : Intact pq t := by
  unfold execVerdictTimeout at ht
  obtain rfl := Host.Outcome.next.inj ht
  try dsimp only
  repeat' first | with_reducible assumption | with_reducible apply raise_intact | with_reducible apply clearVotes_intact | with_reducible apply State.updJob_intact | with_reducible apply finish_intact | with_reducible apply endStep_intact | split

theorem execWorkingCopyConverted_intact {pq : List Instr} (fn : FnId) (job : BitVec 32) (s : State) (hI : Intact pq s) (t : State) (ht : execWorkingCopyConverted fn job s = .next t) : Intact pq t := by
  unfold execWorkingCopyConverted at ht
  obtain rfl := Host.Outcome.next.inj ht
  repeat' first | with_reducible assumption | with_reducible apply stepBoundary_intact | with_reducible apply completeCommit_intact | with_reducible apply convertWorking_intact | with_reducible apply State.updStep_intact | split

theorem execExportWindowResume_intact {pq : List Instr} (fn : FnId) (job : BitVec 32) (s : State) (hI : Intact pq s) (t : State) (ht : execExportWindowResume fn job s = .next t) : Intact pq t := by
  unfold execExportWindowResume at ht
  obtain rfl := Host.Outcome.next.inj ht
  repeat' first | with_reducible assumption | with_reducible apply stepBoundary_intact | with_reducible apply completeCommit_intact | split

theorem execRecordSetDelivered_intact {pq : List Instr} (fn : FnId) (job : BitVec 32) (s : State) (hI : Intact pq s) (t : State) (ht : execRecordSetDelivered fn job s = .next t) : Intact pq t := by
  unfold execRecordSetDelivered at ht
  obtain rfl := Host.Outcome.next.inj ht
  repeat' first | with_reducible assumption | with_reducible apply setExportBit_intact | with_reducible apply State.emit_intact | with_reducible apply State.updJob_intact | with_reducible apply exportPump_intact | with_reducible apply replaceExport_intact | split

theorem execShardSnapshotComplete_intact {pq : List Instr} (fn : FnId) (job : BitVec 32) (s : State) (hI : Intact pq s) (t : State) (ht : execShardSnapshotComplete fn job s = .next t) : Intact pq t := by
  unfold execShardSnapshotComplete at ht
  obtain rfl := Host.Outcome.next.inj ht
  repeat' first | with_reducible assumption | with_reducible apply State.updJob_intact | with_reducible apply finish_intact | with_reducible apply hostWrite_intact | with_reducible apply sealBytes_intact | with_reducible apply rdmaIssue_intact | split

end Sys2Proof.Machine
end

