-- ==== Sys2Proof/Laws/IntactHost.lean ====
section
/-! SUPPORT. Isolation, registers and the host link: each keeps the queue and every memory (Intact). -/

namespace Sys2Proof.Machine

set_option maxRecDepth 4000

/-! ## Machine/Isolation.lean -/

-- TODO TdiState.code : TdiState → Nat

theorem makeReport_intact {pq : List Instr} (i slot : Nat) (s : State) (hI : Intact pq s) : Intact pq (makeReport i slot s) := by
  unfold makeReport
  repeat' first | with_reducible assumption | with_reducible apply State.draw_intact | with_reducible apply State.updInst_intact

theorem refreshReports_intact {pq : List Instr} (s : State) (hI : Intact pq s) : Intact pq (refreshReports s) := by
  unfold refreshReports
  repeat' first | with_reducible assumption | with_reducible apply forEach_intact | with_reducible apply makeReport_intact | with_reducible apply Intact.cond | intro _

theorem onSpdm_intact {pq : List Instr} (fn : Nat) (via : SpdmVia) (act : State → State) (s : State) (hact : ∀ s, Intact pq s → Intact pq (act s)) (hI : Intact pq s) : Intact pq (onSpdm fn via act s) := by
  unfold onSpdm
  repeat' first | with_reducible assumption | with_reducible apply hact | with_reducible apply raiseDevFor_intact | with_reducible apply Intact.cond | intro _

theorem execSpdmGetMeasurements_intact {pq : List Instr} (fn : FnId) (via : SpdmVia) (index : BitVec 8) (sign : Bool) (slot : BitVec 1) (nonce : BitVec 256) (s : State) (hI : Intact pq s) (t : State) (ht : execSpdmGetMeasurements fn via index sign slot nonce s = .next t) : Intact pq t := by
  unfold execSpdmGetMeasurements at ht
  obtain rfl := Host.Outcome.next.inj ht
  repeat' first | with_reducible assumption | with_reducible apply onSpdm_intact | with_reducible apply State.updInst_intact | with_reducible apply State.emit_intact | with_reducible apply Intact.cond | intro _

theorem execSpdmGetCertificate_intact {pq : List Instr} (fn : FnId) (via : SpdmVia) (slot : BitVec 1) (s : State) (hI : Intact pq s) (t : State) (ht : execSpdmGetCertificate fn via slot s = .next t) : Intact pq t := by
  unfold execSpdmGetCertificate at ht
  obtain rfl := Host.Outcome.next.inj ht
  repeat' first | with_reducible assumption | with_reducible apply onSpdm_intact | with_reducible apply State.emit_intact | intro _

theorem execSpdmChallenge_intact {pq : List Instr} (fn : FnId) (via : SpdmVia) (slot : BitVec 1) (nonce : BitVec 256) (s : State) (hI : Intact pq s) (t : State) (ht : execSpdmChallenge fn via slot nonce s = .next t) : Intact pq t := by
  unfold execSpdmChallenge at ht
  obtain rfl := Host.Outcome.next.inj ht
  repeat' first | with_reducible assumption | with_reducible apply onSpdm_intact | with_reducible apply State.emit_intact | intro _

theorem execSpdmKeyExchange_intact {pq : List Instr} (fn : FnId) (slot : BitVec 1) (heartbeat : BitVec 8) (s : State) (hI : Intact pq s) (t : State) (ht : execSpdmKeyExchange fn slot heartbeat s = .next t) : Intact pq t := by
  unfold execSpdmKeyExchange at ht
  obtain rfl := Host.Outcome.next.inj ht
  repeat' first | with_reducible assumption | with_reducible apply onSpdm_intact | with_reducible apply State.emit_intact | with_reducible apply State.updInst_intact | split | intro _

theorem execSpdmKeyUpdate_intact {pq : List Instr} (fn : FnId) (via : SpdmVia) (confirm : Bool) (s : State) (hI : Intact pq s) (t : State) (ht : execSpdmKeyUpdate fn via confirm s = .next t) : Intact pq t := by
  unfold execSpdmKeyUpdate at ht
  obtain rfl := Host.Outcome.next.inj ht
  repeat' first | with_reducible assumption | with_reducible apply onSpdm_intact | with_reducible apply State.updInst_intact | with_reducible apply State.emit_intact | split | intro _

theorem vendorRequest_intact {pq : List Instr} (fn : Nat) (via : SpdmVia) (f : Inst → Inst) (s : State) (hI : Intact pq s) : Intact pq (vendorRequest fn via f s) := by
  unfold vendorRequest
  repeat' first | with_reducible assumption | with_reducible apply onSpdm_intact | with_reducible apply State.updInst_intact | with_reducible apply State.emit_intact | with_reducible apply Intact.cond | intro _

theorem execSetSealSecret_intact {pq : List Instr} (fn : FnId) (via : SpdmVia) (secret : BitVec 256) (s : State) (hI : Intact pq s) (t : State) (ht : execSetSealSecret fn via secret s = .next t) : Intact pq t := by
  unfold execSetSealSecret at ht
  obtain rfl := Host.Outcome.next.inj ht
  repeat' first | with_reducible assumption | with_reducible apply vendorRequest_intact

theorem execSetMigrationKey_intact {pq : List Instr} (fn : FnId) (via : SpdmVia) (key : BitVec 256) (s : State) (hI : Intact pq s) (t : State) (ht : execSetMigrationKey fn via key s = .next t) : Intact pq t := by
  unfold execSetMigrationKey at ht
  obtain rfl := Host.Outcome.next.inj ht
  repeat' first | with_reducible assumption | with_reducible apply vendorRequest_intact

theorem execClearSecrets_intact {pq : List Instr} (fn : FnId) (via : SpdmVia) (which : BitVec 8) (s : State) (hI : Intact pq s) (t : State) (ht : execClearSecrets fn via which s = .next t) : Intact pq t := by
  unfold execClearSecrets at ht
  obtain rfl := Host.Outcome.next.inj ht
  repeat' first | with_reducible assumption | with_reducible apply vendorRequest_intact

theorem tdiError_intact {pq : List Instr} (inst : Nat) (s : State) (hI : Intact pq s) : Intact pq (tdiError inst s) := by
  unfold tdiError
  repeat' first | with_reducible assumption | with_reducible apply forEach_intact | with_reducible apply endStep_intact | with_reducible apply failStep_intact | with_reducible apply State.updInst_intact | with_reducible apply Intact.cond | intro _

theorem execTdispRequest_intact {pq : List Instr} (fn : FnId) (m : Tdisp) (via : SpdmVia) (s : State) (hI : Intact pq s) (t : State) (ht : execTdispRequest fn m via s = .next t) : Intact pq t := by
  unfold execTdispRequest at ht
  obtain rfl := Host.Outcome.next.inj ht
  repeat' first | with_reducible assumption | with_reducible apply onSpdm_intact | with_reducible apply State.emit_intact | with_reducible apply State.updInst_intact | split | intro _

theorem execIdeIntegrityFailure_intact {pq : List Instr} (fn : FnId) (s : State) (hI : Intact pq s) (t : State) (ht : execIdeIntegrityFailure fn s = .next t) : Intact pq t := by
  unfold execIdeIntegrityFailure at ht
  obtain rfl := Host.Outcome.next.inj ht
  repeat' first | with_reducible assumption | with_reducible apply tdiError_intact | with_reducible apply raise_intact | with_reducible apply Intact.cond | intro _

theorem removeInst_intact {pq : List Instr} (inst : Nat) (tag : Option Nat) (keepStall : Bool) (s : State) (hI : Intact pq s) : Intact pq (removeInst inst tag keepStall s) := by
  unfold removeInst
  repeat' first | with_reducible assumption | with_reducible apply queueScrub_intact | with_reducible apply resetStall_intact | with_reducible apply raiseOrWait_intact | with_reducible apply dropKeyed_intact | with_reducible apply sendAllLoss_intact | with_reducible apply State.updStall_intact | with_reducible apply State.updFn_intact | with_reducible apply State.updInst_intact | with_reducible apply Intact.cond | intro _

theorem endRemoval_intact {pq : List Instr} (inst : Nat) (byFence : Bool) (s : State) (hI : Intact pq s) : Intact pq (endRemoval inst byFence s) := by
  unfold endRemoval
  repeat' first | with_reducible assumption | with_reducible apply raiseDevFor_intact | with_reducible apply State.updInst_intact | with_reducible apply followHeat_intact | with_reducible apply finish_intact | split | fail_if_no_progress with_reducible apply Intact.rebuild

theorem execEngineDrainReport_intact {pq : List Instr} (fn : FnId) (engine : Nat) (s : State) (hI : Intact pq s) (t : State) (ht : execEngineDrainReport fn engine s = .next t) : Intact pq t := by
  unfold execEngineDrainReport at ht
  obtain rfl := Host.Outcome.next.inj ht
  try dsimp only
  repeat' first | with_reducible assumption | with_reducible apply State.updInst_intact | with_reducible apply endRemoval_intact | split

theorem execRemovalFenceExpiry_intact {pq : List Instr} (fn : FnId) (s : State) (hI : Intact pq s) (t : State) (ht : execRemovalFenceExpiry fn s = .next t) : Intact pq t := by
  unfold execRemovalFenceExpiry at ht
  obtain rfl := Host.Outcome.next.inj ht
  repeat' first | with_reducible assumption | with_reducible apply endRemoval_intact | split

theorem execGenerationRaiseResume_intact {pq : List Instr} (fn : FnId) (s : State) (hI : Intact pq s) (t : State) (ht : execGenerationRaiseResume fn s = .next t) : Intact pq t := by
  unfold execGenerationRaiseResume at ht
  obtain rfl := Host.Outcome.next.inj ht
  repeat' first | with_reducible assumption | with_reducible apply raiseGen_intact | with_reducible apply Intact.cond | intro _

theorem execTimeAlign_intact {pq : List Instr} (port : Fin 96) (t1 : BitVec 64) (s : State) (hI : Intact pq s) (t : State) (ht : execTimeAlign port t1 s = .next t) : Intact pq t := by
  unfold execTimeAlign at ht
  obtain rfl := Host.Outcome.next.inj ht
  repeat' first | with_reducible assumption | with_reducible apply sendControl_intact | with_reducible apply Intact.cond | intro _

theorem execTimeAlignTimer_intact {pq : List Instr} (t1 t2 t3 t4 : BitVec 64) (s : State) (hI : Intact pq s) (t : State) (ht : execTimeAlignTimer t1 t2 t3 t4 s = .next t) : Intact pq t := by
  unfold execTimeAlignTimer at ht
  obtain rfl := Host.Outcome.next.inj ht
  repeat' first | with_reducible assumption | with_reducible apply State.updSys_intact | with_reducible apply Intact.cond | fail_if_no_progress with_reducible apply Intact.rebuild | intro _

/-! ## Machine/Registers.lean -/

theorem regIgnored_intact {pq : List Instr} (fn off be : Nat) (write : Bool) (s : State) (hI : Intact pq s) : Intact pq (regIgnored fn off be write s) := by
  unfold regIgnored
  repeat' first | with_reducible assumption | with_reducible apply raise_intact

theorem clearRead_intact {pq : List Instr} (off be : Nat) (s : State) (hI : Intact pq s) : Intact pq (clearRead off be s) := by
  unfold clearRead
  repeat' first | with_reducible assumption | with_reducible apply State.updSys_intact | with_reducible apply State.updGroup_intact | with_reducible apply State.updPort_intact | with_reducible apply dropTarget_intact | with_reducible apply dropOther_intact | with_reducible apply Intact.cond | intro _

theorem unsupportedRead_intact {pq : List Instr} (fn off : Nat) (s : State) (hI : Intact pq s) : Intact pq (unsupportedRead fn off s) := by
  unfold unsupportedRead
  repeat' first | with_reducible assumption | with_reducible apply State.emit_intact

theorem shadowRead_intact {pq : List Instr} (fn off : Nat) (s : State) (hI : Intact pq s) : Intact pq (shadowRead fn off s).2 := by
  unfold shadowRead
  repeat' first | with_reducible assumption | with_reducible apply State.updFn_intact | split

theorem read32_intact {pq : List Instr} (fn off be : Nat) (s : State) (hI : Intact pq s) : Intact pq (read32 fn off be s).2 := by
  unfold read32
  repeat' first | with_reducible assumption | with_reducible apply shadowRead_intact | with_reducible apply clearRead_intact | with_reducible apply Intact.cond | intro _

theorem wideRead_intact {pq : List Instr} (fn off be : Nat) (s : State) (hI : Intact pq s) : Intact pq (wideRead fn off be s).2 := by
  unfold wideRead
  try dsimp only
  repeat' first | with_reducible assumption | with_reducible apply read32_intact | split

theorem barRead_intact {pq : List Instr} (fn off be : Nat) (tee : Tee) (s : State) (hI : Intact pq s) : Intact pq (barRead fn off be tee s) := by
  unfold barRead
  repeat' first | with_reducible assumption | with_reducible apply unsupportedRead_intact | with_reducible apply wideRead_intact | with_reducible apply State.emit_intact | with_reducible apply Intact.cond | intro _

theorem execRcRegisterRead_intact {pq : List Instr} (fn : FnId) (offset : BitVec 16) (be : BitVec 8) (tee : Tee) (s : State) (hI : Intact pq s) (t : State) (ht : execRcRegisterRead fn offset be tee s = .next t) : Intact pq t := by
  unfold execRcRegisterRead at ht
  obtain rfl := Host.Outcome.next.inj ht
  repeat' first | with_reducible assumption | with_reducible apply barRead_intact

theorem execRegLowHalfRead_intact {pq : List Instr} (fn : FnId) (offset : BitVec 16) (tee : Tee) (s : State) (hI : Intact pq s) (t : State) (ht : execRegLowHalfRead fn offset tee s = .next t) : Intact pq t := by
  unfold execRegLowHalfRead at ht
  obtain rfl := Host.Outcome.next.inj ht
  repeat' first | with_reducible assumption | with_reducible apply barRead_intact

theorem execRegHighHalfRead_intact {pq : List Instr} (fn : FnId) (offset : BitVec 16) (tee : Tee) (s : State) (hI : Intact pq s) (t : State) (ht : execRegHighHalfRead fn offset tee s = .next t) : Intact pq t := by
  unfold execRegHighHalfRead at ht
  obtain rfl := Host.Outcome.next.inj ht
  repeat' first | with_reducible assumption | with_reducible apply barRead_intact

theorem pumpRing_intact {pq : List Instr} (fn : Nat) (s : State) (hI : Intact pq s) : Intact pq (pumpRing fn s) := by
  unfold pumpRing
  repeat' first | with_reducible assumption | with_reducible apply State.updFn_intact | with_reducible apply State.emit_intact | with_reducible apply Intact.cond | intro _

theorem writeDoorbell_intact {pq : List Instr} (fn off be v : Nat) (s : State) (hI : Intact pq s) : Intact pq (writeDoorbell fn off be v s) := by
  unfold writeDoorbell
  repeat' first | with_reducible assumption | with_reducible apply regIgnored_intact | with_reducible apply pumpRing_intact | with_reducible apply State.updFn_intact | with_reducible apply Intact.cond | intro _

theorem writeCmdEnable_intact {pq : List Instr} (fn off be v : Nat) (s : State) (hI : Intact pq s) : Intact pq (writeCmdEnable fn off be v s) := by
  unfold writeCmdEnable
  repeat' first | with_reducible assumption | with_reducible apply State.updFn_intact | with_reducible apply regIgnored_intact | with_reducible apply Intact.cond | intro _

theorem writeCplEnable_intact {pq : List Instr} (fn off be v : Nat) (s : State) (hI : Intact pq s) : Intact pq (writeCplEnable fn off be v s) := by
  unfold writeCplEnable
  repeat' first | with_reducible assumption | with_reducible apply State.updFn_intact | with_reducible apply regIgnored_intact | with_reducible apply releaseHeld_intact | with_reducible apply Intact.cond | intro _

theorem writeCplHead_intact {pq : List Instr} (fn off be v : Nat) (s : State) (hI : Intact pq s) : Intact pq (writeCplHead fn off be v s) := by
  unfold writeCplHead
  repeat' first | with_reducible assumption | with_reducible apply regIgnored_intact | with_reducible apply releaseHeld_intact | with_reducible apply State.updFn_intact | with_reducible apply Intact.cond | intro _

theorem write64_intact {pq : List Instr} (fn off be v : Nat) (s : State) (hI : Intact pq s) : Intact pq (write64 fn off be v s) := by
  unfold write64
  repeat' first | with_reducible assumption | with_reducible apply regIgnored_intact | with_reducible apply State.updFn_intact | with_reducible apply Intact.cond | intro _

theorem writeLow_intact {pq : List Instr} (fn off v : Nat) (s : State) (hI : Intact pq s) : Intact pq (writeLow fn off v s) := by
  unfold writeLow
  repeat' first | with_reducible assumption | with_reducible apply State.updFn_intact

theorem writeHigh_intact {pq : List Instr} (fn off be v : Nat) (s : State) (hI : Intact pq s) : Intact pq (writeHigh fn off be v s) := by
  unfold writeHigh
  repeat' first | with_reducible assumption | with_reducible apply write64_intact | with_reducible apply State.updFn_intact | split

theorem writeSummary_intact {pq : List Instr} (fn v : Nat) (s : State) (hI : Intact pq s) : Intact pq (writeSummary fn v s) := by
  unfold writeSummary
  repeat' first | with_reducible assumption | with_reducible apply State.updFn_intact | with_reducible apply pinsFollow_intact | with_reducible apply sendMessage_intact | with_reducible apply Intact.cond | intro _

theorem writeEnable_intact {pq : List Instr} (fn v : Nat) (s : State) (hI : Intact pq s) : Intact pq (writeEnable fn v s) := by
  unfold writeEnable
  repeat' first | with_reducible assumption | with_reducible apply State.updFn_intact | with_reducible apply pinsFollow_intact | with_reducible apply sendMessage_intact | with_reducible apply Intact.cond | intro _

theorem writeMsix_intact {pq : List Instr} (fn k v : Nat) (s : State) (hI : Intact pq s) : Intact pq (writeMsix fn k v s) := by
  unfold writeMsix
  repeat' first | with_reducible assumption | with_reducible apply State.updFn_intact | with_reducible apply sendMessage_intact | with_reducible apply Intact.cond | intro _

theorem writePorter_intact {pq : List Instr} (v : Nat) (s : State) (hI : Intact pq s) : Intact pq (writePorter v s) := by
  unfold writePorter
  repeat' first | with_reducible assumption | with_reducible apply State.updSys_intact

theorem write32_intact {pq : List Instr} (fn off be v : Nat) (s : State) (hI : Intact pq s) : Intact pq (write32 fn off be v s) := by
  have reg : Intact pq (regIgnored fn off be true s) := regIgnored_intact _ _ _ _ _ hI
  unfold write32
  refine Intact.cond (fun _ => reg) (fun _ => ?_)
  refine Intact.cond (fun _ => writeLow_intact _ _ _ _ hI) (fun _ => ?_)
  refine Intact.cond (fun _ => writeHigh_intact _ _ _ _ _ hI) (fun _ => ?_)
  refine Intact.cond (fun _ => writeSummary_intact _ _ _ hI) (fun _ => ?_)
  refine Intact.cond (fun _ => writeEnable_intact _ _ _ hI) (fun _ => ?_)
  refine Intact.cond (fun _ => State.updFn_intact _ _ _ hI) (fun _ => ?_)
  refine Intact.cond (fun _ => Intact.cond (fun _ => pinsFollow_intact _ _ (State.updFn_intact _ _ _ hI)) (fun _ => hI)) (fun _ => ?_)
  refine Intact.cond (fun _ => Intact.cond (fun _ => reg) (fun _ => State.updFn_intact _ _ _ hI)) (fun _ => ?_)
  refine Intact.cond (fun _ => writeCmdEnable_intact _ _ _ _ _ hI) (fun _ => ?_)
  refine Intact.cond (fun _ => writeDoorbell_intact _ _ _ _ _ hI) (fun _ => ?_)
  refine Intact.cond (fun _ => Intact.cond (fun _ => reg) (fun _ => State.updFn_intact _ _ _ hI)) (fun _ => ?_)
  refine Intact.cond (fun _ => writeCplEnable_intact _ _ _ _ _ hI) (fun _ => ?_)
  refine Intact.cond (fun _ => writeCplHead_intact _ _ _ _ _ hI) (fun _ => ?_)
  refine Intact.cond (fun _ => writeMsix_intact _ _ _ _ hI) (fun _ => ?_)
  refine Intact.cond (fun _ => writePorter_intact _ _ hI) (fun _ => ?_)
  refine Intact.cond (fun _ => State.updSys_intact _ _ hI) (fun _ => ?_)
  split
  · exact clearCauses_intact _ _ _ _ hI
  · exact hI

theorem barWrite_intact {pq : List Instr} (fn : Nat) (tee : Tee) (act : State → State) (s : State) (hact : ∀ s, Intact pq s → Intact pq (act s)) (hI : Intact pq s) : Intact pq (barWrite fn tee act s) := by
  unfold barWrite
  repeat' first | with_reducible assumption | with_reducible apply hact | with_reducible apply Intact.cond | intro _

theorem execCmdDoorbell_intact {pq : List Instr} (fn : FnId) (value : BitVec 32) (be : BitVec 4) (tee : Tee) (s : State) (hI : Intact pq s) (t : State) (ht : execCmdDoorbell fn value be tee s = .next t) : Intact pq t := by
  unfold execCmdDoorbell at ht
  obtain rfl := Host.Outcome.next.inj ht
  repeat' first | with_reducible assumption | with_reducible apply barWrite_intact | with_reducible apply write32_intact

theorem execCmdEnableWrite_intact {pq : List Instr} (fn : FnId) (value : BitVec 32) (be : BitVec 4) (tee : Tee) (s : State) (hI : Intact pq s) (t : State) (ht : execCmdEnableWrite fn value be tee s = .next t) : Intact pq t := by
  unfold execCmdEnableWrite at ht
  obtain rfl := Host.Outcome.next.inj ht
  repeat' first | with_reducible assumption | with_reducible apply barWrite_intact | with_reducible apply write32_intact

theorem execCplEnableWrite_intact {pq : List Instr} (fn : FnId) (value : BitVec 32) (be : BitVec 4) (tee : Tee) (s : State) (hI : Intact pq s) (t : State) (ht : execCplEnableWrite fn value be tee s = .next t) : Intact pq t := by
  unfold execCplEnableWrite at ht
  obtain rfl := Host.Outcome.next.inj ht
  repeat' first | with_reducible assumption | with_reducible apply barWrite_intact | with_reducible apply write32_intact

theorem execCplHeadWrite_intact {pq : List Instr} (fn : FnId) (value : BitVec 32) (be : BitVec 4) (tee : Tee) (s : State) (hI : Intact pq s) (t : State) (ht : execCplHeadWrite fn value be tee s = .next t) : Intact pq t := by
  unfold execCplHeadWrite at ht
  obtain rfl := Host.Outcome.next.inj ht
  repeat' first | with_reducible assumption | with_reducible apply barWrite_intact | with_reducible apply write32_intact

theorem execSummaryStatusWrite_intact {pq : List Instr} (fn : FnId) (value : BitVec 32) (be : BitVec 4) (tee : Tee) (s : State) (hI : Intact pq s) (t : State) (ht : execSummaryStatusWrite fn value be tee s = .next t) : Intact pq t := by
  unfold execSummaryStatusWrite at ht
  obtain rfl := Host.Outcome.next.inj ht
  repeat' first | with_reducible assumption | with_reducible apply barWrite_intact | with_reducible apply write32_intact

theorem execSummaryEnableWrite_intact {pq : List Instr} (fn : FnId) (value : BitVec 32) (be : BitVec 4) (tee : Tee) (s : State) (hI : Intact pq s) (t : State) (ht : execSummaryEnableWrite fn value be tee s = .next t) : Intact pq t := by
  unfold execSummaryEnableWrite at ht
  obtain rfl := Host.Outcome.next.inj ht
  repeat' first | with_reducible assumption | with_reducible apply barWrite_intact | with_reducible apply write32_intact

theorem execCauseWrite_intact {pq : List Instr} (fn : FnId) (offset : BitVec 16) (value : BitVec 32) (be : BitVec 4) (tee : Tee) (s : State) (hI : Intact pq s) (t : State) (ht : execCauseWrite fn offset value be tee s = .next t) : Intact pq t := by
  unfold execCauseWrite at ht
  obtain rfl := Host.Outcome.next.inj ht
  repeat' first | with_reducible assumption | with_reducible apply barWrite_intact | with_reducible apply write32_intact

theorem execRegLowHalfWrite_intact {pq : List Instr} (fn : FnId) (offset : BitVec 16) (value : BitVec 32) (be : BitVec 4) (tee : Tee) (s : State) (hI : Intact pq s) (t : State) (ht : execRegLowHalfWrite fn offset value be tee s = .next t) : Intact pq t := by
  unfold execRegLowHalfWrite at ht
  obtain rfl := Host.Outcome.next.inj ht
  repeat' first | with_reducible assumption | with_reducible apply barWrite_intact | with_reducible apply write32_intact

theorem execRegHighHalfWrite_intact {pq : List Instr} (fn : FnId) (offset : BitVec 16) (value : BitVec 32) (be : BitVec 4) (tee : Tee) (s : State) (hI : Intact pq s) (t : State) (ht : execRegHighHalfWrite fn offset value be tee s = .next t) : Intact pq t := by
  unfold execRegHighHalfWrite at ht
  obtain rfl := Host.Outcome.next.inj ht
  repeat' first | with_reducible assumption | with_reducible apply barWrite_intact | with_reducible apply write32_intact

theorem wideWrite_intact {pq : List Instr} (fn off be v : Nat) (s : State) (hI : Intact pq s) : Intact pq (wideWrite fn off be v s) := by
  unfold wideWrite
  repeat' first | with_reducible assumption | with_reducible apply write64_intact | with_reducible apply write32_intact | with_reducible apply Intact.cond | intro _

theorem execRegisterWrite_intact {pq : List Instr} (fn : FnId) (offset : BitVec 16) (value : BitVec 64) (be : BitVec 8) (tee : Tee) (s : State) (hI : Intact pq s) (t : State) (ht : execRegisterWrite fn offset value be tee s = .next t) : Intact pq t := by
  unfold execRegisterWrite at ht
  obtain rfl := Host.Outcome.next.inj ht
  repeat' first | with_reducible assumption | with_reducible apply barWrite_intact | with_reducible apply wideWrite_intact

theorem execIntrHoldoffExpiry_intact {pq : List Instr} (fn : FnId) (s : State) (hI : Intact pq s) (t : State) (ht : execIntrHoldoffExpiry fn s = .next t) : Intact pq t := by
  unfold execIntrHoldoffExpiry at ht
  obtain rfl := Host.Outcome.next.inj ht
  repeat' first | with_reducible assumption | with_reducible apply sendMessage_intact | with_reducible apply Intact.cond | intro _

theorem execMsixUnmask_intact {pq : List Instr} (fn : FnId) (s : State) (hI : Intact pq s) (t : State) (ht : execMsixUnmask fn s = .next t) : Intact pq t := by
  unfold execMsixUnmask at ht
  obtain rfl := Host.Outcome.next.inj ht
  repeat' first | with_reducible assumption | with_reducible apply pinsFollow_intact | with_reducible apply State.updFn_intact | with_reducible apply sendMessage_intact | with_reducible apply Intact.cond | intro _

/-! ## Machine/Host.lean -/

theorem finishCmd_intact {pq : List Instr} (fn family tag status result : Nat) (s : State) (hI : Intact pq s) : Intact pq (finishCmd fn family tag status result s) := by
  unfold finishCmd
  repeat' first | with_reducible assumption | with_reducible apply finishMaint_intact | with_reducible apply finish_intact | with_reducible apply Intact.cond | intro _

theorem takeEntry_intact {pq : List Instr} (fn : Nat) (e : Entry) (s : State) (hI : Intact pq s) : Intact pq (takeEntry fn e s) := by
  unfold takeEntry
  repeat' first | with_reducible assumption | with_reducible apply State.updFn_intact | with_reducible apply finishCmd_intact | with_reducible apply Intact.cond | intro _

theorem execCommandFetchReturn_intact {pq : List Instr} (fn : FnId) (entries : List Entry) (s : State) (hI : Intact pq s) (t : State) (ht : execCommandFetchReturn fn entries s = .next t) : Intact pq t := by
  unfold execCommandFetchReturn at ht
  obtain rfl := Host.Outcome.next.inj ht
  repeat' first | with_reducible assumption | with_reducible apply forEach_intact | with_reducible apply takeEntry_intact | with_reducible apply Intact.cond | intro _

theorem abortTransfer_intact {pq : List Instr} (fn tag : Nat) (s : State) (hI : Intact pq s) : Intact pq (abortTransfer fn tag s) := by
  unfold abortTransfer
  repeat' first | with_reducible assumption | with_reducible apply failStep_intact | with_reducible apply raise_intact | fail_if_no_progress with_reducible apply Intact.rebuild

theorem freeReadTag_intact {pq : List Instr} (tag : Nat) (s : State) (hI : Intact pq s) : Intact pq (freeReadTag tag s) := by
  unfold freeReadTag
  repeat' first | with_reducible assumption | fail_if_no_progress with_reducible apply Intact.rebuild

theorem readEnds_intact {pq : List Instr} (tag : Nat) (data : Option Bytes) (finds : List LineFind) (s : State) (hI : Intact pq s) : Intact pq (readEnds tag data finds s) := by
  unfold readEnds
  repeat' first | with_reducible assumption | with_reducible apply freeReadTag_intact | with_reducible apply lateDiscard_intact | with_reducible apply ingestPiece_intact | with_reducible apply abortTransfer_intact | split

theorem execHostReadCompletion_intact {pq : List Instr} (tag : BitVec 14) (status : RcStatus) (data : Bytes) (finds : List LineFind) (s : State) (hI : Intact pq s) (t : State) (ht : execHostReadCompletion tag status data finds s = .next t) : Intact pq t := by
  unfold execHostReadCompletion at ht
  obtain rfl := Host.Outcome.next.inj ht
  repeat' first | with_reducible assumption | with_reducible apply readEnds_intact

theorem execCompletionTimeout_intact {pq : List Instr} (tag : BitVec 14) (s : State) (hI : Intact pq s) (t : State) (ht : execCompletionTimeout tag s = .next t) : Intact pq t := by
  unfold execCompletionTimeout at ht
  obtain rfl := Host.Outcome.next.inj ht
  repeat' first | with_reducible assumption | with_reducible apply readEnds_intact

theorem withdraw_intact {pq : List Instr} (fn : Nat) (s : State) (hI : Intact pq s) : Intact pq (withdraw fn s) := by
  unfold withdraw
  repeat' first | with_reducible assumption | with_reducible apply forEach_intact | with_reducible apply abortTransfer_intact | with_reducible apply State.updFn_intact | fail_if_no_progress with_reducible apply Intact.rebuild

theorem goOn_intact {pq : List Instr} (fn : Nat) (s : State) (hI : Intact pq s) : Intact pq (goOn fn s) := by
  unfold goOn
  repeat' first | with_reducible assumption | with_reducible apply releaseHeld_intact | with_reducible apply sendMessage_intact | with_reducible apply pumpRing_intact | with_reducible apply forEach_intact | with_reducible apply exportPump_intact | with_reducible apply Intact.cond | intro _

theorem execBusMasterDisable_intact {pq : List Instr} (fn : FnId) (s : State) (hI : Intact pq s) (t : State) (ht : execBusMasterDisable fn s = .next t) : Intact pq t := by
  unfold execBusMasterDisable at ht
  obtain rfl := Host.Outcome.next.inj ht
  repeat' first | with_reducible assumption | with_reducible apply withdraw_intact | with_reducible apply State.updFn_intact | with_reducible apply Intact.cond | intro _

theorem execBusMasterEnable_intact {pq : List Instr} (fn : FnId) (s : State) (hI : Intact pq s) (t : State) (ht : execBusMasterEnable fn s = .next t) : Intact pq t := by
  unfold execBusMasterEnable at ht
  obtain rfl := Host.Outcome.next.inj ht
  repeat' first | with_reducible assumption | with_reducible apply State.updFn_intact | with_reducible apply goOn_intact | with_reducible apply Intact.cond | intro _

theorem execD3hotEntry_intact {pq : List Instr} (fn : FnId) (s : State) (hI : Intact pq s) (t : State) (ht : execD3hotEntry fn s = .next t) : Intact pq t := by
  unfold execD3hotEntry at ht
  obtain rfl := Host.Outcome.next.inj ht
  repeat' first | with_reducible assumption | with_reducible apply withdraw_intact | with_reducible apply State.updFn_intact | with_reducible apply Intact.cond | intro _

theorem execD0Return_intact {pq : List Instr} (fn : FnId) (s : State) (hI : Intact pq s) (t : State) (ht : execD0Return fn s = .next t) : Intact pq t := by
  unfold execD0Return at ht
  obtain rfl := Host.Outcome.next.inj ht
  repeat' first | with_reducible assumption | with_reducible apply State.updFn_intact | with_reducible apply goOn_intact | with_reducible apply Intact.cond | intro _

theorem startFlr_intact {pq : List Instr} (fn : Nat) (s : State) (hI : Intact pq s) : Intact pq (startFlr fn s) := by
  unfold startFlr
  repeat' first | with_reducible assumption | with_reducible apply finish_intact | with_reducible apply State.updFn_intact | with_reducible apply removeInst_intact | with_reducible apply State.updInst_intact | split

theorem execFlr_intact {pq : List Instr} (fn : FnId) (s : State) (hI : Intact pq s) (t : State) (ht : execFlr fn s = .next t) : Intact pq t := by
  unfold execFlr at ht
  obtain rfl := Host.Outcome.next.inj ht
  repeat' first | with_reducible assumption | with_reducible apply startFlr_intact | with_reducible apply Intact.cond | intro _

theorem removeVf_intact {pq : List Instr} (i : Nat) (s : State) (hI : Intact pq s) : Intact pq (removeVf i s) := by
  unfold removeVf
  repeat' first | with_reducible assumption | with_reducible apply removeInst_intact | with_reducible apply State.updFn_intact

theorem clearVfs_intact {pq : List Instr} (error : Bool) (s : State) (hI : Intact pq s) : Intact pq (clearVfs error s) := by
  unfold clearVfs
  repeat' first | with_reducible assumption | with_reducible apply forEach_intact | with_reducible apply removeVf_intact | with_reducible apply State.updInst_intact | with_reducible apply State.updSys_intact | intro _

theorem execVfEnableClear_intact {pq : List Instr} (s : State) (hI : Intact pq s) (t : State) (ht : execVfEnableClear s = .next t) : Intact pq t := by
  unfold execVfEnableClear at ht
  obtain rfl := Host.Outcome.next.inj ht
  repeat' first | with_reducible assumption | with_reducible apply clearVfs_intact | with_reducible apply Intact.cond | intro _

theorem execVfEnableSet_intact {pq : List Instr} (numVFs : BitVec 6) (s : State) (hI : Intact pq s) (t : State) (ht : execVfEnableSet numVFs s = .next t) : Intact pq t := by
  unfold execVfEnableSet at ht
  obtain rfl := Host.Outcome.next.inj ht
  repeat' first | with_reducible assumption | with_reducible apply State.updSys_intact | with_reducible apply forEach_intact | with_reducible apply resetFn_intact | with_reducible apply State.updFn_intact | with_reducible apply Intact.cond | intro _

theorem dropPfCommands_intact {pq : List Instr} (s : State) (hI : Intact pq s) : Intact pq (dropPfCommands s) := by
  unfold dropPfCommands
  repeat' first | with_reducible assumption | with_reducible apply forEach_intact | with_reducible apply State.updInst_intact | fail_if_no_progress with_reducible apply Intact.rebuild | intro _

theorem execPfFlr_intact {pq : List Instr} (s : State) (hI : Intact pq s) (t : State) (ht : execPfFlr s = .next t) : Intact pq t := by
  unfold execPfFlr at ht
  obtain rfl := Host.Outcome.next.inj ht
  repeat' first | with_reducible assumption | with_reducible apply startFlr_intact | with_reducible apply clearVfs_intact | with_reducible apply dropPfCommands_intact | with_reducible apply Intact.cond | intro _

theorem finishFlr_intact {pq : List Instr} (fn : Nat) (s : State) (hI : Intact pq s) : Intact pq (finishFlr fn s) := by
  unfold finishFlr
  repeat' first | with_reducible assumption | with_reducible apply resetFn_intact | with_reducible apply State.updFn_intact | with_reducible apply pinsFollow_intact | with_reducible apply resetCauses_intact | with_reducible apply State.updStall_intact

theorem execFlrComplete_intact {pq : List Instr} (fn : FnId) (s : State) (hI : Intact pq s) (t : State) (ht : execFlrComplete fn s = .next t) : Intact pq t := by
  unfold execFlrComplete at ht
  obtain rfl := Host.Outcome.next.inj ht
  repeat' first | with_reducible assumption | with_reducible apply finishFlr_intact | with_reducible apply Intact.cond | intro _

theorem execPcieLinkUp_intact {pq : List Instr} (rate : BitVec 3) (width : BitVec 5) (s : State) (hI : Intact pq s) (t : State) (ht : execPcieLinkUp rate width s = .next t) : Intact pq t := by
  unfold execPcieLinkUp at ht
  obtain rfl := Host.Outcome.next.inj ht
  repeat' first | with_reducible assumption | with_reducible apply State.updSys_intact | with_reducible apply State.updFn_intact | with_reducible apply Intact.cond | intro _

theorem linkLost_intact {pq : List Instr} (s : State) (hI : Intact pq s) : Intact pq (linkLost s) := by
  unfold linkLost
  repeat' first | with_reducible assumption | with_reducible apply raiseDev_intact | with_reducible apply forEach_intact | with_reducible apply withdraw_intact | with_reducible apply State.updInst_intact | with_reducible apply State.updFn_intact | with_reducible apply State.updSys_intact | with_reducible apply Intact.cond | intro _

theorem execPcieLinkDown_intact {pq : List Instr} (s : State) (hI : Intact pq s) (t : State) (ht : execPcieLinkDown s = .next t) : Intact pq t := by
  unfold execPcieLinkDown at ht
  obtain rfl := Host.Outcome.next.inj ht
  repeat' first | with_reducible assumption | with_reducible apply linkLost_intact

theorem execLinkRetrain_intact {pq : List Instr} (rate : BitVec 3) (width : BitVec 5) (s : State) (hI : Intact pq s) (t : State) (ht : execLinkRetrain rate width s = .next t) : Intact pq t := by
  unfold execLinkRetrain at ht
  obtain rfl := Host.Outcome.next.inj ht
  repeat' first | with_reducible assumption | with_reducible apply raiseDev_intact | with_reducible apply State.updSys_intact | with_reducible apply Intact.cond | intro _

end Sys2Proof.Machine
end

