-- ==== Sys2Proof/Laws/IntactCommands.lean ====
section
/-! SUPPORT. The commands of the rings: each keeps the queue and every memory (Intact). -/

namespace Sys2Proof.Machine

set_option maxRecDepth 4000

/-! ## Machine/Command.lean -/

theorem answerCmd_intact {pq : List Instr} (fn : Nat) (e : Entry) (status result : Nat) (s : State) (hI : Intact pq s) : Intact pq (answerCmd fn e status result s) := by
  unfold answerCmd
  repeat' first | with_reducible assumption | with_reducible apply finishCmd_intact

theorem refuseCmd_intact {pq : List Instr} (fn : Nat) (e : Entry) (status : Nat) (s : State) (hI : Intact pq s) : Intact pq (refuseCmd fn e status s) := by
  unfold refuseCmd
  repeat' first | with_reducible assumption | with_reducible apply answerCmd_intact

theorem notHere_intact {pq : List Instr} (fn : Nat) (e : Entry) (s : State) (hI : Intact pq s) : Intact pq (notHere fn e s) := by
  unfold notHere
  repeat' first | with_reducible assumption | with_reducible apply notAvailable_intact

theorem hostAbort_intact {pq : List Instr} (fn : Nat) (e : Entry) (s : State) (hI : Intact pq s) : Intact pq (hostAbort fn e s) := by
  unfold hostAbort
  repeat' first | with_reducible assumption | with_reducible apply refuseCmd_intact | with_reducible apply raise_intact

theorem takeOff_intact {pq : List Instr} (fn : Nat) (e : Entry) (s : State) (hI : Intact pq s) : Intact pq (takeOff fn e s) := by
  unfold takeOff
  repeat' first | with_reducible assumption | with_reducible apply State.updFn_intact

theorem runCmd_intact {pq : List Instr} (fn : Nat) (e : Entry) (r : Rules) (act : State → State) (s : State) (hact : ∀ s, Intact pq s → Intact pq (act s)) (hI : Intact pq s) : Intact pq (runCmd fn e r act s) := by
  unfold runCmd
  repeat' first | with_reducible assumption | with_reducible apply hact | with_reducible apply takeOff_intact | with_reducible apply notAvailable_intact | with_reducible apply notHere_intact | with_reducible apply refuseCmd_intact | split

theorem withBuf_intact {pq : List Instr} (fn : Nat) (e : Entry) (n : Nat) (buf : Buf) (act : Bytes → State → State) (s : State) (hact : ∀ a0 s, Intact pq s → Intact pq (act a0 s)) (hI : Intact pq s) : Intact pq (withBuf fn e n buf act s) := by
  unfold withBuf
  repeat' first | with_reducible assumption | with_reducible apply hact | with_reducible apply hostAbort_intact | split

theorem intoBuf_intact {pq : List Instr} (fn : Nat) (e : Entry) (bs : Bytes) (result : Nat) (s : State) (hI : Intact pq s) : Intact pq (intoBuf fn e bs result s) := by
  unfold intoBuf
  repeat' first | with_reducible assumption | with_reducible apply refuseCmd_intact | with_reducible apply hostAbort_intact | with_reducible apply answerCmd_intact | with_reducible apply hostWrite_intact | with_reducible apply Intact.cond | intro _

/-! ## Machine/Instances.lean -/

theorem execSessionReport_intact {pq : List Instr} (fn : FnId) (e : Entry) (s : State) (hI : Intact pq s) (t : State) (ht : execSessionReport fn e s = .next t) : Intact pq t := by
  unfold execSessionReport at ht
  obtain rfl := Host.Outcome.next.inj ht
  repeat' first | with_reducible assumption | with_reducible apply runCmd_intact | with_reducible apply makeReport_intact | with_reducible apply intoBuf_intact | with_reducible apply Intact.cond | intro _

theorem execLinkPolicy_intact {pq : List Instr} (fn : FnId) (e : Entry) (buf : Buf) (s : State) (hI : Intact pq s) (t : State) (ht : execLinkPolicy fn e buf s = .next t) : Intact pq t := by
  unfold execLinkPolicy at ht
  obtain rfl := Host.Outcome.next.inj ht
  repeat' first | with_reducible assumption | with_reducible apply runCmd_intact | with_reducible apply refuseCmd_intact | with_reducible apply withBuf_intact | with_reducible apply answerCmd_intact | with_reducible apply State.updSys_intact | with_reducible apply Intact.cond | intro _

theorem execConsent_intact {pq : List Instr} (fn : FnId) (e : Entry) (s : State) (hI : Intact pq s) (t : State) (ht : execConsent fn e s = .next t) : Intact pq t := by
  unfold execConsent at ht
  obtain rfl := Host.Outcome.next.inj ht
  repeat' first | with_reducible assumption | with_reducible apply runCmd_intact | with_reducible apply answerCmd_intact | with_reducible apply State.updInst_intact | with_reducible apply Intact.cond | intro _

theorem addSet_intact {pq : List Instr} (ps : PartSet) (s : State) (hI : Intact pq s) : Intact pq (addSet ps s).2 := by
  unfold addSet
  repeat' first | with_reducible assumption | split | fail_if_no_progress with_reducible apply Intact.rebuild

theorem setFor_intact {pq : List Instr} (s : State) (old : Option Nat) (parts : List Nat) (bytes : Nat) (hI : Intact pq s) (x : Nat) (t : State) (ht : setFor s old parts bytes = some (x, t)) : Intact pq t := by
  unfold setFor at ht
  have h1 : ∀ u : Nat × State, old.map (fun k => (k, s)) = some u → Intact pq u.2 := by
    intro u hu
    obtain ⟨k, _, hk⟩ := Option.map_eq_some_iff.mp hu
    cases hk
    exact hI
  have h2 : ∀ u : Nat × State, (placeSet s parts bytes).map (fun ps => addSet ps s) = some u → Intact pq u.2 := by
    intro u hu
    obtain ⟨k, _, hk⟩ := Option.map_eq_some_iff.mp hu
    subst hk
    exact addSet_intact _ _ hI
  dsimp only at ht
  split at ht <;> split at ht
  all_goals first | exact h1 _ ht | exact h2 _ ht

theorem planStall_intact {pq : List Instr} (s : State) (i : Nat) (a : Ask) (hI : Intact pq s) (x : Stall) (t : State) (ht : planStall s i a = some (x, t)) : Intact pq t := by
  unfold planStall at ht
  try dsimp only at ht
  repeat' split at ht
  all_goals try cases ht
  all_goals (repeat' first | with_reducible assumption | with_reducible apply State.updInst_intact | with_reducible refine setFor_intact (hI := ?_) (ht := by assumption) .. | with_reducible apply Intact.cond | intro _)

theorem createStall_intact {pq : List Instr} (i : Nat) (e : Entry) (s : State) (hI : Intact pq s) : Intact pq (createStall i e s) := by
  unfold createStall
  try dsimp only
  repeat' first | with_reducible assumption | with_reducible apply refuseCmd_intact | with_reducible refine planStall_intact (hI := ?_) (ht := by assumption) .. | with_reducible apply raiseOrWait_intact | with_reducible apply clearCores_intact | with_reducible apply dropObjects_intact | with_reducible apply answerCmd_intact | with_reducible apply followHeat_intact | with_reducible apply State.updInst_intact | split

theorem execInstanceCreate_intact {pq : List Instr} (fn : FnId) (e : Entry) (s : State) (hI : Intact pq s) (t : State) (ht : execInstanceCreate fn e s = .next t) : Intact pq t := by
  unfold execInstanceCreate at ht
  obtain rfl := Host.Outcome.next.inj ht
  repeat' first | with_reducible assumption | with_reducible apply runCmd_intact | with_reducible apply createStall_intact

theorem moveSet_intact {pq : List Instr} (i old new : Nat) (x0 : List (Nat × Pte)) (s : State) (hI : Intact pq s) (t : State) (ht : moveSet i old new x0 s = some t) : Intact pq t := by
  fun_induction moveSet i old new x0 s
  all_goals (try dsimp only at ht)
  all_goals (repeat' split at ht)
  all_goals (try cases ht)
  all_goals (repeat' first | with_reducible assumption | with_reducible refine (‹Intact _ _ → _ = some _ → Intact _ _› : _) ?_ (by assumption) | with_reducible apply zeroPage_intact | with_reducible apply copyLines_intact | with_reducible apply State.setPte_intact)

theorem trimResidents_intact {pq : List Instr} (i : Nat) (st : Stall) (s : State) (hI : Intact pq s) : Intact pq (trimResidents i st s) := by
  unfold trimResidents
  repeat' first | with_reducible assumption | with_reducible apply forEach_intact | with_reducible apply evict_intact | split | intro _

theorem swapGroups_intact {pq : List Instr} (relocate : Stall → Image → State → Image) (o : Nat) (st : Stall) (a : Ask) (s : State) (hI : Intact pq s) : Intact pq (swapGroups relocate o st a s) := by
  unfold swapGroups
  repeat' first | with_reducible assumption | with_reducible apply clearCores_intact | with_reducible apply State.updInst_intact | with_reducible apply followHeat_intact | with_reducible apply writeArea_intact

theorem sharesStall_intact {pq : List Instr} (i : Nat) (e : Entry) (bs : Bytes) (s : State) (hI : Intact pq s) : Intact pq (sharesStall i e bs s) := by
  have no : ∀ status, Intact pq (refuseCmd i e status s) := fun status => refuseCmd_intact _ _ _ _ hI
  unfold sharesStall
  refine Intact.cond (fun _ => no _) (fun _ => ?_)
  cases s.stall (eObj e) with
  | none => exact no _
  | some st =>
    refine Intact.cond (fun _ => no _) (fun _ => ?_)
    refine Intact.cond (fun _ => no _) (fun _ => ?_)
    refine Intact.cond (fun _ => no _) (fun _ => ?_)
    exact answerCmd_intact _ _ _ _ _ (State.updInst_intact _ _ _ hI)

theorem execInstanceShares_intact {pq : List Instr} (fn : FnId) (e : Entry) (buf : Buf) (s : State) (hI : Intact pq s) (t : State) (ht : execInstanceShares fn e buf s = .next t) : Intact pq t := by
  unfold execInstanceShares at ht
  obtain rfl := Host.Outcome.next.inj ht
  repeat' first | with_reducible assumption | with_reducible apply runCmd_intact | with_reducible apply refuseCmd_intact | with_reducible apply withBuf_intact | with_reducible apply sharesStall_intact | with_reducible apply Intact.cond | intro _

theorem execInstanceDestroy_intact {pq : List Instr} (fn : FnId) (e : Entry) (s : State) (hI : Intact pq s) (t : State) (ht : execInstanceDestroy fn e s = .next t) : Intact pq t := by
  unfold execInstanceDestroy at ht
  obtain rfl := Host.Outcome.next.inj ht
  repeat' first | with_reducible assumption | with_reducible apply runCmd_intact | with_reducible apply refuseCmd_intact | with_reducible apply removeInst_intact | with_reducible apply State.updInst_intact | with_reducible apply Intact.cond | intro _

theorem execInstanceQuery_intact {pq : List Instr} (fn : FnId) (e : Entry) (s : State) (hI : Intact pq s) (t : State) (ht : execInstanceQuery fn e s = .next t) : Intact pq t := by
  unfold execInstanceQuery at ht
  obtain rfl := Host.Outcome.next.inj ht
  repeat' first | with_reducible assumption | with_reducible apply runCmd_intact | with_reducible apply answerCmd_intact | intro _

theorem execTelemetryCores_intact {pq : List Instr} (fn : FnId) (e : Entry) (s : State) (hI : Intact pq s) (t : State) (ht : execTelemetryCores fn e s = .next t) : Intact pq t := by
  unfold execTelemetryCores at ht
  obtain rfl := Host.Outcome.next.inj ht
  repeat' first | with_reducible assumption | with_reducible apply runCmd_intact | with_reducible apply intoBuf_intact | intro _

theorem execTelemetryGroups_intact {pq : List Instr} (fn : FnId) (e : Entry) (s : State) (hI : Intact pq s) (t : State) (ht : execTelemetryGroups fn e s = .next t) : Intact pq t := by
  unfold execTelemetryGroups at ht
  obtain rfl := Host.Outcome.next.inj ht
  repeat' first | with_reducible assumption | with_reducible apply runCmd_intact | with_reducible apply intoBuf_intact | intro _

theorem execTelemetryClips_intact {pq : List Instr} (fn : FnId) (e : Entry) (s : State) (hI : Intact pq s) (t : State) (ht : execTelemetryClips fn e s = .next t) : Intact pq t := by
  unfold execTelemetryClips at ht
  obtain rfl := Host.Outcome.next.inj ht
  repeat' first | with_reducible assumption | with_reducible apply runCmd_intact | with_reducible apply intoBuf_intact | intro _

theorem execTelemetryEnergy_intact {pq : List Instr} (fn : FnId) (e : Entry) (eArray eFull : BitVec 32) (mv tenths : BitVec 16) (s : State) (hI : Intact pq s) (t : State) (ht : execTelemetryEnergy fn e eArray eFull mv tenths s = .next t) : Intact pq t := by
  unfold execTelemetryEnergy at ht
  obtain rfl := Host.Outcome.next.inj ht
  repeat' first | with_reducible assumption | with_reducible apply runCmd_intact | with_reducible apply refuseCmd_intact | with_reducible apply answerCmd_intact | with_reducible apply Intact.cond | intro _

/-! ## Machine/StepCmds.lean -/

theorem setAlmanac_intact {pq : List Instr} (i : Nat) (e : Entry) (bs : Bytes) (s : State) (hI : Intact pq s) : Intact pq (setAlmanac i e bs s) := by
  unfold setAlmanac
  repeat' first | with_reducible assumption | with_reducible apply refuseCmd_intact | with_reducible apply State.updInst_intact | split

theorem execAlmanacSet_intact {pq : List Instr} (fn : FnId) (e : Entry) (table : Buf) (s : State) (hI : Intact pq s) (t : State) (ht : execAlmanacSet fn e table s = .next t) : Intact pq t := by
  unfold execAlmanacSet at ht
  obtain rfl := Host.Outcome.next.inj ht
  repeat' first | with_reducible assumption | with_reducible apply runCmd_intact | with_reducible apply withBuf_intact | with_reducible apply setAlmanac_intact | intro _

theorem execAlmanacQuery_intact {pq : List Instr} (fn : FnId) (e : Entry) (s : State) (hI : Intact pq s) (t : State) (ht : execAlmanacQuery fn e s = .next t) : Intact pq t := by
  unfold execAlmanacQuery at ht
  obtain rfl := Host.Outcome.next.inj ht
  repeat' first | with_reducible assumption | with_reducible apply runCmd_intact | with_reducible apply answerCmd_intact | intro _

theorem enterStep_intact {pq : List Instr} (i : Nat) (p : Step) (s : State) (hI : Intact pq s) : Intact pq (enterStep i p s) := by
  unfold enterStep
  repeat' first | with_reducible assumption | with_reducible apply forEach_intact | with_reducible apply State.updAdapter_intact | with_reducible apply State.updInst_intact | with_reducible apply park_intact | with_reducible apply Intact.cond | intro _

theorem submitStep_intact {pq : List Instr} (i : Nat) (e : Entry) (p0 : Step) (bs par : Bytes) (s : State) (hI : Intact pq s) : Intact pq (submitStep i e p0 bs par s) := by
  unfold submitStep
  try dsimp only
  repeat' first | with_reducible assumption | with_reducible apply notHere_intact | with_reducible apply refuseCmd_intact | with_reducible apply enterStep_intact | split

theorem execStepRun_intact {pq : List Instr} (fn : FnId) (e : Entry) (list param : Buf) (s : State) (hI : Intact pq s) (t : State) (ht : execStepRun fn e list param s = .next t) : Intact pq t := by
  unfold execStepRun at ht
  obtain rfl := Host.Outcome.next.inj ht
  repeat' first | with_reducible assumption | with_reducible apply runCmd_intact | with_reducible apply refuseCmd_intact | with_reducible apply withBuf_intact | with_reducible apply submitStep_intact | with_reducible apply Intact.cond | intro _

theorem execStepCancel_intact {pq : List Instr} (fn : FnId) (e : Entry) (s : State) (hI : Intact pq s) (t : State) (ht : execStepCancel fn e s = .next t) : Intact pq t := by
  unfold execStepCancel at ht
  obtain rfl := Host.Outcome.next.inj ht
  repeat' first | with_reducible assumption | with_reducible apply runCmd_intact | with_reducible apply answerCmd_intact | with_reducible apply startFetches_intact | with_reducible apply endStep_intact | split | intro _

theorem execSyncRead_intact {pq : List Instr} (fn : FnId) (e : Entry) (s : State) (hI : Intact pq s) (t : State) (ht : execSyncRead fn e s = .next t) : Intact pq t := by
  unfold execSyncRead at ht
  obtain rfl := Host.Outcome.next.inj ht
  repeat' first | with_reducible assumption | with_reducible apply runCmd_intact | with_reducible apply answerCmd_intact | intro _

theorem execSyncSignal_intact {pq : List Instr} (fn : FnId) (e : Entry) (s : State) (hI : Intact pq s) (t : State) (ht : execSyncSignal fn e s = .next t) : Intact pq t := by
  unfold execSyncSignal at ht
  obtain rfl := Host.Outcome.next.inj ht
  repeat' first | with_reducible assumption | with_reducible apply runCmd_intact | with_reducible apply answerCmd_intact | with_reducible apply signalKind_intact | intro _

theorem execSyncReset_intact {pq : List Instr} (fn : FnId) (e : Entry) (s : State) (hI : Intact pq s) (t : State) (ht : execSyncReset fn e s = .next t) : Intact pq t := by
  unfold execSyncReset at ht
  obtain rfl := Host.Outcome.next.inj ht
  repeat' first | with_reducible assumption | with_reducible apply runCmd_intact | with_reducible apply answerCmd_intact | with_reducible apply State.updObj_intact | intro _

theorem startExport_intact {pq : List Instr} (i : Nat) (e : Entry) (handle : Bytes) (s : State) (hI : Intact pq s) : Intact pq (startExport i e handle s) := by
  unfold startExport
  try dsimp only
  repeat' first | with_reducible assumption | with_reducible apply answerCmd_intact | with_reducible apply State.updJob_intact | with_reducible apply finish_intact | with_reducible apply completeCommit_intact | with_reducible apply exportPump_intact | with_reducible apply replaceExport_intact | split

theorem execExportSet_intact {pq : List Instr} (fn : FnId) (e : Entry) (handle : Buf) (s : State) (hI : Intact pq s) (t : State) (ht : execExportSet fn e handle s = .next t) : Intact pq t := by
  unfold execExportSet at ht
  obtain rfl := Host.Outcome.next.inj ht
  repeat' first | with_reducible assumption | with_reducible apply runCmd_intact | with_reducible apply notHere_intact | with_reducible apply startExport_intact | with_reducible apply refuseCmd_intact | with_reducible apply withBuf_intact | split | intro _

theorem execExportAck_intact {pq : List Instr} (fn : FnId) (e : Entry) (s : State) (hI : Intact pq s) (t : State) (ht : execExportAck fn e s = .next t) : Intact pq t := by
  unfold execExportAck at ht
  obtain rfl := Host.Outcome.next.inj ht
  repeat' first | with_reducible assumption | with_reducible apply runCmd_intact | with_reducible apply State.updJob_intact | with_reducible apply exportPump_intact | with_reducible apply answerCmd_intact | intro _

theorem startShard_intact {pq : List Instr} (i : Nat) (e : Entry) (handle ids : Bytes) (s : State) (hI : Intact pq s) : Intact pq (startShard i e handle ids s) := by
  unfold startShard
  try dsimp only
  repeat' first | with_reducible assumption | with_reducible apply notHere_intact | with_reducible apply refuseCmd_intact | with_reducible apply State.updJob_intact | split

theorem execExportShard_intact {pq : List Instr} (fn : FnId) (e : Entry) (handle ids : Buf) (s : State) (hI : Intact pq s) (t : State) (ht : execExportShard fn e handle ids s = .next t) : Intact pq t := by
  unfold execExportShard at ht
  obtain rfl := Host.Outcome.next.inj ht
  repeat' first | with_reducible assumption | with_reducible apply runCmd_intact | with_reducible apply refuseCmd_intact | with_reducible apply withBuf_intact | with_reducible apply startShard_intact | with_reducible apply notHere_intact | with_reducible apply Intact.cond | intro _

/-! ## Machine/Images.lean -/

theorem makeRoom_intact {pq : List Instr} (i : Nat) (st : Stall) (need : Nat) (x0 : Nat) (s : State) (hI : Intact pq s) : Intact pq (makeRoom i st need x0 s) := by
  fun_induction makeRoom i st need x0 s
  all_goals (repeat' first | with_reducible assumption | with_reducible refine (‹Intact _ _ → Intact _ _› : _) ?_ | with_reducible apply evict_intact | fail_if_no_progress with_reducible apply Intact.rebuild)

theorem mapFree_intact {pq : List Instr} (inst set : Nat) (e0 : Pte) (x0 : Nat) (x1 : Nat) (s : State) (hI : Intact pq s) (t : State) (ht : mapFree inst set e0 x0 x1 s = some t) : Intact pq t := by
  fun_induction mapFree inst set e0 x0 x1 s
  all_goals (try dsimp only at ht)
  all_goals (repeat' split at ht)
  all_goals (try cases ht)
  all_goals (repeat' first | with_reducible assumption | with_reducible refine (‹Intact _ _ → _ = some _ → Intact _ _› : _) ?_ (by assumption) | with_reducible refine mapPage_intact (hI := ?_) (ht := by assumption) ..)

theorem mapRegion_intact {pq : List Instr} (i : Nat) (st : Stall) (r : Region) (s : State) (hI : Intact pq s) (t : State) (ht : mapRegion i st r s = some t) : Intact pq t := by
  unfold mapRegion at ht
  try dsimp only at ht
  repeat' split at ht
  all_goals try cases ht
  all_goals (repeat' first | with_reducible assumption | with_reducible refine mapFree_intact (hI := ?_) (ht := by assumption) ..)

theorem placeImage_intact {pq : List Instr} (i : Nat) (st : Stall) (im : Image) (s : State) (hI : Intact pq s) (t : State) (ht : placeImage i st im s = some t) : Intact pq t := by
  unfold placeImage at ht
  refine Intact.foldBind (mapRegion i st) (fun r s t h1 h2 => mapRegion_intact i st r s h1 t h2) _ _ ?_ t ht
  intro u hu
  cases hu
  exact makeRoom_intact _ _ _ _ _ hI

theorem placedWell_intact {pq : List Instr} (i : Nat) (st : Stall) (im : Image) (s : State) (hI : Intact pq s) (t : State) (ht : placedWell i st im s = some t) : Intact pq t := by
  unfold placedWell at ht
  try dsimp only at ht
  repeat' split at ht
  all_goals try cases ht
  all_goals (repeat' first | with_reducible assumption | with_reducible refine placeImage_intact (hI := ?_) (ht := by assumption) ..)

theorem declareObjects_intact {pq : List Instr} (i : Nat) (st : Stall) (im : Image) (s : State) (hI : Intact pq s) : Intact pq (declareObjects i st im s) := by
  unfold declareObjects
  repeat' first | with_reducible assumption | with_reducible apply forEach_intact | with_reducible apply dropObjects_intact | fail_if_no_progress with_reducible apply Intact.rebuild | intro _

theorem endLoad_intact {pq : List Instr} (i tag status result : Nat) (s : State) (hI : Intact pq s) : Intact pq (endLoad i tag status result s) := by
  unfold endLoad
  repeat' first | with_reducible assumption | with_reducible apply finishCmd_intact | with_reducible apply State.updInst_intact

theorem closeFlows_intact {pq : List Instr} (i : Nat) (s : State) (hI : Intact pq s) : Intact pq (closeFlows i s) := by
  unfold closeFlows
  repeat' first | with_reducible assumption | with_reducible apply releaseRates_intact | with_reducible apply dropQueued_intact | fail_if_no_progress with_reducible apply Intact.rebuild

theorem failLoad_intact {pq : List Instr} (i tag status : Nat) (s : State) (hI : Intact pq s) : Intact pq (failLoad i tag status s) := by
  unfold failLoad
  repeat' first | with_reducible assumption | with_reducible apply endLoad_intact | with_reducible apply closeFlows_intact

theorem installImage_intact {pq : List Instr} (i tag : Nat) (st : Stall) (im : Image) (s : State) (hI : Intact pq s) : Intact pq (installImage i tag st im s) := by
  unfold installImage
  repeat' first | with_reducible assumption | with_reducible refine placedWell_intact (hI := ?_) (ht := by assumption) .. | with_reducible apply failLoad_intact | with_reducible apply declareObjects_intact | with_reducible apply State.updInst_intact | with_reducible apply startFetches_intact | with_reducible apply endLoad_intact | with_reducible apply writeArea_intact | split

theorem loadImage_intact {pq : List Instr} (i tag : Nat) (bs : Bytes) (map : List MapEnt) (s : State) (hI : Intact pq s) : Intact pq (loadImage i tag bs map s) := by
  unfold loadImage
  repeat' first | with_reducible assumption | with_reducible apply endLoad_intact | with_reducible apply State.draw_intact | with_reducible apply installImage_intact | with_reducible apply State.updInst_intact | split

theorem execImageLoad_intact {pq : List Instr} (fn : FnId) (e : Entry) (image map : Buf) (s : State) (hI : Intact pq s) (t : State) (ht : execImageLoad fn e image map s = .next t) : Intact pq t := by
  unfold execImageLoad at ht
  obtain rfl := Host.Outcome.next.inj ht
  repeat' first | with_reducible assumption | with_reducible apply refuseCmd_intact | with_reducible apply withBuf_intact | with_reducible apply interim_intact | with_reducible apply State.updInst_intact | with_reducible apply loadImage_intact | with_reducible apply runCmd_intact | with_reducible apply Intact.cond | intro _

theorem resumeLoads_intact {pq : List Instr} (s : State) (hI : Intact pq s) : Intact pq (resumeLoads s) := by
  unfold resumeLoads
  repeat' first | with_reducible assumption | with_reducible apply forEach_intact | with_reducible apply loadImage_intact | split | intro _

theorem reserveRate_intact {pq : List Instr} (port key rate : Nat) (s : State) (hI : Intact pq s) : Intact pq (reserveRate port key rate s) := by
  unfold reserveRate
  repeat' first | with_reducible assumption | with_reducible apply State.updPort_intact

theorem openFlow_intact {pq : List Instr} (i : Nat) (st : Stall) (im : Image) (f : FlowDecl) (s : State) (hI : Intact pq s) (t : State) (ht : openFlow i st im f s = .opened t) : Intact pq t := by
  unfold openFlow at ht
  dsimp only at ht
  repeat' split at ht
  all_goals try cases ht
  · exact hI
  · exact Intact.rebuild _ _ _ _ _ _ _ _ _ _ _ _ _ _ _ _ _ _ _ _ _ _ _ _ _ _ _ _ _ _ _ _ _ _ _ _ (State.draw_intact s hI)
  · exact reserveRate_intact _ _ _ _ (reserveRate_intact _ _ _ _ (Intact.rebuild _ _ _ _ _ _ _ _ _ _ _ _ _ _ _ _ _ _ _ _ _ _ _ _ _ _ _ _ _ _ _ _ _ _ _ _ (State.draw_intact s hI)))

theorem flowMatches_intact {pq : List Instr} (i flow : Nat) (cls : Bool) (rate : Nat) (refused : Bool) (s : State) (hI : Intact pq s) : Intact pq (flowMatches i flow cls rate refused s) := by
  unfold flowMatches
  split
  · next tag im left st _ _ =>
    split
    · exact hI
    · next k _ =>
      split
      · exact failLoad_intact _ _ _ _ hI
      · split
        · next s1 ho =>
          obtain ⟨f, _, hf⟩ := Option.map_eq_some_iff.mp ho
          have h1 : Intact pq s1 := openFlow_intact i st im f s hI s1 hf
          dsimp only
          split
          · exact installImage_intact _ _ _ _ _ h1
          · exact State.updInst_intact _ _ _ h1
        · exact failLoad_intact _ _ _ _ hI
        · exact hI
  · exact hI

theorem execFlowMatch_intact {pq : List Instr} (fn : FnId) (flow : BitVec 20) (peerClass : Bool) (peerRate : BitVec 24) (refused : Bool) (s : State) (hI : Intact pq s) (t : State) (ht : execFlowMatch fn flow peerClass peerRate refused s = .next t) : Intact pq t := by
  unfold execFlowMatch at ht
  obtain rfl := Host.Outcome.next.inj ht
  repeat' first | with_reducible assumption | with_reducible apply flowMatches_intact

theorem execFlowMatchTimeout_intact {pq : List Instr} (fn : FnId) (flow : BitVec 20) (s : State) (hI : Intact pq s) (t : State) (ht : execFlowMatchTimeout fn flow s = .next t) : Intact pq t := by
  unfold execFlowMatchTimeout at ht
  obtain rfl := Host.Outcome.next.inj ht
  repeat' first | with_reducible assumption | with_reducible apply failLoad_intact | split

theorem dropPage_intact {pq : List Instr} (key : Nat) (s : State) (hI : Intact pq s) : Intact pq (dropPage key s) := by
  unfold dropPage
  repeat' first | with_reducible assumption | with_reducible apply unmapPage_intact | with_reducible apply Intact.cond | fail_if_no_progress with_reducible apply Intact.rebuild | intro _

theorem dropRegion_intact {pq : List Instr} (i : Nat) (r : Region) (s : State) (hI : Intact pq s) : Intact pq (dropRegion i r s) := by
  unfold dropRegion
  repeat' first | with_reducible assumption | with_reducible apply forEach_intact | with_reducible apply dropPage_intact | intro _

theorem unloadImage_intact {pq : List Instr} (i : Nat) (st : Stall) (im : Image) (s : State) (hI : Intact pq s) : Intact pq (unloadImage i st im s) := by
  unfold unloadImage
  repeat' first | with_reducible assumption | with_reducible apply forEach_intact | with_reducible apply dropRegion_intact | with_reducible apply dropObjects_intact | with_reducible apply closeFlows_intact | with_reducible apply finishCmd_intact | with_reducible apply State.updInst_intact | split

theorem execImageUnload_intact {pq : List Instr} (fn : FnId) (e : Entry) (s : State) (hI : Intact pq s) (t : State) (ht : execImageUnload fn e s = .next t) : Intact pq t := by
  unfold execImageUnload at ht
  obtain rfl := Host.Outcome.next.inj ht
  repeat' first | with_reducible assumption | with_reducible apply runCmd_intact | with_reducible apply refuseCmd_intact | with_reducible apply answerCmd_intact | with_reducible apply unloadImage_intact | split | intro _

theorem moveSets_intact {pq : List Instr} (o : Nat) (old st : Stall) (s : State) (hI : Intact pq s) (t : State) (ht : moveSets o old st s = some t) : Intact pq t := by
  unfold moveSets at ht
  dsimp only at ht
  have one : ∀ (a b : Nat) (s : State), Intact pq s → ∀ t, (if a = b then some s else moveSet o a b s.pages s) = some t → Intact pq t := by
    intro a b s hs t ht
    split at ht
    · cases ht; exact hs
    · exact moveSet_intact _ _ _ _ _ hs _ ht
  obtain ⟨u, hu, ht⟩ := Option.bind_eq_some_iff.mp ht
  exact one _ _ _ (one _ _ _ hI _ hu) _ ht

theorem resizeStall_intact {pq : List Instr} (i : Nat) (e : Entry) (old : Stall) (s : State) (hI : Intact pq s) : Intact pq (resizeStall i e old s) := by
  unfold resizeStall
  try dsimp only
  repeat' first | with_reducible assumption | with_reducible refine planStall_intact (hI := ?_) (ht := by assumption) .. | with_reducible apply refuseCmd_intact | with_reducible refine moveSets_intact (hI := ?_) (ht := by assumption) .. | with_reducible apply dropObjects_intact | with_reducible apply clearCores_intact | with_reducible apply State.updInst_intact | with_reducible apply answerCmd_intact | with_reducible apply followHeat_intact | with_reducible apply trimResidents_intact | split

theorem execInstanceResize_intact {pq : List Instr} (fn : FnId) (e : Entry) (s : State) (hI : Intact pq s) (t : State) (ht : execInstanceResize fn e s = .next t) : Intact pq t := by
  unfold execInstanceResize at ht
  obtain rfl := Host.Outcome.next.inj ht
  repeat' first | with_reducible assumption | with_reducible apply runCmd_intact | with_reducible apply refuseCmd_intact | with_reducible apply answerCmd_intact | with_reducible apply swapGroups_intact | with_reducible apply resizeStall_intact | split | intro _

/-! ## Machine/Weights.lean -/

theorem enterBaseSets_intact {pq : List Instr} (xs : List Extent) (s : State) (hI : Intact pq s) (t : State) (ht : enterBaseSets xs s = some t) : Intact pq t := by
  unfold enterBaseSets at ht
  dsimp only at ht
  obtain ⟨u, hu, ht⟩ := Option.bind_eq_some_iff.mp ht
  have h1 : Intact pq u := by
    split at hu
    · cases hu; exact hI
    · obtain ⟨ps, _, hp⟩ := Option.map_eq_some_iff.mp hu
      subst hp
      exact Intact.rebuild _ _ _ _ _ _ _ _ _ _ _ _ _ _ _ _ _ _ _ _ _ _ _ _ _ _ _ _ _ _ _ _ _ _ _ _ (addSet_intact _ _ hI)
  split at ht
  · cases ht; exact h1
  · obtain ⟨ps, _, hp⟩ := Option.map_eq_some_iff.mp ht
    subst hp
    exact Intact.rebuild _ _ _ _ _ _ _ _ _ _ _ _ _ _ _ _ _ _ _ _ _ _ _ _ _ _ _ _ _ _ _ _ _ _ _ _ (addSet_intact _ _ h1)

theorem dropWeightReads_intact {pq : List Instr} (s : State) (hI : Intact pq s) : Intact pq (dropWeightReads s) := by
  unfold dropWeightReads
  repeat' first | with_reducible assumption | fail_if_no_progress with_reducible apply Intact.rebuild

theorem failWeights_intact {pq : List Instr} (status : Nat) (s : State) (hI : Intact pq s) : Intact pq (failWeights status s) := by
  unfold failWeights
  repeat' first | with_reducible assumption | with_reducible apply dropWeightReads_intact | with_reducible apply finishCmd_intact | split | fail_if_no_progress with_reducible apply Intact.rebuild

theorem readExtents_intact {pq : List Instr} (xs : List Extent) (hs : Bytes) (s : State) (hI : Intact pq s) : Intact pq (readExtents xs hs s) := by
  unfold readExtents
  repeat' first | with_reducible assumption | with_reducible apply forEach_intact | with_reducible apply rdmaIssue_intact | split | intro _

theorem startWeights_intact {pq : List Instr} (e : Entry) (m hs : Bytes) (s : State) (hI : Intact pq s) : Intact pq (startWeights e m hs s) := by
  unfold startWeights
  repeat' first | with_reducible assumption | with_reducible apply refuseCmd_intact | with_reducible apply notHere_intact | with_reducible refine enterBaseSets_intact (hI := ?_) (ht := by assumption) .. | with_reducible apply readExtents_intact | split | fail_if_no_progress with_reducible apply Intact.rebuild

theorem execWeightsLoad_intact {pq : List Instr} (fn : FnId) (e : Entry) (manifest handles : Buf) (s : State) (hI : Intact pq s) (t : State) (ht : execWeightsLoad fn e manifest handles s = .next t) : Intact pq t := by
  unfold execWeightsLoad at ht
  obtain rfl := Host.Outcome.next.inj ht
  repeat' first | with_reducible assumption | with_reducible apply runCmd_intact | with_reducible apply refuseCmd_intact | with_reducible apply withBuf_intact | with_reducible apply startWeights_intact | with_reducible apply Intact.cond | intro _

theorem writeClear_intact {pq : List Instr} (e : Pte) (bs : Bytes) (s : State) (hI : Intact pq s) : Intact pq (writeClear e bs s) := by
  unfold writeClear
  repeat' first | with_reducible assumption | with_reducible apply forEach_intact | with_reducible apply State.setLine_intact | split | intro _

theorem putBasePage_intact {pq : List Instr} (la : Nat) (e : Pte) (bs : Bytes) (s : State) (hI : Intact pq s) : Intact pq (putBasePage la e bs s) := by
  unfold putBasePage
  repeat' first | with_reducible assumption | with_reducible apply writeClear_intact | with_reducible apply State.setPte_intact

theorem putExtent_intact {pq : List Instr} (x : Extent) (places : List (Bool × Nat)) (bs : Bytes) (s : State) (hI : Intact pq s) : Intact pq (putExtent x places bs s) := by
  unfold putExtent
  repeat' first | with_reducible assumption | with_reducible apply forEach_intact | with_reducible apply putBasePage_intact | split | intro _

theorem endWeights_intact {pq : List Instr} (tag : Nat) (m : Bytes) (s : State) (hI : Intact pq s) : Intact pq (endWeights tag m s) := by
  unfold endWeights
  try dsimp only
  repeat' first | with_reducible assumption | with_reducible apply failWeights_intact | with_reducible apply forEach_intact | with_reducible apply putExtent_intact | with_reducible apply finishCmd_intact | split | fail_if_no_progress with_reducible apply Intact.rebuild | intro _

theorem readItem_intact {pq : List Instr} (n : Nat) (s : State) (hI : Intact pq s) : Intact pq (readItem n s) := by
  unfold readItem
  repeat' first | with_reducible assumption | with_reducible apply rdmaIssue_intact | with_reducible apply State.emit_intact | split

theorem rereadItem_intact {pq : List Instr} (r : Rdma) (n : Nat) (s : State) (hI : Intact pq s) : Intact pq (rereadItem r n s) := by
  unfold rereadItem
  repeat' first | with_reducible assumption | with_reducible apply readItem_intact | fail_if_no_progress with_reducible apply Intact.rebuild

theorem endRepair_intact {pq : List Instr} (s : State) (hI : Intact pq s) : Intact pq (endRepair s) := by
  unfold endRepair
  repeat' first | with_reducible assumption | with_reducible apply finishCmd_intact | split | fail_if_no_progress with_reducible apply Intact.rebuild

theorem startRepair_intact {pq : List Instr} (e : Entry) (m hs : Bytes) (s : State) (hI : Intact pq s) : Intact pq (startRepair e m hs s) := by
  unfold startRepair
  repeat' first | with_reducible assumption | with_reducible apply refuseCmd_intact | with_reducible apply notHere_intact | with_reducible apply endRepair_intact | with_reducible apply forEach_intact | with_reducible apply readItem_intact | with_reducible apply Intact.cond | fail_if_no_progress with_reducible apply Intact.rebuild | intro _

theorem execWeightsRepair_intact {pq : List Instr} (fn : FnId) (e : Entry) (manifest handles : Buf) (s : State) (hI : Intact pq s) (t : State) (ht : execWeightsRepair fn e manifest handles s = .next t) : Intact pq t := by
  unfold execWeightsRepair at ht
  obtain rfl := Host.Outcome.next.inj ht
  repeat' first | with_reducible assumption | with_reducible apply runCmd_intact | with_reducible apply withBuf_intact | with_reducible apply startRepair_intact | intro _

theorem putItem_intact {pq : List Instr} (n : Nat) (bs : Bytes) (s : State) (hI : Intact pq s) : Intact pq (putItem n bs s) := by
  unfold putItem
  repeat' first | with_reducible assumption | with_reducible apply writeClear_intact | with_reducible apply forEach_intact | with_reducible apply State.setLine_intact | split | fail_if_no_progress with_reducible apply Intact.rebuild | intro _

theorem weightsArrive_intact {pq : List Instr} (r : Rdma) (n : Nat) (bs : Bytes) (ok : Bool) (s : State) (hI : Intact pq s) : Intact pq (weightsArrive r n bs ok s) := by
  unfold weightsArrive
  try dsimp only
  repeat' first | with_reducible assumption | with_reducible apply endRepair_intact | with_reducible apply putItem_intact | with_reducible apply rereadItem_intact | with_reducible apply failWeights_intact | with_reducible apply endWeights_intact | with_reducible apply refetch_intact | split | fail_if_no_progress with_reducible apply Intact.rebuild

theorem dropBase_intact {pq : List Instr} (s : State) (hI : Intact pq s) : Intact pq (dropBase s) := by
  unfold dropBase
  repeat' first | with_reducible assumption | with_reducible apply forEach_intact | with_reducible apply unmapPage_intact | fail_if_no_progress with_reducible apply Intact.rebuild | intro _

theorem execWeightsDrop_intact {pq : List Instr} (fn : FnId) (e : Entry) (s : State) (hI : Intact pq s) (t : State) (ht : execWeightsDrop fn e s = .next t) : Intact pq t := by
  unfold execWeightsDrop at ht
  obtain rfl := Host.Outcome.next.inj ht
  repeat' first | with_reducible assumption | with_reducible apply runCmd_intact | with_reducible apply refuseCmd_intact | with_reducible apply answerCmd_intact | with_reducible apply dropBase_intact | with_reducible apply Intact.cond | intro _

/-! ## Machine/Adapters.lean -/

theorem enterAdapter_intact {pq : List Instr} (i : Nat) (e : Entry) (handle : Bytes) (s : State) (hI : Intact pq s) : Intact pq (enterAdapter i e handle s) := by
  unfold enterAdapter
  repeat' first | with_reducible assumption | with_reducible apply answerCmd_intact | with_reducible apply State.updInst_intact

theorem execAdapterRegister_intact {pq : List Instr} (fn : FnId) (e : Entry) (handle : Buf) (s : State) (hI : Intact pq s) (t : State) (ht : execAdapterRegister fn e handle s = .next t) : Intact pq t := by
  unfold execAdapterRegister at ht
  obtain rfl := Host.Outcome.next.inj ht
  repeat' first | with_reducible assumption | with_reducible apply runCmd_intact | with_reducible apply refuseCmd_intact | with_reducible apply enterAdapter_intact | with_reducible apply withBuf_intact | with_reducible apply notHere_intact | with_reducible apply Intact.cond | intro _

theorem execAdapterWrite_intact {pq : List Instr} (fn : FnId) (e : Entry) (buf : Buf) (s : State) (hI : Intact pq s) (t : State) (ht : execAdapterWrite fn e buf s = .next t) : Intact pq t := by
  unfold execAdapterWrite at ht
  obtain rfl := Host.Outcome.next.inj ht
  repeat' first | with_reducible assumption | with_reducible apply runCmd_intact | with_reducible apply refuseCmd_intact | with_reducible apply withBuf_intact | with_reducible apply applyWrite_intact | with_reducible apply State.updAdapter_intact | with_reducible apply Intact.cond | intro _

theorem askStore_intact {pq : List Instr} (i id : Nat) (s : State) (hI : Intact pq s) : Intact pq (askStore i id s) := by
  unfold askStore
  repeat' first | with_reducible assumption | with_reducible apply rdmaIssue_intact | split

theorem putBack_intact {pq : List Instr} (fn : Nat) (e : Entry) (s : State) (hI : Intact pq s) : Intact pq (putBack fn e s) := by
  unfold putBack
  repeat' first | with_reducible assumption | with_reducible apply State.updFn_intact

theorem execAdapterRead_intact {pq : List Instr} (fn : FnId) (e : Entry) (s : State) (hI : Intact pq s) (t : State) (ht : execAdapterRead fn e s = .next t) : Intact pq t := by
  unfold execAdapterRead at ht
  obtain rfl := Host.Outcome.next.inj ht
  repeat' first | with_reducible assumption | with_reducible apply runCmd_intact | with_reducible apply notHere_intact | with_reducible apply refuseCmd_intact | with_reducible apply askStore_intact | with_reducible apply putBack_intact | with_reducible apply intoBuf_intact | split | intro _

theorem execAdapterFetch_intact {pq : List Instr} (fn : FnId) (e : Entry) (s : State) (hI : Intact pq s) (t : State) (ht : execAdapterFetch fn e s = .next t) : Intact pq t := by
  unfold execAdapterFetch at ht
  obtain rfl := Host.Outcome.next.inj ht
  repeat' first | with_reducible assumption | with_reducible apply runCmd_intact | with_reducible apply answerCmd_intact | with_reducible apply refuseCmd_intact | with_reducible apply startFetches_intact | with_reducible apply State.updAdapter_intact | with_reducible apply notHere_intact | split | intro _

theorem execUnregister_intact {pq : List Instr} (fn : FnId) (e : Entry) (s : State) (hI : Intact pq s) (t : State) (ht : execUnregister fn e s = .next t) : Intact pq t := by
  unfold execUnregister at ht
  obtain rfl := Host.Outcome.next.inj ht
  repeat' first | with_reducible assumption | with_reducible apply runCmd_intact | with_reducible apply refuseCmd_intact | with_reducible apply forEach_intact | with_reducible apply endStep_intact | with_reducible apply stepBoundary_intact | with_reducible apply State.updAdapter_intact | with_reducible apply Intact.cond | intro _

theorem openState_intact {pq : List Instr} (i : Nat) (ts : List Tensor) (t : Tensor) (s : State) (hI : Intact pq s) : Intact pq (openState i ts t s) := by
  unfold openState
  repeat' first | with_reducible assumption | with_reducible apply stateWrite_intact

theorem mapStates_intact {pq : List Instr} (i : Nat) (st : Stall) (ts : List Tensor) (s : State) (hI : Intact pq s) (t : State) (ht : mapStates i st ts s = some t) : Intact pq t := by
  unfold mapStates at ht
  refine Intact.foldBind _ (fun r s t h1 h2 => mapFree_intact _ _ _ _ _ s h1 t h2) _ _ ?_ t ht
  intro u hu
  cases hu
  exact hI

theorem openJob_intact {pq : List Instr} (i : Nat) (e : Entry) (st : Stall) (j : Job) (s : State) (hI : Intact pq s) : Intact pq (openJob i e st j s) := by
  unfold openJob
  try dsimp only
  repeat' first | with_reducible assumption | with_reducible apply refuseCmd_intact | with_reducible refine mapStates_intact (hI := ?_) (ht := by assumption) .. | with_reducible apply makeRoom_intact | with_reducible apply answerCmd_intact | with_reducible apply forEach_intact | with_reducible apply openState_intact | with_reducible apply State.updInst_intact | split

theorem readTable_intact {pq : List Instr} (i : Nat) (e : Entry) (rec_ tab : Bytes) (s : State) (hI : Intact pq s) : Intact pq (readTable i e rec_ tab s) := by
  unfold readTable
  try dsimp only
  repeat' first | with_reducible assumption | with_reducible apply refuseCmd_intact | with_reducible apply notHere_intact | with_reducible apply forEach_intact | with_reducible apply askStore_intact | with_reducible apply putBack_intact | with_reducible apply openJob_intact | split | intro _

theorem execJobOpen_intact {pq : List Instr} (fn : FnId) (e : Entry) (record tensors : Buf) (s : State) (hI : Intact pq s) (t : State) (ht : execJobOpen fn e record tensors s = .next t) : Intact pq t := by
  unfold execJobOpen at ht
  obtain rfl := Host.Outcome.next.inj ht
  repeat' first | with_reducible assumption | with_reducible apply runCmd_intact | with_reducible apply withBuf_intact | with_reducible apply refuseCmd_intact | with_reducible apply readTable_intact | with_reducible apply Intact.cond | intro _

theorem closeTensor_intact {pq : List Instr} (i : Nat) (j : Job) (t : Tensor) (s : State) (hI : Intact pq s) : Intact pq (closeTensor i j t s) := by
  unfold closeTensor
  repeat' first | with_reducible assumption | with_reducible apply State.updAdapter_intact | split

theorem settleAdapter_intact {pq : List Instr} (i id : Nat) (s : State) (hI : Intact pq s) : Intact pq (settleAdapter i id s) := by
  unfold settleAdapter
  repeat' first | with_reducible assumption | with_reducible apply State.updAdapter_intact | with_reducible apply stateWrite_intact | with_reducible apply writeBack_intact | split

theorem closeJob_intact {pq : List Instr} (i : Nat) (j : Job) (s : State) (hI : Intact pq s) : Intact pq (closeJob i j s) := by
  unfold closeJob
  repeat' first | with_reducible assumption | with_reducible apply forEach_intact | with_reducible apply settleAdapter_intact | with_reducible apply closeTensor_intact | with_reducible apply freeStates_intact | with_reducible apply endExport_intact | with_reducible apply State.updInst_intact | fail_if_no_progress with_reducible apply Intact.rebuild

theorem execJobClose_intact {pq : List Instr} (fn : FnId) (e : Entry) (s : State) (hI : Intact pq s) (t : State) (ht : execJobClose fn e s = .next t) : Intact pq t := by
  unfold execJobClose at ht
  obtain rfl := Host.Outcome.next.inj ht
  repeat' first | with_reducible assumption | with_reducible apply runCmd_intact | with_reducible apply notHere_intact | with_reducible apply refuseCmd_intact | with_reducible apply answerCmd_intact | with_reducible apply startFetches_intact | with_reducible apply closeJob_intact | split | intro _

-- TODO JobState.code : JobState → Nat

theorem execJobQuery_intact {pq : List Instr} (fn : FnId) (e : Entry) (s : State) (hI : Intact pq s) (t : State) (ht : execJobQuery fn e s = .next t) : Intact pq t := by
  unfold execJobQuery at ht
  obtain rfl := Host.Outcome.next.inj ht
  repeat' first | with_reducible assumption | with_reducible apply runCmd_intact | with_reducible apply notHere_intact | with_reducible apply answerCmd_intact | split | intro _

theorem acceptReshard_intact {pq : List Instr} (i : Nat) (e : Entry) (map : List MapEnt) (handle : Bytes) (hostSet : Option Bytes) (s : State) (hI : Intact pq s) : Intact pq (acceptReshard i e map handle hostSet s) := by
  unfold acceptReshard
  repeat' first | with_reducible assumption | with_reducible apply State.updJob_intact | with_reducible apply interim_intact | with_reducible apply startReshard_intact | with_reducible apply Intact.cond | intro _

theorem acceptSets_intact {pq : List Instr} (i : Nat) (e : Entry) (j : Job) (map : List MapEnt) (sets : Buf) (hostSet : Buf) (s : State) (hI : Intact pq s) : Intact pq (acceptSets i e j map sets hostSet s) := by
  unfold acceptSets
  try dsimp only
  repeat' first | with_reducible assumption | with_reducible apply refuseCmd_intact | with_reducible apply withBuf_intact | with_reducible apply acceptReshard_intact | with_reducible apply notHere_intact | with_reducible apply hostAbort_intact | split | intro _

theorem execReshard_intact {pq : List Instr} (fn : FnId) (e : Entry) (map sets hostSet : Buf) (s : State) (hI : Intact pq s) (t : State) (ht : execReshard fn e map sets hostSet s = .next t) : Intact pq t := by
  unfold execReshard at ht
  obtain rfl := Host.Outcome.next.inj ht
  try dsimp only
  repeat' first | with_reducible assumption | with_reducible apply runCmd_intact | with_reducible apply withBuf_intact | with_reducible apply notHere_intact | with_reducible apply refuseCmd_intact | with_reducible apply acceptSets_intact | with_reducible apply acceptReshard_intact | split | intro _

/-! ## Machine/Migrate.lean -/

theorem settleFreeze_intact {pq : List Instr} (i : Nat) (s : State) (hI : Intact pq s) : Intact pq (settleFreeze i s) := by
  unfold settleFreeze
  repeat' first | with_reducible assumption | with_reducible apply finish_intact | with_reducible apply suspend_intact | with_reducible apply State.updInst_intact | split

theorem settleFreezes_intact {pq : List Instr} (s : State) (hI : Intact pq s) : Intact pq (settleFreezes s) := by
  unfold settleFreezes
  repeat' first | with_reducible assumption | with_reducible apply forEach_intact | with_reducible apply settleFreeze_intact

theorem execFreeze_intact {pq : List Instr} (fn : FnId) (e : Entry) (s : State) (hI : Intact pq s) (t : State) (ht : execFreeze fn e s = .next t) : Intact pq t := by
  unfold execFreeze at ht
  obtain rfl := Host.Outcome.next.inj ht
  repeat' first | with_reducible assumption | with_reducible apply runCmd_intact | with_reducible apply refuseCmd_intact | with_reducible apply forEach_intact | with_reducible apply endStep_intact | with_reducible apply settleFreeze_intact | with_reducible apply State.updInst_intact | with_reducible apply Intact.cond | intro _

theorem execThaw_intact {pq : List Instr} (fn : FnId) (e : Entry) (s : State) (hI : Intact pq s) (t : State) (ht : execThaw fn e s = .next t) : Intact pq t := by
  unfold execThaw at ht
  obtain rfl := Host.Outcome.next.inj ht
  repeat' first | with_reducible assumption | with_reducible apply runCmd_intact | with_reducible apply refuseCmd_intact | with_reducible apply answerCmd_intact | with_reducible apply State.updInst_intact | with_reducible apply Intact.cond | intro _

theorem makePackage_intact {pq : List Instr} (i : Nat) (st : Stall) (key : BitVec 256) (s : State) (hI : Intact pq s) : Intact pq (makePackage i st key s).2 := by
  unfold makePackage
  repeat' first | with_reducible assumption | with_reducible apply State.draw_intact

theorem savePackage_intact {pq : List Instr} (e : Entry) (st : Stall) (key : BitVec 256) (handle : Option Bytes) (s : State) (hI : Intact pq s) : Intact pq (savePackage e st key handle s) := by
  unfold savePackage
  try dsimp only
  repeat' first | with_reducible assumption | with_reducible apply makePackage_intact | with_reducible apply intoBuf_intact | with_reducible apply refuseCmd_intact | with_reducible apply rdmaIssue_intact | split

theorem execSave_intact {pq : List Instr} (fn : FnId) (e : Entry) (handle : Buf) (s : State) (hI : Intact pq s) (t : State) (ht : execSave fn e handle s = .next t) : Intact pq t := by
  unfold execSave at ht
  obtain rfl := Host.Outcome.next.inj ht
  repeat' first | with_reducible assumption | with_reducible apply runCmd_intact | with_reducible apply refuseCmd_intact | with_reducible apply savePackage_intact | with_reducible apply withBuf_intact | with_reducible apply notHere_intact | split | intro _

theorem putPage_intact {pq : List Instr} (i la : Nat) (units : List (Bytes × Bool)) (s : State) (hI : Intact pq s) : Intact pq (putPage i la units s) := by
  unfold putPage
  try dsimp only
  repeat' first | with_reducible assumption | with_reducible apply State.setLine_intact | with_reducible apply forEach_intact | split | intro _

theorem pagesIn_intact {pq : List Instr} (i : Nat) (st : Stall) (k : Nat) (bs : Bytes) (x : Option State) (hI : ∀ t, x = some t → Intact pq t) (t : State) (ht : pagesIn i st k bs x = some t) : Intact pq t := by
  fun_induction pagesIn i st k bs x with
  | case1 => exact hI t ht
  | case2 => exact hI t ht
  | case3 bs x k hb h n unit la units e0 ih =>
    refine ih (fun u hu => ?_) ht
    obtain ⟨v, hv, rfl⟩ := Option.map_eq_some_iff.mp hu
    obtain ⟨w, hw, hv⟩ := Option.bind_eq_some_iff.mp hv
    exact putPage_intact _ _ _ _ (mapFree_intact _ _ _ _ _ _ (hI w hw) _ hv)

theorem objectsIn_intact {pq : List Instr} (i : Nat) (st : Stall) (bs : Bytes) (s : State) (hI : Intact pq s) : Intact pq (objectsIn i st bs s) := by
  unfold objectsIn
  repeat' first | with_reducible assumption | with_reducible apply forEach_intact | with_reducible apply Intact.cond | fail_if_no_progress with_reducible apply Intact.rebuild | intro _

theorem spillIn_intact {pq : List Instr} (i : Nat) (im : Image) (x0 : Nat) (x1 : Bytes) (s : State) (hI : Intact pq s) : Intact pq (spillIn i im x0 x1 s) := by
  fun_induction spillIn i im x0 x1 s
  all_goals (repeat' first | with_reducible assumption | with_reducible refine (‹Intact _ _ → Intact _ _› : _) ?_ | with_reducible apply stateWrite_intact)

theorem writePackage_intact {pq : List Instr} (i : Nat) (st : Stall) (body : Bytes) (s : State) (hI : Intact pq s) (t : State) (ht : writePackage i st body s = some t) : Intact pq t := by
  unfold writePackage at ht
  dsimp only at ht
  obtain ⟨u, hu, hp⟩ := Option.map_eq_some_iff.mp ht
  have h0 : Intact pq s.draw.2 := State.draw_intact _ hI
  have h1 : Intact pq u := by
    refine pagesIn_intact _ _ _ _ _ (fun v hv => pagesIn_intact _ _ _ _ _ (fun w hw => ?_) v hv) u hu
    split at hw
    · exact placeImage_intact _ _ _ _ h0 _ hw
    · cases hw; exact h0
  subst hp
  refine writeArea_intact _ _ (State.updInst_intact _ _ _ (objectsIn_intact _ _ _ _ ?_))
  split
  · exact spillIn_intact _ _ _ _ _ (declareObjects_intact _ _ _ _ h1)
  · exact h1

theorem restorePackage_intact {pq : List Instr} (i tag : Nat) (bs : Bytes) (s : State) (hI : Intact pq s) : Intact pq (restorePackage i tag bs s) := by
  unfold restorePackage
  try dsimp only
  repeat' first | with_reducible assumption | with_reducible apply raiseGen_intact | with_reducible apply queueScrub_intact | with_reducible apply dropObjects_intact | with_reducible apply dropKeyed_intact | with_reducible apply finish_intact | with_reducible refine writePackage_intact (hI := ?_) (ht := by assumption) .. | split

theorem execRestore_intact {pq : List Instr} (fn : FnId) (e : Entry) (package : Buf) (s : State) (hI : Intact pq s) (t : State) (ht : execRestore fn e package s = .next t) : Intact pq t := by
  unfold execRestore at ht
  obtain rfl := Host.Outcome.next.inj ht
  repeat' first | with_reducible assumption | with_reducible apply runCmd_intact | with_reducible apply withBuf_intact | with_reducible apply restorePackage_intact | with_reducible apply notHere_intact | with_reducible apply rdmaIssue_intact | with_reducible apply Intact.cond | intro _

end Sys2Proof.Machine
end

