-- ==== Sys2Proof/Laws/IntactPower.lean ====
section
/-! SUPPORT. Storage, maintenance commands, recovery, the Porter, time and power: each keeps the queue and every memory (Intact). -/

namespace Sys2Proof.Machine

set_option maxRecDepth 4000

/-! ## Machine/Storage.lean -/

theorem dropReq_intact {pq : List Instr} (r : Rdma) (s : State) (hI : Intact pq s) : Intact pq (dropReq r s) := by
  unfold dropReq
  repeat' first | with_reducible assumption | with_reducible apply pumpRdma_intact | fail_if_no_progress with_reducible apply Intact.rebuild

theorem failUse_intact {pq : List Instr} (r : Rdma) (status : Nat) (s : State) (hI : Intact pq s) : Intact pq (failUse r status s) := by
  unfold failUse
  repeat' first | with_reducible assumption | with_reducible apply failWeights_intact | with_reducible apply writeBack_intact | with_reducible apply fetchFails_intact | with_reducible apply failExport_intact | with_reducible apply finish_intact | with_reducible apply contributeReshard_intact | split

theorem timeOut_intact {pq : List Instr} (r : Rdma) (s : State) (hI : Intact pq s) : Intact pq (timeOut r s) := by
  unfold timeOut
  repeat' first | with_reducible assumption | with_reducible apply dropReq_intact | with_reducible apply failUse_intact | with_reducible apply raise_intact | with_reducible apply Intact.cond | intro _

theorem adapterArrives_intact {pq : List Instr} (r : Rdma) (id : Nat) (bs : Bytes) (ok : Bool) (s : State) (hI : Intact pq s) : Intact pq (adapterArrives r id bs ok s) := by
  unfold adapterArrives
  repeat' first | with_reducible assumption | with_reducible apply writeBack_intact | with_reducible apply raise_intact | with_reducible apply State.updAdapter_intact | with_reducible apply refetch_intact | with_reducible apply failUse_intact | split

theorem setArrives_intact {pq : List Instr} (r : Rdma) (job : Nat) (bs : Bytes) (ok : Bool) (s : State) (hI : Intact pq s) : Intact pq (setArrives r job bs ok s) := by
  unfold setArrives
  try dsimp only
  repeat' first | with_reducible assumption | with_reducible apply takeSet_intact | with_reducible apply raise_intact | with_reducible apply refetch_intact | with_reducible apply contributeReshard_intact | split

theorem readArrives_intact {pq : List Instr} (r : Rdma) (bs : Bytes) (ok : Bool) (s : State) (hI : Intact pq s) : Intact pq (readArrives r bs ok s) := by
  unfold readArrives
  repeat' first | with_reducible assumption | with_reducible apply weightsArrive_intact | with_reducible apply adapterArrives_intact | with_reducible apply setArrives_intact | with_reducible apply restorePackage_intact | with_reducible apply refetch_intact | with_reducible apply finish_intact | split

theorem execRdmaReadResponse_intact {pq : List Instr} (port : Fin 96) (req : Nat) (data : Bytes) (checkOk ce : Bool) (s : State) (hI : Intact pq s) (t : State) (ht : execRdmaReadResponse port req data checkOk ce s = .next t) : Intact pq t := by
  unfold execRdmaReadResponse at ht
  obtain rfl := Host.Outcome.next.inj ht
  repeat' first | with_reducible assumption | with_reducible apply State.emit_intact | with_reducible apply dropOther_intact | with_reducible apply lateDiscard_intact | with_reducible apply dropReq_intact | with_reducible apply readArrives_intact | split

theorem writeVisible_intact {pq : List Instr} (r : Rdma) (s : State) (hI : Intact pq s) : Intact pq (writeVisible r s) := by
  unfold writeVisible
  repeat' first | with_reducible assumption | with_reducible apply State.updJob_intact | with_reducible apply finish_intact | with_reducible apply dropCopy_intact | split

theorem execRdmaAck_intact {pq : List Instr} (port : Fin 96) (req : Nat) (s : State) (hI : Intact pq s) (t : State) (ht : execRdmaAck port req s = .next t) : Intact pq t := by
  unfold execRdmaAck at ht
  obtain rfl := Host.Outcome.next.inj ht
  repeat' first | with_reducible assumption | with_reducible apply dropOther_intact | with_reducible apply lateDiscard_intact | with_reducible apply dropReq_intact | with_reducible apply writeVisible_intact | split

theorem execRdmaNak_intact {pq : List Instr} (port : Fin 96) (qpn : BitVec 24) (psn : BitVec 24) (s : State) (hI : Intact pq s) (t : State) (ht : execRdmaNak port qpn psn s = .next t) : Intact pq t := by
  unfold execRdmaNak at ht
  obtain rfl := Host.Outcome.next.inj ht
  repeat' first | with_reducible assumption | with_reducible apply forEach_intact | with_reducible apply resend_intact | with_reducible apply Intact.cond | intro _

theorem execCnp_intact {pq : List Instr} (port : Fin 96) (qpn : BitVec 24) (s : State) (hI : Intact pq s) (t : State) (ht : execCnp port qpn s = .next t) : Intact pq t := by
  unfold execCnp at ht
  obtain rfl := Host.Outcome.next.inj ht
  repeat' first | with_reducible assumption | with_reducible apply State.updPort_intact | with_reducible apply Intact.cond | intro _

theorem execIncomingRequestDrop_intact {pq : List Instr} (port : Fin 96) (s : State) (hI : Intact pq s) (t : State) (ht : execIncomingRequestDrop port s = .next t) : Intact pq t := by
  unfold execIncomingRequestDrop at ht
  obtain rfl := Host.Outcome.next.inj ht
  repeat' first | with_reducible assumption | with_reducible apply dropOther_intact | with_reducible apply Intact.cond | intro _

theorem execRdmaAckTimeout_intact {pq : List Instr} (port : Fin 96) (req : Nat) (s : State) (hI : Intact pq s) (t : State) (ht : execRdmaAckTimeout port req s = .next t) : Intact pq t := by
  unfold execRdmaAckTimeout at ht
  obtain rfl := Host.Outcome.next.inj ht
  repeat' first | with_reducible assumption | with_reducible apply timeOut_intact | with_reducible apply resend_intact | split | fail_if_no_progress with_reducible apply Intact.rebuild

theorem execStorageNoProgress_intact {pq : List Instr} (port : Fin 96) (req : Nat) (s : State) (hI : Intact pq s) (t : State) (ht : execStorageNoProgress port req s = .next t) : Intact pq t := by
  unfold execStorageNoProgress at ht
  obtain rfl := Host.Outcome.next.inj ht
  repeat' first | with_reducible assumption | with_reducible apply timeOut_intact | split

theorem execPfcFrame_intact {pq : List Instr} (port : Fin 96) (pause : Bool) (s : State) (hI : Intact pq s) (t : State) (ht : execPfcFrame port pause s = .next t) : Intact pq t := by
  unfold execPfcFrame at ht
  obtain rfl := Host.Outcome.next.inj ht
  repeat' first | with_reducible assumption | with_reducible apply State.updPort_intact | with_reducible apply pumpRdma_intact | with_reducible apply Intact.cond | intro _

/-! ## Machine/MaintCmds.lean -/

theorem setMode_intact {pq : List Instr} (port : Nat) (m : PortMode) (s : State) (hI : Intact pq s) : Intact pq (setMode port m s) := by
  unfold setMode
  repeat' first | with_reducible assumption | with_reducible apply portDown_intact | with_reducible apply State.updPort_intact | with_reducible apply Intact.cond | intro _

theorem execPortMode_intact {pq : List Instr} (fn : FnId) (e : Entry) (s : State) (hI : Intact pq s) (t : State) (ht : execPortMode fn e s = .next t) : Intact pq t := by
  unfold execPortMode at ht
  obtain rfl := Host.Outcome.next.inj ht
  repeat' first | with_reducible assumption | with_reducible apply runCmd_intact | with_reducible apply putBack_intact | with_reducible apply answerCmd_intact | with_reducible apply refuseCmd_intact | with_reducible apply setMode_intact | with_reducible apply Intact.cond | intro _

theorem execPortRetry_intact {pq : List Instr} (fn : FnId) (e : Entry) (s : State) (hI : Intact pq s) (t : State) (ht : execPortRetry fn e s = .next t) : Intact pq t := by
  unfold execPortRetry at ht
  obtain rfl := Host.Outcome.next.inj ht
  repeat' first | with_reducible assumption | with_reducible apply runCmd_intact | with_reducible apply answerCmd_intact | with_reducible apply State.updPort_intact | with_reducible apply refuseCmd_intact | with_reducible apply Intact.cond | intro _

theorem execDeviceId_intact {pq : List Instr} (fn : FnId) (e : Entry) (s : State) (hI : Intact pq s) (t : State) (ht : execDeviceId fn e s = .next t) : Intact pq t := by
  unfold execDeviceId at ht
  obtain rfl := Host.Outcome.next.inj ht
  repeat' first | with_reducible assumption | with_reducible apply runCmd_intact | with_reducible apply refuseCmd_intact | with_reducible apply State.updSys_intact | with_reducible apply answerCmd_intact | with_reducible apply ownTopoChange_intact | with_reducible apply Intact.cond | intro _

theorem execQpOpen_intact {pq : List Instr} (fn : FnId) (e : Entry) (s : State) (hI : Intact pq s) (t : State) (ht : execQpOpen fn e s = .next t) : Intact pq t := by
  unfold execQpOpen at ht
  obtain rfl := Host.Outcome.next.inj ht
  repeat' first | with_reducible assumption | with_reducible apply runCmd_intact | with_reducible apply refuseCmd_intact | with_reducible apply answerCmd_intact | with_reducible apply Intact.cond | fail_if_no_progress with_reducible apply Intact.rebuild | intro _

theorem execQpClose_intact {pq : List Instr} (fn : FnId) (e : Entry) (s : State) (hI : Intact pq s) (t : State) (ht : execQpClose fn e s = .next t) : Intact pq t := by
  unfold execQpClose at ht
  obtain rfl := Host.Outcome.next.inj ht
  repeat' first | with_reducible assumption | with_reducible apply runCmd_intact | with_reducible apply refuseCmd_intact | with_reducible apply answerCmd_intact | with_reducible apply Intact.cond | fail_if_no_progress with_reducible apply Intact.rebuild | intro _

theorem resetDma_intact {pq : List Instr} (k : Nat) (s : State) (hI : Intact pq s) : Intact pq (resetDma k s) := by
  unfold resetDma
  repeat' first | with_reducible assumption | with_reducible apply forEach_intact | with_reducible apply failStep_intact | with_reducible apply raise_intact | with_reducible apply Intact.cond | fail_if_no_progress with_reducible apply Intact.rebuild | intro _

theorem resetLink_intact {pq : List Instr} (k : Nat) (s : State) (hI : Intact pq s) : Intact pq (resetLink k s) := by
  unfold resetLink
  try dsimp only
  repeat' first | with_reducible assumption | with_reducible apply forEach_intact | with_reducible apply dropReq_intact | with_reducible apply failUse_intact | with_reducible apply raise_intact | with_reducible apply failStep_intact | split | fail_if_no_progress with_reducible apply Intact.rebuild | intro _

theorem execEngineReset_intact {pq : List Instr} (fn : FnId) (e : Entry) (s : State) (hI : Intact pq s) (t : State) (ht : execEngineReset fn e s = .next t) : Intact pq t := by
  unfold execEngineReset at ht
  obtain rfl := Host.Outcome.next.inj ht
  repeat' first | with_reducible assumption | with_reducible apply runCmd_intact | with_reducible apply answerCmd_intact | with_reducible apply resetLink_intact | with_reducible apply resetDma_intact | with_reducible apply Intact.cond | intro _

theorem runActivity_intact {pq : List Instr} (e : Entry) (kind : ActKind) (res : List Res) (arg : Nat) (endBy : Option Nat) (s : State) (hI : Intact pq s) : Intact pq (runActivity e kind res arg endBy s) := by
  unfold runActivity
  try dsimp only
  repeat' first | with_reducible assumption | with_reducible apply declareAct_intact | with_reducible apply startAct_intact | with_reducible apply interim_intact | split

theorem execGroupTest_intact {pq : List Instr} (fn : FnId) (e : Entry) (s : State) (hI : Intact pq s) (t : State) (ht : execGroupTest fn e s = .next t) : Intact pq t := by
  unfold execGroupTest at ht
  obtain rfl := Host.Outcome.next.inj ht
  repeat' first | with_reducible assumption | with_reducible apply runCmd_intact | with_reducible apply runActivity_intact | with_reducible apply refuseCmd_intact | with_reducible apply Intact.cond | intro _

theorem execRecal_intact {pq : List Instr} (fn : FnId) (e : Entry) (s : State) (hI : Intact pq s) (t : State) (ht : execRecal fn e s = .next t) : Intact pq t := by
  unfold execRecal at ht
  obtain rfl := Host.Outcome.next.inj ht
  repeat' first | with_reducible assumption | with_reducible apply runCmd_intact | with_reducible apply runActivity_intact

theorem execHold_intact {pq : List Instr} (fn : FnId) (e : Entry) (s : State) (hI : Intact pq s) (t : State) (ht : execHold fn e s = .next t) : Intact pq t := by
  unfold execHold at ht
  obtain rfl := Host.Outcome.next.inj ht
  repeat' first | with_reducible assumption | with_reducible apply runCmd_intact | with_reducible apply runActivity_intact | intro _

theorem execFwUpdate_intact {pq : List Instr} (fn : FnId) (e : Entry) (buf : Buf) (patch : Patch) (s : State) (hI : Intact pq s) (t : State) (ht : execFwUpdate fn e buf patch s = .next t) : Intact pq t := by
  unfold execFwUpdate at ht
  obtain rfl := Host.Outcome.next.inj ht
  repeat' first | with_reducible assumption | with_reducible apply runCmd_intact | with_reducible apply withBuf_intact | with_reducible apply refuseCmd_intact | with_reducible apply raiseDev_intact | with_reducible apply runActivity_intact | with_reducible apply Intact.cond | intro _

/-! ## Machine/Recovery.lean -/

theorem endCommands_intact {pq : List Instr} (status : Nat) (started : Bool) (i : Nat) (s : State) (hI : Intact pq s) : Intact pq (endCommands status started i s) := by
  unfold endCommands
  repeat' first | with_reducible assumption | with_reducible apply forEach_intact | with_reducible apply finish_intact | with_reducible apply finishMaint_intact | with_reducible apply finishCmd_intact | with_reducible apply State.updFn_intact | split | intro _

theorem abortAll_intact {pq : List Instr} (s : State) (hI : Intact pq s) : Intact pq (abortAll s) := by
  unfold abortAll
  repeat' first | with_reducible assumption | with_reducible apply forEach_intact | with_reducible apply endCommands_intact | with_reducible apply endAllSteps_intact | with_reducible apply Intact.cond | intro _

theorem forgetCommands_intact {pq : List Instr} (i : Nat) (s : State) (hI : Intact pq s) : Intact pq (forgetCommands i s) := by
  unfold forgetCommands
  repeat' first | with_reducible assumption | with_reducible apply closeFlows_intact | with_reducible apply State.updInst_intact | with_reducible apply dropWeightReads_intact | with_reducible apply forEach_intact | with_reducible apply Intact.cond | fail_if_no_progress with_reducible apply Intact.rebuild | intro _

theorem zeroPart_intact {pq : List Instr} (q : Nat) (s : State) (h : Intact pq s) : Intact pq (zeroPart q s) := by
  unfold zeroPart
  exact Intact.dropLines _ h rfl rfl rfl

theorem endLoop_intact {pq : List Instr} (s : State) (hI : Intact pq s) : Intact pq (endLoop s) := by
  unfold endLoop
  repeat' first | with_reducible assumption | with_reducible apply zeroPart_intact | with_reducible apply State.updPort_intact | with_reducible apply State.updSys_intact | split

theorem wipeAll_intact {pq : List Instr} (s : State) (hI : Intact pq s) : Intact pq (wipeAll s) := by
  unfold wipeAll
  repeat' first | with_reducible assumption | with_reducible apply forEach_intact | with_reducible apply dropKeyed_intact | with_reducible apply queueScrub_intact | with_reducible apply resetStall_intact | with_reducible apply raiseOrWait_intact | intro _

theorem stopDevice_intact {pq : List Instr} (detail : Option Nat) (abort : Bool) (s : State) (hI : Intact pq s) : Intact pq (stopDevice detail abort s) := by
  unfold stopDevice
  repeat' first | with_reducible assumption | with_reducible apply State.updSys_intact | with_reducible apply forEach_intact | with_reducible apply raise_intact | with_reducible apply hailStopping_intact | with_reducible apply wipeAll_intact | with_reducible apply abortAll_intact | split | intro _

theorem deviceReset_intact {pq : List Instr} (s : State) (hI : Intact pq s) : Intact pq (deviceReset s) := by
  unfold deviceReset
  dsimp only
  refine pinsFollow_intact _ _ (State.updSys_intact _ _ ?_)
  have h0 : Intact pq (forEach (fun i s => followHeat i (s.updInst i (fun n => { n with stall := none, removal := none, tdi := .unlocked, stream := 0, lockSession := none }))) s.instNums (endLoop s)) :=
    forEach_intact _ _ (endLoop_intact _ hI) (fun a s h => followHeat_intact _ _ (State.updInst_intact _ _ _ h))
  have h1 : Intact pq (forEach (fun i s => resetCauses i true s) (List.range 64) _) :=
    forEach_intact _ _ h0 (fun a s h => resetCauses_intact _ _ _ h)
  exact Intact.mapCores (fun c => ({ badCell := c.2.badCell } : Core)) h1 (fun _ => rfl) rfl rfl (Or.inl rfl)

theorem deviceFatal_intact {pq : List Instr} (g b detail : Nat) (s : State) (hI : Intact pq s) : Intact pq (deviceFatal g b detail s) := by
  unfold deviceFatal
  repeat' first | with_reducible assumption | with_reducible apply deviceReset_intact | with_reducible apply stopDevice_intact | with_reducible apply raiseDev_intact | with_reducible apply Intact.cond | intro _

theorem releaseReset_intact {pq : List Instr} (s : State) (hI : Intact pq s) : Intact pq (releaseReset s) := by
  unfold releaseReset
  repeat' first | with_reducible assumption | with_reducible apply State.updSys_intact | with_reducible apply Intact.cond | intro _

theorem powerOff_intact {pq : List Instr} (s : State) (hI : Intact pq s) : Intact pq (powerOff s) := by
  unfold powerOff
  dsimp only
  repeat' first | with_reducible apply Intact.cond | with_reducible apply State.emit_intact | intro _
  all_goals exact Intact.mapCores (fun c => ({ badCell := c.2.badCell } : Core)) hI (fun _ => rfl) rfl rfl (Or.inr rfl)

/-! ## Machine/PorterOps.lean -/

theorem mgmtAnswer_intact {pq : List Instr} (status : Nat) (bytes : Bytes) (s : State) (hI : Intact pq s) : Intact pq (mgmtAnswer status bytes s) := by
  unfold mgmtAnswer
  repeat' first | with_reducible assumption | with_reducible apply State.emit_intact

theorem endPorter_intact {pq : List Instr} (via : PorterVia) (op : Nat) (elapsed : BitVec 16) (result : Bytes) (s : State) (hI : Intact pq s) : Intact pq (endPorter via op elapsed result s) := by
  unfold endPorter
  repeat' first | with_reducible assumption | with_reducible apply State.updSys_intact | with_reducible apply raiseDev_intact | with_reducible apply mgmtAnswer_intact | split

theorem porterOp_intact {pq : List Instr} (via : PorterVia) (op : Nat) (inst : Option Nat) (elapsed : BitVec 16) (act : State → State) (result : State → Bytes) (s : State) (hact : ∀ s, Intact pq s → Intact pq (act s)) (hI : Intact pq s) : Intact pq (porterOp via op inst elapsed act result s) := by
  unfold porterOp
  try dsimp only
  repeat' first | with_reducible assumption | with_reducible apply hact | with_reducible apply endPorter_intact | with_reducible apply mgmtAnswer_intact | split

theorem endStallReset_intact {pq : List Instr} (i : Nat) (s : State) (hI : Intact pq s) : Intact pq (endStallReset i s) := by
  unfold endStallReset
  repeat' first | with_reducible assumption | with_reducible apply writeArea_intact | with_reducible apply State.updStall_intact | split

theorem resetRings_intact {pq : List Instr} (i : Nat) (s : State) (hI : Intact pq s) : Intact pq (resetRings i s) := by
  unfold resetRings
  repeat' first | with_reducible assumption | with_reducible apply State.updFn_intact

theorem endFreezing_intact {pq : List Instr} (i : Nat) (s : State) (hI : Intact pq s) : Intact pq (endFreezing i s) := by
  unfold endFreezing
  repeat' first | with_reducible assumption | with_reducible apply finish_intact | with_reducible apply State.updInst_intact | split

theorem functionResetOf_intact {pq : List Instr} (i : Nat) (s : State) (hI : Intact pq s) : Intact pq (functionResetOf i s) := by
  unfold functionResetOf
  repeat' first | with_reducible assumption | with_reducible apply dropPfCommands_intact | with_reducible apply endFreezing_intact | with_reducible apply endStallReset_intact | with_reducible apply resetRings_intact | with_reducible apply removeInst_intact | with_reducible apply pinsFollow_intact | with_reducible apply resetCauses_intact | with_reducible apply State.updInst_intact | with_reducible apply Intact.cond | intro _

theorem execFunctionReset_intact {pq : List Instr} (via : PorterVia) (inst : FnId) (elapsed : BitVec 16) (s : State) (hI : Intact pq s) (t : State) (ht : execFunctionReset via inst elapsed s = .next t) : Intact pq t := by
  unfold execFunctionReset at ht
  obtain rfl := Host.Outcome.next.inj ht
  repeat' first | with_reducible assumption | with_reducible apply porterOp_intact | with_reducible apply functionResetOf_intact

theorem stallResetOf_intact {pq : List Instr} (i : Nat) (s : State) (hI : Intact pq s) : Intact pq (stallResetOf i s) := by
  unfold stallResetOf
  repeat' first | with_reducible assumption | with_reducible apply endStallReset_intact | with_reducible apply resetStall_intact

theorem execStallReset_intact {pq : List Instr} (via : PorterVia) (inst : FnId) (elapsed : BitVec 16) (s : State) (hI : Intact pq s) (t : State) (ht : execStallReset via inst elapsed s = .next t) : Intact pq t := by
  unfold execStallReset at ht
  obtain rfl := Host.Outcome.next.inj ht
  repeat' first | with_reducible assumption | with_reducible apply porterOp_intact | with_reducible apply stallResetOf_intact

theorem deviceResetOf_intact {pq : List Instr} (s : State) (hI : Intact pq s) : Intact pq (deviceResetOf s) := by
  unfold deviceResetOf
  repeat' first | with_reducible assumption | with_reducible apply deviceReset_intact | with_reducible apply stopDevice_intact | with_reducible apply Intact.cond | intro _

theorem execDeviceReset_intact {pq : List Instr} (via : PorterVia) (elapsed : BitVec 16) (s : State) (hI : Intact pq s) (t : State) (ht : execDeviceReset via elapsed s = .next t) : Intact pq t := by
  unfold execDeviceReset at ht
  obtain rfl := Host.Outcome.next.inj ht
  repeat' first | with_reducible assumption | with_reducible apply porterOp_intact | with_reducible apply deviceResetOf_intact

theorem reattest_intact {pq : List Instr} (port : Nat) (s : State) (hI : Intact pq s) : Intact pq (reattest port s) := by
  unfold reattest
  repeat' first | with_reducible assumption | with_reducible apply ownTopoChange_intact | with_reducible apply State.updPort_intact | with_reducible apply Intact.cond | intro _

theorem zeroiseAll_intact {pq : List Instr} (s : State) (hI : Intact pq s) : Intact pq (zeroiseAll s) := by
  unfold zeroiseAll
  repeat' first | with_reducible assumption | with_reducible apply wipeAll_intact | with_reducible apply abortAll_intact | with_reducible apply forEach_intact | with_reducible apply endStallReset_intact | with_reducible apply raiseDev_intact | with_reducible apply reattest_intact

theorem execZeroise_intact {pq : List Instr} (via : PorterVia) (elapsed : BitVec 16) (s : State) (hI : Intact pq s) (t : State) (ht : execZeroise via elapsed s = .next t) : Intact pq t := by
  unfold execZeroise at ht
  obtain rfl := Host.Outcome.next.inj ht
  repeat' first | with_reducible assumption | with_reducible apply porterOp_intact | with_reducible apply zeroiseAll_intact

theorem execPorterThermal_intact {pq : List Instr} (via : PorterVia) (elapsed : BitVec 16) (s : State) (hI : Intact pq s) (t : State) (ht : execPorterThermal via elapsed s = .next t) : Intact pq t := by
  unfold execPorterThermal at ht
  obtain rfl := Host.Outcome.next.inj ht
  repeat' first | with_reducible assumption | with_reducible apply porterOp_intact | intro _

theorem execPorterReport_intact {pq : List Instr} (via : PorterVia) (inst : FnId) (elapsed : BitVec 16) (s : State) (hI : Intact pq s) (t : State) (ht : execPorterReport via inst elapsed s = .next t) : Intact pq t := by
  unfold execPorterReport at ht
  obtain rfl := Host.Outcome.next.inj ht
  repeat' first | with_reducible assumption | with_reducible apply porterOp_intact | intro _

theorem onBus_intact {pq : List Instr} (act : State → State) (s : State) (hact : ∀ s, Intact pq s → Intact pq (act s)) (hI : Intact pq s) : Intact pq (onBus act s) := by
  unfold onBus
  repeat' first | with_reducible assumption | with_reducible apply hact | with_reducible apply Intact.cond | intro _

theorem execTreeRead_intact {pq : List Instr} (offset : BitVec 16) (s : State) (hI : Intact pq s) (t : State) (ht : execTreeRead offset s = .next t) : Intact pq t := by
  unfold execTreeRead at ht
  obtain rfl := Host.Outcome.next.inj ht
  repeat' first | with_reducible assumption | with_reducible apply onBus_intact | with_reducible apply mgmtAnswer_intact | with_reducible apply Intact.cond | intro _

theorem execTestEnter_intact {pq : List Instr} (s : State) (hI : Intact pq s) (t : State) (ht : execTestEnter s = .next t) : Intact pq t := by
  unfold execTestEnter at ht
  obtain rfl := Host.Outcome.next.inj ht
  repeat' first | with_reducible assumption | with_reducible apply onBus_intact | with_reducible apply mgmtAnswer_intact | with_reducible apply State.updSys_intact | with_reducible apply Intact.cond | intro _

theorem execTestExit_intact {pq : List Instr} (s : State) (hI : Intact pq s) (t : State) (ht : execTestExit s = .next t) : Intact pq t := by
  unfold execTestExit at ht
  obtain rfl := Host.Outcome.next.inj ht
  repeat' first | with_reducible assumption | with_reducible apply onBus_intact | with_reducible apply endLoop_intact | with_reducible apply mgmtAnswer_intact | with_reducible apply State.updSys_intact | split | intro _

theorem execLoopback_intact {pq : List Instr} (target : LoopTarget) (depth : BitVec 3) (pattern : BitVec 4) (ms : BitVec 16) (s : State) (hI : Intact pq s) (t : State) (ht : execLoopback target depth pattern ms s = .next t) : Intact pq t := by
  unfold execLoopback at ht
  obtain rfl := Host.Outcome.next.inj ht
  repeat' first | with_reducible assumption | with_reducible apply onBus_intact | with_reducible apply mgmtAnswer_intact | with_reducible apply State.updPort_intact | with_reducible apply State.updSys_intact | split | intro _

theorem retireBad_intact {pq : List Instr} (part frame : Nat) (s : State) (hI : Intact pq s) : Intact pq (retireBad part frame s) := by
  unfold retireBad
  repeat' first | with_reducible assumption | with_reducible apply sendToRetirement_intact | with_reducible apply raiseDev_intact | with_reducible apply Intact.cond | fail_if_no_progress with_reducible apply Intact.rebuild | intro _

theorem execLoopbackEnd_intact {pq : List Instr} (records : Bytes) (badFrames : List Nat) (s : State) (hI : Intact pq s) (t : State) (ht : execLoopbackEnd records badFrames s = .next t) : Intact pq t := by
  unfold execLoopbackEnd at ht
  obtain rfl := Host.Outcome.next.inj ht
  repeat' first | with_reducible assumption | with_reducible apply endLoop_intact | with_reducible apply mgmtAnswer_intact | with_reducible apply forEach_intact | with_reducible apply retireBad_intact | split

theorem execPcieLoopbackEntry_intact {pq : List Instr} (enter : Bool) (s : State) (hI : Intact pq s) (t : State) (ht : execPcieLoopbackEntry enter s = .next t) : Intact pq t := by
  unfold execPcieLoopbackEntry at ht
  obtain rfl := Host.Outcome.next.inj ht
  repeat' first | with_reducible assumption | with_reducible apply linkLost_intact | with_reducible apply State.updSys_intact | with_reducible apply Intact.cond | intro _

theorem execMctpSetEndpointId_intact {pq : List Instr} (eid : BitVec 8) (s : State) (hI : Intact pq s) (t : State) (ht : execMctpSetEndpointId eid s = .next t) : Intact pq t := by
  unfold execMctpSetEndpointId at ht
  obtain rfl := Host.Outcome.next.inj ht
  repeat' first | with_reducible assumption | with_reducible apply onBus_intact | with_reducible apply mgmtAnswer_intact | with_reducible apply State.updSys_intact | with_reducible apply Intact.cond | intro _

theorem execDynamicAddressAssignment_intact {pq : List Instr} (addr : BitVec 7) (s : State) (hI : Intact pq s) (t : State) (ht : execDynamicAddressAssignment addr s = .next t) : Intact pq t := by
  unfold execDynamicAddressAssignment at ht
  obtain rfl := Host.Outcome.next.inj ht
  repeat' first | with_reducible assumption | with_reducible apply onBus_intact | with_reducible apply State.updSys_intact | with_reducible apply Intact.cond | intro _

theorem execPldmGetSensor_intact {pq : List Instr} (sensor : Sensor) (measured : BitVec 32) (s : State) (hI : Intact pq s) (t : State) (ht : execPldmGetSensor sensor measured s = .next t) : Intact pq t := by
  unfold execPldmGetSensor at ht
  obtain rfl := Host.Outcome.next.inj ht
  repeat' first | with_reducible assumption | with_reducible apply onBus_intact | with_reducible apply State.emit_intact | intro _

theorem execPldmSetEventReceiver_intact {pq : List Instr} (eid : BitVec 8) (s : State) (hI : Intact pq s) (t : State) (ht : execPldmSetEventReceiver eid s = .next t) : Intact pq t := by
  unfold execPldmSetEventReceiver at ht
  obtain rfl := Host.Outcome.next.inj ht
  repeat' first | with_reducible assumption | with_reducible apply onBus_intact | with_reducible apply State.updSys_intact | intro _

theorem senseStates_intact {pq : List Instr} (s : State) (hI : Intact pq s) : Intact pq (senseStates s) := by
  unfold senseStates
  repeat' first | with_reducible assumption | with_reducible apply State.updSys_intact | with_reducible apply forEach_intact | with_reducible apply State.emit_intact | with_reducible apply Intact.cond | intro _

theorem tapScan_intact {pq : List Instr} (ir : Nat) (s : State) (hI : Intact pq s) : Intact pq (tapScan ir s) := by
  unfold tapScan
  repeat' first | with_reducible assumption | with_reducible apply State.emit_intact | fail_if_no_progress with_reducible apply Intact.rebuild

theorem execTapBypass_intact {pq : List Instr} (s : State) (hI : Intact pq s) (t : State) (ht : execTapBypass s = .next t) : Intact pq t := by
  unfold execTapBypass at ht
  obtain rfl := Host.Outcome.next.inj ht
  repeat' first | with_reducible assumption | with_reducible apply State.updSys_intact | with_reducible apply State.emit_intact

theorem execTapIdcode_intact {pq : List Instr} (s : State) (hI : Intact pq s) (t : State) (ht : execTapIdcode s = .next t) : Intact pq t := by
  unfold execTapIdcode at ht
  obtain rfl := Host.Outcome.next.inj ht
  repeat' first | with_reducible assumption | with_reducible apply State.updSys_intact | with_reducible apply State.emit_intact

theorem execTapSamplePreload_intact {pq : List Instr} (preload : Bytes) (s : State) (hI : Intact pq s) (t : State) (ht : execTapSamplePreload preload s = .next t) : Intact pq t := by
  unfold execTapSamplePreload at ht
  obtain rfl := Host.Outcome.next.inj ht
  repeat' first | with_reducible assumption | with_reducible apply tapScan_intact | with_reducible apply State.updSys_intact

theorem execTapExtest_intact {pq : List Instr} (s : State) (hI : Intact pq s) (t : State) (ht : execTapExtest s = .next t) : Intact pq t := by
  unfold execTapExtest at ht
  obtain rfl := Host.Outcome.next.inj ht
  repeat' first | with_reducible assumption | with_reducible apply tapScan_intact

theorem execTapExtestPulse_intact {pq : List Instr} (s : State) (hI : Intact pq s) (t : State) (ht : execTapExtestPulse s = .next t) : Intact pq t := by
  unfold execTapExtestPulse at ht
  obtain rfl := Host.Outcome.next.inj ht
  repeat' first | with_reducible assumption | with_reducible apply tapScan_intact

theorem execTapExtestTrain_intact {pq : List Instr} (s : State) (hI : Intact pq s) (t : State) (ht : execTapExtestTrain s = .next t) : Intact pq t := by
  unfold execTapExtestTrain at ht
  obtain rfl := Host.Outcome.next.inj ht
  repeat' first | with_reducible assumption | with_reducible apply tapScan_intact

theorem execTapReset_intact {pq : List Instr} (s : State) (hI : Intact pq s) (t : State) (ht : execTapReset s = .next t) : Intact pq t := by
  unfold execTapReset at ht
  obtain rfl := Host.Outcome.next.inj ht
  repeat' first | with_reducible assumption | with_reducible apply State.updSys_intact

/-! ## Machine/Time.lean -/

theorem settleAll_intact {pq : List Instr} (s : State) (hI : Intact pq s) : Intact pq (settleAll s) := by
  unfold settleAll
  repeat' first | with_reducible assumption | with_reducible apply refreshReports_intact | with_reducible apply senseStates_intact | with_reducible apply settleFreezes_intact | with_reducible apply releasePadded_intact

theorem idle_intact {pq : List Instr} (s : State) (hI : Intact pq s) : Intact pq (idle s) := by
  unfold idle
  repeat' first | with_reducible assumption | with_reducible apply State.updSys_intact | with_reducible apply settleAll_intact | with_reducible apply Intact.cond | fail_if_no_progress with_reducible apply Intact.rebuild | intro _

/-! ## Machine/Power.lean -/

theorem execPwrokRise_intact {pq : List Instr} (otp flash : Option Patch) (straps : BitVec 3) (s : State) (hI : Intact pq s) (t : State) (ht : execPwrokRise otp flash straps s = .next t) : Intact pq t := by
  unfold execPwrokRise at ht
  obtain rfl := Host.Outcome.next.inj ht
  repeat' first | with_reducible assumption | with_reducible apply raiseDev_intact | with_reducible apply forEach_intact | with_reducible apply Intact.cond | fail_if_no_progress with_reducible apply Intact.rebuild | intro _

theorem drainStores_intact {pq : List Instr} (core : Nat) (s : State) (hI : Intact pq s) : Intact pq (drainStores core s) := by
  unfold drainStores
  repeat' first | with_reducible assumption | with_reducible apply finishMoves_intact | with_reducible apply forEach_intact | with_reducible apply sendArrives_intact | with_reducible apply drainSends_intact | intro _

theorem execPwrokFall_intact {pq : List Instr} (railsInBand : Bool) (s : State) (hI : Intact pq s) (t : State) (ht : execPwrokFall railsInBand s = .next t) : Intact pq t := by
  unfold execPwrokFall at ht
  obtain rfl := Host.Outcome.next.inj ht
  repeat' first | with_reducible assumption | with_reducible apply State.updSys_intact | with_reducible apply powerOff_intact | with_reducible apply hailStopping_intact | with_reducible apply forEach_intact | with_reducible apply drainStores_intact | with_reducible apply Intact.cond | intro _

theorem execPerstNFall_intact {pq : List Instr} (s : State) (hI : Intact pq s) (t : State) (ht : execPerstNFall s = .next t) : Intact pq t := by
  unfold execPerstNFall at ht
  obtain rfl := Host.Outcome.next.inj ht
  repeat' first | with_reducible assumption | with_reducible apply State.updSys_intact | with_reducible apply deviceReset_intact | with_reducible apply stopDevice_intact | split

theorem execPerstNRise_intact {pq : List Instr} (s : State) (hI : Intact pq s) (t : State) (ht : execPerstNRise s = .next t) : Intact pq t := by
  unfold execPerstNRise at ht
  obtain rfl := Host.Outcome.next.inj ht
  repeat' first | with_reducible assumption | with_reducible apply endLoop_intact | with_reducible apply releaseReset_intact | with_reducible apply State.updSys_intact | split

theorem execDeviceResetRelease_intact {pq : List Instr} (s : State) (hI : Intact pq s) (t : State) (ht : execDeviceResetRelease s = .next t) : Intact pq t := by
  unfold execDeviceResetRelease at ht
  obtain rfl := Host.Outcome.next.inj ht
  repeat' first | with_reducible assumption | with_reducible apply releaseReset_intact

theorem execMemoryTrainingComplete_intact {pq : List Instr} (failedParts : BitVec 28) (s : State) (hI : Intact pq s) (t : State) (ht : execMemoryTrainingComplete failedParts s = .next t) : Intact pq t := by
  unfold execMemoryTrainingComplete at ht
  obtain rfl := Host.Outcome.next.inj ht
  repeat' first | with_reducible assumption | with_reducible apply forEach_intact | with_reducible apply pumpRing_intact | with_reducible apply State.updSys_intact | with_reducible apply Intact.cond | intro _

theorem execBaseDigestRecheck_intact {pq : List Instr} (computed : BitVec 384) (s : State) (hI : Intact pq s) (t : State) (ht : execBaseDigestRecheck computed s = .next t) : Intact pq t := by
  unfold execBaseDigestRecheck at ht
  obtain rfl := Host.Outcome.next.inj ht
  repeat' first | with_reducible assumption | with_reducible apply State.updSys_intact | with_reducible apply resumeLoads_intact | with_reducible apply dropBase_intact | with_reducible apply Intact.cond | fail_if_no_progress with_reducible apply Intact.rebuild | intro _

theorem calmGroup_intact {pq : List Instr} (g : Nat) (s : State) (hI : Intact pq s) : Intact pq (calmGroup g s) := by
  unfold calmGroup
  repeat' first | with_reducible assumption | with_reducible apply State.updGroup_intact | with_reducible apply Intact.cond | intro _

theorem execForceSafeNFall_intact {pq : List Instr} (s : State) (hI : Intact pq s) (t : State) (ht : execForceSafeNFall s = .next t) : Intact pq t := by
  unfold execForceSafeNFall at ht
  obtain rfl := Host.Outcome.next.inj ht
  repeat' first | with_reducible assumption | with_reducible apply State.updSys_intact | with_reducible apply forEach_intact | with_reducible apply suspend_intact | with_reducible apply State.updStall_intact | with_reducible apply calmGroup_intact | with_reducible apply Intact.cond | intro _

theorem execForceSafeNRise_intact {pq : List Instr} (s : State) (hI : Intact pq s) (t : State) (ht : execForceSafeNRise s = .next t) : Intact pq t := by
  unfold execForceSafeNRise at ht
  obtain rfl := Host.Outcome.next.inj ht
  repeat' first | with_reducible assumption | with_reducible apply State.updSys_intact

theorem execInputGlitch_intact {pq : List Instr} (pin : InPin) (s : State) (hI : Intact pq s) (t : State) (ht : execInputGlitch pin s = .next t) : Intact pq t := by
  unfold execInputGlitch at ht
  obtain rfl := Host.Outcome.next.inj ht
  repeat' first | with_reducible assumption | with_reducible apply raiseDev_intact

theorem execTimerefLoss_intact {pq : List Instr} (s : State) (hI : Intact pq s) (t : State) (ht : execTimerefLoss s = .next t) : Intact pq t := by
  unfold execTimerefLoss at ht
  obtain rfl := Host.Outcome.next.inj ht
  repeat' first | with_reducible assumption | with_reducible apply State.updSys_intact

theorem execTimerefReturn_intact {pq : List Instr} (s : State) (hI : Intact pq s) (t : State) (ht : execTimerefReturn s = .next t) : Intact pq t := by
  unfold execTimerefReturn at ht
  obtain rfl := Host.Outcome.next.inj ht
  repeat' first | with_reducible assumption | with_reducible apply State.updSys_intact

theorem execLinkRefclkLoss_intact {pq : List Instr} (s : State) (hI : Intact pq s) (t : State) (ht : execLinkRefclkLoss s = .next t) : Intact pq t := by
  unfold execLinkRefclkLoss at ht
  obtain rfl := Host.Outcome.next.inj ht
  repeat' first | with_reducible assumption | with_reducible apply forEach_intact | with_reducible apply loseLink_intact | with_reducible apply State.updPort_intact | with_reducible apply State.updSys_intact | with_reducible apply Intact.cond | intro _

theorem execLinkRefclkReturn_intact {pq : List Instr} (s : State) (hI : Intact pq s) (t : State) (ht : execLinkRefclkReturn s = .next t) : Intact pq t := by
  unfold execLinkRefclkReturn at ht
  obtain rfl := Host.Outcome.next.inj ht
  repeat' first | with_reducible assumption | with_reducible apply State.updSys_intact

theorem execPcieRefclkLoss_intact {pq : List Instr} (s : State) (hI : Intact pq s) (t : State) (ht : execPcieRefclkLoss s = .next t) : Intact pq t := by
  unfold execPcieRefclkLoss at ht
  obtain rfl := Host.Outcome.next.inj ht
  repeat' first | with_reducible assumption | with_reducible apply linkLost_intact | with_reducible apply State.updSys_intact

theorem execPcieRefclkReturn_intact {pq : List Instr} (s : State) (hI : Intact pq s) (t : State) (ht : execPcieRefclkReturn s = .next t) : Intact pq t := by
  unfold execPcieRefclkReturn at ht
  obtain rfl := Host.Outcome.next.inj ht
  repeat' first | with_reducible assumption | with_reducible apply State.updSys_intact

theorem execSupplyExcursion_intact {pq : List Instr} (rail : Fin 10) (s : State) (hI : Intact pq s) (t : State) (ht : execSupplyExcursion rail s = .next t) : Intact pq t := by
  unfold execSupplyExcursion at ht
  obtain rfl := Host.Outcome.next.inj ht
  repeat' first | with_reducible assumption | with_reducible apply raiseDev_intact | with_reducible apply Intact.cond | intro _

theorem execSupplyFailed_intact {pq : List Instr} (rail : Fin 10) (s : State) (hI : Intact pq s) (t : State) (ht : execSupplyFailed rail s = .next t) : Intact pq t := by
  unfold execSupplyFailed at ht
  obtain rfl := Host.Outcome.next.inj ht
  repeat' first | with_reducible assumption | with_reducible apply dropBase_intact | with_reducible apply deviceFatal_intact | with_reducible apply Intact.cond | intro _

theorem execThermalTrip_intact {pq : List Instr} (isStack : Bool) (index : BitVec 6) (s : State) (hI : Intact pq s) (t : State) (ht : execThermalTrip isStack index s = .next t) : Intact pq t := by
  unfold execThermalTrip at ht
  obtain rfl := Host.Outcome.next.inj ht
  repeat' first | with_reducible assumption | with_reducible apply stopDevice_intact | with_reducible apply State.updSys_intact | with_reducible apply State.emit_intact | with_reducible apply forEach_intact | with_reducible apply State.updGroup_intact | with_reducible apply Intact.cond | intro _

theorem execKeyEngineError_intact {pq : List Instr} (s : State) (hI : Intact pq s) (t : State) (ht : execKeyEngineError s = .next t) : Intact pq t := by
  unfold execKeyEngineError at ht
  obtain rfl := Host.Outcome.next.inj ht
  repeat' first | with_reducible assumption | with_reducible apply deviceFatal_intact

theorem execPorterFault_intact {pq : List Instr} (half : Half) (s : State) (hI : Intact pq s) (t : State) (ht : execPorterFault half s = .next t) : Intact pq t := by
  unfold execPorterFault at ht
  obtain rfl := Host.Outcome.next.inj ht
  repeat' first | with_reducible assumption | with_reducible apply deviceFatal_intact | with_reducible apply Intact.cond | intro _

theorem execStallStateError_intact {pq : List Instr} (fn : FnId) (s : State) (hI : Intact pq s) (t : State) (ht : execStallStateError fn s = .next t) : Intact pq t := by
  unfold execStallStateError at ht
  obtain rfl := Host.Outcome.next.inj ht
  repeat' first | with_reducible assumption | with_reducible apply recoverStall_intact | split

theorem execStallResetComplete_intact {pq : List Instr} (fn : FnId) (s : State) (hI : Intact pq s) (t : State) (ht : execStallResetComplete fn s = .next t) : Intact pq t := by
  unfold execStallResetComplete at ht
  obtain rfl := Host.Outcome.next.inj ht
  repeat' first | with_reducible assumption | with_reducible apply endStallReset_intact

theorem execStallResetOverrun_intact {pq : List Instr} (fn : FnId) (silent : BitVec 64) (s : State) (hI : Intact pq s) (t : State) (ht : execStallResetOverrun fn silent s = .next t) : Intact pq t := by
  unfold execStallResetOverrun at ht
  obtain rfl := Host.Outcome.next.inj ht
  repeat' first | with_reducible assumption | with_reducible apply endStallReset_intact | with_reducible apply forEach_intact | with_reducible apply groupOut_intact | split | intro _

theorem execFunctionResetOverrun_intact {pq : List Instr} (fn : FnId) (s : State) (hI : Intact pq s) (t : State) (ht : execFunctionResetOverrun fn s = .next t) : Intact pq t := by
  unfold execFunctionResetOverrun at ht
  obtain rfl := Host.Outcome.next.inj ht
  repeat' first | with_reducible assumption | with_reducible apply finishFlr_intact | with_reducible apply Intact.cond | intro _

theorem setClerk_intact {pq : List Instr} (h : Half) (up : Bool) (s : State) (hI : Intact pq s) : Intact pq (setClerk h up s) := by
  unfold setClerk
  repeat' first | with_reducible assumption | with_reducible apply State.updSys_intact | split

theorem failUpdate_intact {pq : List Instr} (s : State) (hI : Intact pq s) : Intact pq (failUpdate s) := by
  unfold failUpdate
  repeat' first | with_reducible assumption | with_reducible apply endAct_intact | with_reducible apply State.updSys_intact | with_reducible apply finishMaint_intact | split

theorem loseClerkWork_intact {pq : List Instr} (s : State) (hI : Intact pq s) : Intact pq (loseClerkWork s) := by
  unfold loseClerkWork
  repeat' first | with_reducible assumption | with_reducible apply forEach_intact | with_reducible apply failStep_intact | with_reducible apply endStep_intact | with_reducible apply forgetCommands_intact | with_reducible apply endCommands_intact | split | intro _

theorem takeover_intact {pq : List Instr} (half : Half) (s : State) (hI : Intact pq s) : Intact pq (takeover half s) := by
  unfold takeover
  repeat' first | with_reducible assumption | with_reducible apply raiseDev_intact | with_reducible apply setClerk_intact | with_reducible apply State.updSys_intact | with_reducible apply loseClerkWork_intact | with_reducible apply failUpdate_intact | split

theorem execClerkWatchdogMiss_intact {pq : List Instr} (half : Half) (otherAnswers : Bool) (s : State) (hI : Intact pq s) (t : State) (ht : execClerkWatchdogMiss half otherAnswers s = .next t) : Intact pq t := by
  unfold execClerkWatchdogMiss at ht
  obtain rfl := Host.Outcome.next.inj ht
  repeat' first | with_reducible assumption | with_reducible apply deviceFatal_intact | with_reducible apply setClerk_intact | with_reducible apply takeover_intact | with_reducible apply raiseDev_intact | with_reducible apply failUpdate_intact | with_reducible apply Intact.cond | intro _

theorem execClerkRestartComplete_intact {pq : List Instr} (ok : Bool) (s : State) (hI : Intact pq s) (t : State) (ht : execClerkRestartComplete ok s = .next t) : Intact pq t := by
  unfold execClerkRestartComplete at ht
  obtain rfl := Host.Outcome.next.inj ht
  repeat' first | with_reducible assumption | with_reducible apply setClerk_intact | with_reducible apply State.updSys_intact | with_reducible apply failUpdate_intact | split

theorem execOffer_intact {pq : List Instr} (s : State) (hI : Intact pq s) (t : State) (ht : execOffer s = .next t) : Intact pq t := by
  unfold execOffer at ht
  obtain rfl := Host.Outcome.next.inj ht
  repeat' first | with_reducible assumption | with_reducible apply State.updSys_intact | with_reducible apply Intact.cond | intro _

theorem execReady_intact {pq : List Instr} (s : State) (hI : Intact pq s) (t : State) (ht : execReady s = .next t) : Intact pq t := by
  unfold execReady at ht
  obtain rfl := Host.Outcome.next.inj ht
  repeat' first | with_reducible assumption | with_reducible apply State.updSys_intact | split

theorem execGrant_intact {pq : List Instr} (s : State) (hI : Intact pq s) (t : State) (ht : execGrant s = .next t) : Intact pq t := by
  unfold execGrant at ht
  obtain rfl := Host.Outcome.next.inj ht
  repeat' first | with_reducible assumption | with_reducible apply raiseDev_intact | with_reducible apply State.updSys_intact | split

theorem halveStall_intact {pq : List Instr} (stop : Half) (i : Nat) (s : State) (hI : Intact pq s) : Intact pq (halveStall stop i s) := by
  unfold halveStall
  repeat' first | with_reducible assumption | with_reducible apply recoverStall_intact | with_reducible apply stopCores_intact | with_reducible apply forEach_intact | with_reducible apply failStep_intact | split | intro _

theorem enterHalf_intact {pq : List Instr} (keep : Half) (s : State) (hI : Intact pq s) : Intact pq (enterHalf keep s) := by
  unfold enterHalf
  extract_lets stop s1 s2 s3 s4 s5 s6 s7
  have h1 : Intact pq s1 := hailStopping_intact _ _ hI
  have h2 : Intact pq s2 := setClerk_intact _ _ _ (State.updSys_intact _ _ h1)
  have h3 : Intact pq s3 := Intact.cond (fun _ => raiseDev_intact _ _ _ _ h2) (fun _ => h2)
  have h4 : Intact pq s4 := raiseDev_intact _ _ _ _ (raiseDev_intact _ _ _ _ h3)
  have h5 : Intact pq s5 := Intact.cond (fun _ => h4) (fun _ => failUpdate_intact _ h4)
  have h6 : Intact pq s6 := forEach_intact _ _ h5 (fun _ s hs => State.updPort_intact _ _ _ (Intact.cond (fun _ => portDown_intact _ _ _ hs) (fun _ => hs)))
  have h7 : Intact pq s7 := forEach_intact _ _ h6 (fun i s hs => halveStall_intact stop i s hs)
  exact Intact.cond (fun _ => raiseDev_intact _ _ _ _ (State.updSys_intact _ _ h7)) (fun _ => h7)

theorem execBridgeFailure_intact {pq : List Instr} (s : State) (hI : Intact pq s) (t : State) (ht : execBridgeFailure s = .next t) : Intact pq t := by
  unfold execBridgeFailure at ht
  obtain rfl := Host.Outcome.next.inj ht
  repeat' first | with_reducible assumption | with_reducible apply enterHalf_intact | with_reducible apply Intact.cond | intro _

end Sys2Proof.Machine
end

