-- ==== Sys2Proof/Laws/Tile.lean ====
section
/-! SUPPORT. What a tile instruction does: the register it writes, and what it leaves. -/

namespace Sys2Proof.Machine

/-! ## The step's flags leave the cores alone -/

@[simp] theorem updTaskStep_cores (core : Nat) (f : Step → Step) (s : State) : (updTaskStep core f s).cores = s.cores := by
  unfold updTaskStep; split <;> rfl

@[simp] theorem markNonfinite_cores (core : Nat) (on : Bool) (s : State) : (markNonfinite core on s).cores = s.cores := by
  unfold markNonfinite; split <;> simp

theorem State.work_of_cores {s t : State} (h : t.cores = s.cores) (i : Nat) : t.work i = s.work i := by
  unfold State.work State.core; rw [h]

theorem State.coreStopped_of_cores {s t : State} (h : t.cores = s.cores) (i : Nat) : t.coreStopped i = s.coreStopped i := by
  unfold State.coreStopped; rw [State.work_of_cores h]

@[simp] theorem markNonfinite_work (core i : Nat) (on : Bool) (s : State) : (markNonfinite core on s).work i = s.work i :=
  State.work_of_cores (markNonfinite_cores core on s) i

/-! ## Registers -/

@[simp] theorem Engine.reg_set (e : Engine) (r : Nat) (v : Lanes) : ({ e with regs := Tbl.set e.regs r v } : Engine).reg r = v :=
  Tbl.get_set_self _ _ _ _

theorem Engine.reg_set_ne (e : Engine) (r q : Nat) (v : Lanes) (h : q ≠ r) : ({ e with regs := Tbl.set e.regs r v } : Engine).reg q = e.reg q :=
  Tbl.get_set_ne _ _ _ _ _ h

/-- The engine after a result is written. -/
theorem putReg_eng (core d : Nat) (v : Lanes) (s : State) :
    ((putReg core d v s).work core).eng = { (s.work core).eng with regs := Tbl.set (s.work core).eng.regs d v } := by
  unfold putReg
  rw [markNonfinite_work, State.updEng_eng]

@[simp] theorem putReg_reg (core d : Nat) (v : Lanes) (s : State) : ((putReg core d v s).work core).eng.reg d = v := by
  rw [putReg_eng]; exact Engine.reg_set _ _ _

/-! ## Instructions that only compute a register -/

/-- The opcodes whose whole effect is the value of D. -/
def computes (opc : Nat) : Bool := opc != 0x04 && opc != 0x28 && opc != 0x29 && opc != 0x2C && opc != 0x2D && opc != 0x2E && opc != 0x30

/-- Such an instruction, where the core runs, R130 allows it and it meets no fault, writes its value and nothing else. -/
theorem tileStep_computes (core : Nat) (i : TIns) (s : State) (hs : s.coreStopped core = false) (hok : insOk (s.work core).eng.args (s.work core).eng.inTail i = true)
    (hf : accessFault core (s.work core).seq (insReads (s.work core).eng i) (insWrites (s.work core).eng i) s = none) (hc : computes i.opc = true) :
    tileStep core i s = putReg core i.d (insValue core (s.work core).eng i s) s := by
  unfold tileStep runIns
  simp only [hs, hok, hf, if_true, Bool.false_eq_true, if_false]
  simp only [computes, Bool.and_eq_true, bne_iff_ne, ne_eq] at hc
  split <;> simp_all

/-- Only LDS and STS touch SRAM. -/
theorem accessFault_none (core seq : Nat) (e : Engine) (i : TIns) (s : State) (h3 : i.opc ≠ 0x03 ∨ (e.epilogue && i.m == 0) = true) (h4 : i.opc ≠ 0x04) :
    accessFault core seq (insReads e i) (insWrites e i) s = none := by
  have hr : insReads e i = [] := by
    unfold insReads
    rcases h3 with h3 | h3 <;> simp [h3, h4]
  have hw : insWrites e i = [] := by simp [insWrites, h4]
  rw [hr, hw]; rfl

/-- Lane `j` of the register such an instruction writes. -/
theorem lane_of_computes (core : CoreId) (i : TIns) (r : BitVec 5) (s : State) (hs : s.runs core)
    (hok : insOk (s.work core.toNat).eng.args (s.work core.toNat).eng.inTail i = true)
    (h3 : i.opc ≠ 0x03 ∨ ((s.work core.toNat).eng.epilogue && i.m == 0) = true) (hc : computes i.opc = true) (hr : i.d = r.toNat) (j : Nat) :
    (tileStep core.toNat i s).lane core r j = (insValue core.toNat (s.work core.toNat).eng i s).getD j 0 := by
  have h4 : i.opc ≠ 0x04 := by
    intro h; simp [computes, h] at hc
  rw [tileStep_computes core.toNat i s hs hok (accessFault_none _ _ _ _ _ h3 h4) hc]
  unfold State.lane
  rw [← hr, putReg_reg]

/-! ## The lanes, by the form of the instruction -/

theorem getD_lanes (f : Nat → BitVec 32) (j : Nat) (hj : j < 64) : (((List.range 64).map f).map canon32).getD j 0 = canon32 (f j) := by
  simp [List.getD, hj]

theorem getD_same (v : BitVec 32) (j : Nat) (hj : j < 64) : ((List.replicate 64 v).map canon32).getD j 0 = canon32 v := by
  rw [List.map_replicate, List.getD, List.getElem?_replicate, if_pos hj, Option.getD_some]

/-- The opcodes that work on one operand, lane by lane (Table 5-7). -/
def unaryCodes : List Nat := [0x01, 0x0E, 0x0F, 0x11, 0x16, 0x18, 0x19, 0x1A, 0x1B, 0x1C, 0x1D, 0x1E, 0x1F, 0x20]
def binaryCodes : List Nat := [0x08, 0x09, 0x0A, 0x0C, 0x0D, 0x10, 0x12, 0x13, 0x14]
def ternaryCodes : List Nat := [0x0B, 0x15]
def reduceCodes : List Nat := [0x23, 0x25, 0x26]

theorem opForm_unary : ∀ c ∈ unaryCodes, opForm c = some unary ∧ computes c = true ∧ c ≠ 0x03 := by decide
theorem opForm_binary : ∀ c ∈ binaryCodes, opForm c = some binary ∧ computes c = true ∧ c ≠ 0x03 := by decide
theorem opForm_ternary : ∀ c ∈ ternaryCodes, opForm c = some ternary ∧ computes c = true ∧ c ≠ 0x03 := by decide
theorem opForm_reduce : ∀ c ∈ reduceCodes, opForm c = some unary ∧ computes c = true ∧ c ≠ 0x03 := by decide

theorem insValue_unary (core : Nat) (e : Engine) (i : TIns) (s : State) (h : i.opc ∈ unaryCodes) :
    insValue core e i s = ((List.range 64).map (fun j => op1 i.opc ((e.reg i.a).getD j 0))).map canon32 := by
  simp only [unaryCodes, List.mem_cons, List.not_mem_nil, or_false] at h
  unfold insValue
  rcases h with h | h | h | h | h | h | h | h | h | h | h | h | h | h <;> simp only [h]

theorem insValue_binary (core : Nat) (e : Engine) (i : TIns) (s : State) (h : i.opc ∈ binaryCodes) :
    insValue core e i s = ((List.range 64).map (fun j => op2 i.opc ((e.reg i.a).getD j 0) ((e.reg i.b).getD j 0))).map canon32 := by
  simp only [binaryCodes, List.mem_cons, List.not_mem_nil, or_false] at h
  unfold insValue
  rcases h with h | h | h | h | h | h | h | h | h <;> simp only [h, zipLanes]

theorem insValue_ternary (core : Nat) (e : Engine) (i : TIns) (s : State) (h : i.opc ∈ ternaryCodes) :
    insValue core e i s = ((List.range 64).map (fun j => op3 i.opc ((e.reg i.a).getD j 0) ((e.reg i.b).getD j 0) ((e.reg i.c).getD j 0))).map canon32 := by
  simp only [ternaryCodes, List.mem_cons, List.not_mem_nil, or_false] at h
  unfold insValue
  rcases h with h | h <;> simp only [h]

theorem insValue_reduce (core : Nat) (e : Engine) (i : TIns) (s : State) (h : i.opc ∈ reduceCodes) :
    insValue core e i s = (List.replicate 64 (reduceRow i.opc false (e.reg i.a))).map canon32 := by
  simp only [reduceCodes, List.mem_cons, List.not_mem_nil, or_false] at h
  unfold insValue
  rcases h with h | h | h <;> simp only [h]

theorem insOk_plain (args : Bytes) (tail : Bool) (i : TIns) (f : OpForm) (hf : opForm i.opc = some f) (hd : (f.d || i.d == 0) = true) (ha : (f.a || i.a == 0) = true)
    (hb : (f.b || i.b == 0) = true) (hc : (f.c || i.c == 0) = true) (ht : f.tail = true) (hr : f.row = true) (hm : f.m = .none) (h0 : i.m = 0) : insOk args tail i = true := by
  unfold insOk
  simp [hf, hd, ha, hb, hc, ht, hr, hm, h0, mOk]

variable (core : CoreId) (d a b c : BitVec 5) (s : State) (opc j : Nat)

theorem unary_lane (hs : s.runs core) (h : opc ∈ unaryCodes) (hj : j < 64) :
    (tileStep core.toNat (insDA opc d a 0) s).lane core d j = canon32 (op1 opc (s.lane core a j)) := by
  obtain ⟨hf, hc, h3⟩ := opForm_unary opc h
  rw [lane_of_computes core _ d s hs (insOk_plain _ _ _ unary hf rfl rfl rfl rfl rfl rfl rfl rfl) (Or.inl h3) hc rfl j,
    insValue_unary core.toNat _ (insDA opc d a 0) s h, getD_lanes _ j hj]
  rfl

theorem binary_lane (hs : s.runs core) (h : opc ∈ binaryCodes) (hj : j < 64) :
    (tileStep core.toNat (insDAB opc d a b) s).lane core d j = canon32 (op2 opc (s.lane core a j) (s.lane core b j)) := by
  obtain ⟨hf, hc, h3⟩ := opForm_binary opc h
  rw [lane_of_computes core _ d s hs (insOk_plain _ _ _ binary hf rfl rfl rfl rfl rfl rfl rfl rfl) (Or.inl h3) hc rfl j,
    insValue_binary core.toNat _ (insDAB opc d a b) s h, getD_lanes _ j hj]
  rfl

theorem ternary_lane (hs : s.runs core) (h : opc ∈ ternaryCodes) (hj : j < 64) :
    (tileStep core.toNat (insDABC opc d a b c) s).lane core d j = canon32 (op3 opc (s.lane core a j) (s.lane core b j) (s.lane core c j)) := by
  obtain ⟨hf, hc, h3⟩ := opForm_ternary opc h
  rw [lane_of_computes core _ d s hs (insOk_plain _ _ _ ternary hf rfl rfl rfl rfl rfl rfl rfl rfl) (Or.inl h3) hc rfl j,
    insValue_ternary core.toNat _ (insDABC opc d a b c) s h, getD_lanes _ j hj]
  rfl

theorem reduce_lane (hs : s.runs core) (h : opc ∈ reduceCodes) (hj : j < 64) :
    (tileStep core.toNat (insDA opc d a 0) s).lane core d j = canon32 (reduceRow opc false ((s.work core.toNat).eng.reg a.toNat)) := by
  obtain ⟨hf, hc, h3⟩ := opForm_reduce opc h
  rw [lane_of_computes core _ d s hs (insOk_plain _ _ _ unary hf rfl rfl rfl rfl rfl rfl rfl rfl) (Or.inl h3) hc rfl j,
    insValue_reduce core.toNat _ (insDA opc d a 0) s h, getD_same _ j hj]
  rfl

/-- RSCALE gives the row scale of its amax wherever that is not a negative number. -/
theorem rscaleCode_eq (x : BitVec 32) (m : Nat) (h : (f32 x).isFin = true → Num.lt (f32 x) (.fin false 0 0) = false) :
    rscaleCode x m = rowScale (f32 x) (streamFmt (m + 1)) := by
  unfold rscaleCode
  split
  · rename_i k e hx
    rw [hx] at h
    have := h rfl
    simp only [Num.lt, sInt, decide_eq_false_iff_not, Bool.false_eq_true, if_true, if_false] at this
    exfalso; apply this
    show -((((k + 1) <<< (e - min e 0).toNat : Nat) : Int)) < (((0 : Nat) <<< (0 - min e 0).toNat : Nat) : Int)
    have hp : (0 : Nat) < (k + 1) <<< (e - min e 0).toNat := by
      rw [Nat.shiftLeft_eq]; exact Nat.mul_pos (Nat.succ_pos _) (Nat.two_pow_pos _)
    simp only [Nat.zero_shiftLeft]
    omega
  · rfl

end Sys2Proof.Machine
end

