-- ==== Sys2Proof/WellFormed.lean ====
section
/-! DEFINITION. When a command's operands are ones its row can carry: the descriptor word bears the row's opcode, the entry its family and command code, a frame at most 1024 payload bytes, findings at most four words, read data whole words. -/

namespace Sys2Proof

/-- The descriptor word bears an opcode (Table 3-4). -/
def opcodeFits (op : Nat) (d : Desc) : Bool := fld d 7 0 == op

/-- A TILEPROG word bears the WHERE of its row (Table 3-8). -/
def whereFits (w : Nat) (d : Desc) : Bool := fld d 7 0 == 4 && fld d 9 8 == w

/-- A SPILL word bears the RESTORE of its row (Table 3-11). -/
def restoreFits (r : Bool) (d : Desc) : Bool := fld d 7 0 == 10 && bit d 8 == r

/-- The entry bears the row's FAMILY and COMMAND (Table 12-6). -/
def entryFits (family command : Nat) (e : Entry) : Bool := fld e 15 8 == family && fld e 7 0 == command

/-- A frame carries at most 1024 payload bytes (R257). -/
def frameFits (f : RxFrame) : Bool := decide (f.payload.length ≤ 1024)

/-- Findings name at most the four words of a line (R176). -/
def findsFit (l : List LineFind) : Bool := l.all (fun f => decide (f.words.length ≤ 4))

/-- A residue finding names a row below 65 536, one of 64 columns and one of 16 cell rows (Table 3-1, Table 3-6). -/
def residuesFit (l : List Residue) : Bool := l.all (fun r => decide (r.row < 65535) && decide (r.col < 64) && decide (r.cellRow < 16))

/-- A word of a core's 512 KiB SRAM (R69). -/
def wordsFit (l : List SramFind) : Bool := l.all (fun w => decide (w.word < 65536))

/-- A BAR0 offset is 4-byte aligned (R303). -/
def offsetFits (o : BitVec 16) : Bool := o.toNat % 4 == 0

/-- A well-formed command. -/
def WellFormed : Instr → Bool
  | .loadBlock _ d => opcodeFits 1 d
  | .pass _ d r w => opcodeFits 2 d && residuesFit r && wordsFit w
  | .side _ d => opcodeFits 3 d
  | .tileprogPrologue _ d => whereFits 0 d
  | .tileprogEpilogue _ d => whereFits 1 d
  | .tileprogRun _ d => whereFits 2 d
  | .tileprogDetach _ d => whereFits 3 d
  | .move _ d w => opcodeFits 5 d && wordsFit w
  | .lds _ _ _ w => wordsFit w
  | .send _ d => opcodeFits 6 d
  | .wait _ d => opcodeFits 7 d
  | .signal _ d => opcodeFits 8 d
  | .fence _ d => opcodeFits 9 d
  | .spill _ d => restoreFits false d
  | .spillRestore _ d => restoreFits true d
  | .endTask _ d => opcodeFits 11 d
  | .moveComplete _ l | .spillComplete _ l | .pageMoveComplete _ l | .rekeyComplete _ _ l | .sweepStart _ l => findsFit l
  | .patrolScrubVisit _ f => findsFit [f]
  | .verdictFrame _ f | .dataFrame _ f | .signalFrame _ f | .collFrame _ f | .e2eAck _ f | .pathDown _ f | .loss _ f
  | .hail _ f _ | .linkAck _ f | .topo _ f | .spdmFrame _ f => frameFits f
  | .causeWrite _ o _ _ _ | .rcRegisterRead _ o _ _ | .regLowHalfRead _ o _ | .regHighHalfRead _ o _ | .regLowHalfWrite _ o _ _ _
  | .regHighHalfWrite _ o _ _ _ | .registerWrite _ o _ _ _ => offsetFits o
  | .sessionReport _ e => entryFits 1 1 e
  | .linkPolicy _ e _ => entryFits 1 2 e
  | .consent _ e => entryFits 1 3 e
  | .instanceCreate _ e => entryFits 2 1 e
  | .instanceShares _ e _ => entryFits 2 2 e
  | .instanceResize _ e => entryFits 2 3 e
  | .instanceDestroy _ e => entryFits 2 4 e
  | .instanceQuery _ e => entryFits 2 5 e
  | .imageLoad _ e _ _ => entryFits 3 1 e
  | .imageUnload _ e => entryFits 3 2 e
  | .weightsLoad _ e _ _ => entryFits 4 1 e
  | .weightsRepair _ e _ _ => entryFits 4 2 e
  | .weightsDrop _ e => entryFits 4 3 e
  | .adapterRegister _ e _ => entryFits 5 1 e
  | .adapterWrite _ e _ => entryFits 5 2 e
  | .adapterRead _ e => entryFits 5 3 e
  | .adapterFetch _ e => entryFits 5 4 e
  | .unregister _ e => entryFits 5 5 e
  | .jobOpen _ e _ _ => entryFits 5 6 e
  | .jobClose _ e => entryFits 5 7 e
  | .reshard _ e _ _ _ => entryFits 5 8 e
  | .jobQuery _ e => entryFits 5 9 e
  | .almanacSet _ e _ => entryFits 6 1 e
  | .almanacQuery _ e => entryFits 6 2 e
  | .stepRun _ e _ _ => entryFits 7 1 e
  | .stepCancel _ e => entryFits 7 2 e
  | .syncRead _ e => entryFits 8 1 e
  | .syncSignal _ e => entryFits 8 2 e
  | .syncReset _ e => entryFits 8 3 e
  | .exportSet _ e _ => entryFits 9 1 e
  | .exportAck _ e => entryFits 9 2 e
  | .exportShard _ e _ _ => entryFits 9 3 e
  | .portMode _ e => entryFits 10 1 e
  | .portRetry _ e => entryFits 10 2 e
  | .deviceId _ e => entryFits 10 3 e
  | .qpOpen _ e => entryFits 10 4 e
  | .qpClose _ e => entryFits 10 5 e
  | .engineReset _ e => entryFits 10 6 e
  | .groupTest _ e => entryFits 10 7 e
  | .recal _ e => entryFits 10 8 e
  | .hold _ e => entryFits 10 9 e
  | .fwUpdate _ e _ _ => entryFits 10 10 e
  | .freeze _ e => entryFits 11 1 e
  | .save _ e _ => entryFits 11 2 e
  | .restore _ e _ => entryFits 11 3 e
  | .thaw _ e => entryFits 11 4 e
  | .telemetryCores _ e => entryFits 12 1 e
  | .telemetryGroups _ e => entryFits 12 2 e
  | .telemetryClips _ e => entryFits 12 3 e
  | .telemetryEnergy _ e _ _ _ _ => entryFits 12 4 e
  | _ => true

end Sys2Proof
end

