-- ==== Sys2Proof/Tests/Slice0.lean ====
section
/-! SUPPORT. The model's own tests: an ill-formed term for each check of WellFormed, for every statement with hypotheses a state and operands that meet them, clause by clause, and a few results worked by hand from the spec's tables. -/

namespace Sys2Proof.Tests

open Sys2Proof Sys2Proof.Machine

set_option Elab.async false

/-! ## Small states -/

/-- A command entry (Table 12-6), with fields by their lowest bit. -/
def entry (family command : Nat) (fields : List (Nat × Nat)) : Entry :=
  BitVec.ofNat 1024 (fields.foldl (fun m f => m + f.2 * 2 ^ f.1) (command + family * 256))

/-- A descriptor, with fields by their lowest bit. -/
def desc (fields : List (Nat × Nat)) : Desc := BitVec.ofNat 128 (fields.foldl (fun m f => m + f.2 * 2 ^ f.1) 0)

/-- The registers of a function whose rings of 16 entries run. -/
def ring : Fn := { cmdSize := 4, cplSize := 4, cmdEnable := true, cplEnable := true, bme := true, mse := true }

/-- A stall of core group 0. -/
def stall0 : Stall :=
  { groups := 1, syncBase := 1, syncCount := 8, flowBase := 1, flows := 4, fast := 4096, slow := 4096, cat := 4, hot := 4, fastMask := 1, slowMask := 1, fastSet := 0, slowSet := 1 }

def prog0 : Program :=
  { index := 1, cls := false, kind := 0, firstTask := 0, tasks := 0, firstLayer := 0, layers := 0, inRow := 128, outRow := 128, thresh := 0, budget := 0, base := 0, perRow := 0,
    perTicket := 0, perSlice := 0, f := 0, wBase := 0, wRow := 0, fuTicket := 0, fuRow := 0, tktAddr := 0, batchAddr := 0, maxRows := 64, inRegion := 0, outRegion := 0 }

def image0 : Image := { programs := [prog0] }

def step0 : Step :=
  { tag := 7, kind := 0, program := 1, job := 0, inFabric := true, inAddr := 0, outAddr := 0, normAddr := 0, inSync := 1, inThresh := 1, rows := 1, runs := [(0, 1)],
    sort := false, lr := 0, gmul := 0, eTs := [] }

def adapter0 : Adapter :=
  { id := 0x04000005, rank := 16, sfmt := false, efmt := false, layers := 1, size := 2, store := false, handle := [], gen := 0, master := [1, 2], slot := some 0 }

def job0 : Job := { id := 9, timeoutUs := 10, map := [{ device := 1, flowBase := 16, group := 0 }], tensors := [] }

/-- A device that runs, with `n` as instance 1. -/
def up (n : Inst) : State :=
  { sys := { phase := .operational, pwrok := true, perstN := true, linkUp := true, vfEnable := true, numVFs := 4 }
    fns := [(0, ring), (1, ring)], insts := [(1, n)] }

/-- Function `i` has fetched the command `e`. -/
def withCmd (i : Nat) (e : Entry) (s : State) : State := s.updFn i (fun f => { f with taken := [e] })

/-- A core whose engine and sequencer stand as `w` says. -/
def onCore (c : Nat) (w : Work) (s : State) : State := s.updWork c (fun _ => w)

/-- Core 3 runs the task of step 7 of instance 1. -/
def busy : State := onCore 3 { task := some { fn := 1, bubble := false, tag := 7 }, mode := .running, seq := 4 }
  (up { stall := some stall0, image := some image0, steps := [{ step0 with at_ := .running 0 0 0 }] })

/-! ## Ill-formed commands, one for each check of WellFormed -/

/-- None is well-formed. -/
def refused (l : List Instr) : Bool := l.all (fun i => !WellFormed i)

theorem test_wf_descriptors : refused
    [.loadBlock 0 2, .pass 0 1 [] [], .side 0 2, .tileprogPrologue 0 0x104, .tileprogEpilogue 0 4, .tileprogRun 0 4, .tileprogDetach 0 4, .move 0 6 [], .send 0 5, .wait 0 8,
     .signal 0 7, .fence 0 8, .spill 0 0x10A, .spillRestore 0 10, .endTask 0 10] = true := by decide +kernel

theorem test_wf_operands : refused
    [.pass 0 2 [{ row := 65535, col := 0, cellRow := 0, again := false }] [], .pass 0 2 [{ row := 0, col := 64, cellRow := 0, again := false }] [],
     .pass 0 2 [{ row := 0, col := 0, cellRow := 16, again := false }] [], .pass 0 2 [] [{ word := 65536, double := true }], .move 0 5 [{ word := 65536, double := true }],
     .lds 0 0 0 [{ word := 65536, double := true }], .moveComplete 0 [{ line := 0, words := [.good, .good, .good, .good, .good], mdata := .good, tagOk := true }],
     .dataFrame 0 { hdr := 0, payload := List.replicate 1025 0, cellBad := false, tagBad := false, corrected := 0 }, .causeWrite 0 0x402 1 15 none, .registerWrite 0 1 0 255 none] = true := by decide +kernel

theorem test_wf_entries1 : refused
    [.sessionReport 0 0, .linkPolicy 0 0 none, .consent 0 0, .instanceCreate 0 0, .instanceShares 0 0 none, .instanceResize 0 0, .instanceDestroy 0 0, .instanceQuery 0 0,
     .imageLoad 0 0 none none, .imageUnload 0 0, .weightsLoad 0 0 none none, .weightsRepair 0 0 none none, .weightsDrop 0 0, .adapterRegister 0 0 none, .adapterWrite 0 0 none,
     .adapterRead 0 0, .adapterFetch 0 0, .unregister 0 0, .jobOpen 0 0 none none, .jobClose 0 0, .reshard 0 0 none none none, .jobQuery 0 0] = true := by decide +kernel

theorem test_wf_entries2 : refused
    [.almanacSet 0 0 none, .almanacQuery 0 0, .stepRun 0 0 none none, .stepCancel 0 0, .syncRead 0 0, .syncSignal 0 0, .syncReset 0 0, .exportSet 0 0 none, .exportAck 0 0,
     .exportShard 0 0 none none, .portMode 0 0, .portRetry 0 0, .deviceId 0 0, .qpOpen 0 0, .qpClose 0 0, .engineReset 0 0, .groupTest 0 0, .recal 0 0, .hold 0 0,
     .fwUpdate 0 0 none { level := 0, sigOk := true }, .freeze 0 0, .save 0 0 none, .restore 0 0 none, .thaw 0 0, .telemetryCores 0 0, .telemetryGroups 0 0, .telemetryClips 0 0,
     .telemetryEnergy 0 0 0 0 0 0] = true := by decide +kernel

theorem test_wf_accepts : WellFormed (.adapterFetch 1 (entry 5 4 [])) = true ∧ WellFormed (.pass 0 2 [{ row := 65534, col := 63, cellRow := 15, again := true }] []) = true ∧
    WellFormed (.cmdDoorbell 0 1 15 none) = true := by decide +kernel

/-! ## The queue -/

theorem witness_StepKeepsMemories : State.reset.memWf = true ∧ ∃ t, step State.reset = .next t := ⟨by decide, _, rfl⟩

/-! ## The vector engine -/

/-- The engine of core 3 stands as `e` says. -/
def engine (e : Engine) : State := busy.updEng 3 (fun _ => e)

/-- An argument block: header, then the words of its streams. -/
def args0 (hdr : Nat) (streams : List Nat) : Bytes := leBytes 16 hdr ++ streams.flatMap (leBytes 16)

/-- An input stream at 0x100, and an output stream at 0x200 of the given kind, both FP32. -/
def inStream : Nat := 0x100
def outStream (kind : Nat) : Nat := 0x200 + kind * 2 ^ 22 + 2 ^ 24

/-- What an instruction reads and writes is in a row section, with an input stream 0 and an output stream 1. -/
def rowsAt (kind : Nat) (tail : Bool) : State := engine { args := args0 0 [inStream, outStream kind], inTail := tail, tileRows := 1 }

theorem witness_Lane : busy.runs 3 ∧ (rowsAt 0 true).runs 3 := by unfold State.runs; decide +kernel

theorem witness_RowReductions : busy.runs 3 ∧ (0 : BitVec 6).toNat ≤ 1 ∧ (1 : BitVec 6).toNat ≤ 1 := by unfold State.runs; decide +kernel

theorem witness_ColumnTrees : (rowsAt 0 false).runs 3 ∧ ((rowsAt 0 false).work 3).eng.inTail = false ∧ (rowsAt 0 true).runs 3 ∧ ((rowsAt 0 true).work 3).eng.inTail = true ∧
    (3 : BitVec 6).toNat ≤ 3 := by unfold State.runs; decide +kernel

theorem witness_LaneSourcesConversions :
    (let s := engine { epilogue := true }; s.runs 3 ∧ (s.work 3).eng.inTail = false ∧ (s.work 3).eng.epilogue = true ∧ (streamD (s.work 3).eng.args 0).out = false) ∧
    (3 : BitVec 6).toNat ≤ 3 ∧ (1 : BitVec 6).toNat = 1 ∧ (2 : BitVec 6).toNat = 2 := by unfold State.runs; decide +kernel

theorem witness_TileLoads :
    let s := rowsAt 0 false
    let e := (s.work 3).eng
    s.runs 3 ∧ e.inTail = false ∧ (0 : BitVec 6).toNat ≤ 1 + (argHdr e.args).nextra ∧ (streamD e.args 0).out = false ∧ (e.epilogue && (0 : BitVec 6).toNat == 0) = false ∧
    ((streamD e.args 0).reads e.tile e.row e.runRow).all (fun r => decide (r.1 + r.2 ≤ sramBytes) && !(sramFound 3 [] s).sramPoison 3 r.1 r.2) = true := by
  unfold State.runs; decide +kernel

/-- Kinds 0 and 1 in a row section, kind 2 in the tail. -/
theorem witness_TileStores : ∀ k : Fin 3,
    let s := rowsAt k (k == 2)
    let e := (s.work 3).eng
    let st := streamD e.args 1
    s.runs 3 ∧ s.memWf = true ∧ (1 : BitVec 6).toNat ≤ 1 + (argHdr e.args).nextra ∧ st.out = true ∧ (st.kind == 2) = e.inTail ∧
    (st.writes e.tile e.row e.runRow).all (fun r => decide (r.1 + r.2 ≤ sramBytes) && !s.areaHit 3 r.1 r.2) = true ∧ st.maxw = false ∧ (k = 0 → st.kind = 0 ∧ st.pstride = 0 ∧ st.scl = false) := by
  unfold State.runs; decide +kernel

/-- In the tail, an output stream whose rows are sent to core 4, or to core 64, which is not of the stall. -/
def sendsTo (core : Nat) : State := engine { args := args0 0 [inStream, outStream 0 + 16 * 2 ^ 32] ++ List.replicate 48 0 ++ leBytes 16 (core * 2 ^ 16), inTail := true, tileRows := 4 }

theorem witness_TileSends :
    (let s := sendsTo 4; let e := (s.work 3).eng; let st := streamD e.args 1; let x := sendEnt e.args 0
     let len := cdiv (e.tileRows * st.rowStride) 64 * 64; let dest := x.dest * 64 + e.tile * st.tileStride * 16
     s.runs 3 ∧ e.inTail = true ∧ (1 : BitVec 6).toNat < 16 ∧ (1 : BitVec 6).toNat % 8 ≤ 1 + (argHdr e.args).nextra ∧ 0 < len ∧ st.tile e.tile + len ≤ sramBytes ∧ dest + len ≤ sramBytes ∧
     x.remote = false ∧ s.sameStall 3 x.core = true ∧ x.sig = false ∧ s.sramPoison 3 (st.tile e.tile) len = false) ∧
    (let s := sendsTo 64; let e := (s.work 3).eng; let x := sendEnt e.args 0
     s.runs 3 ∧ e.inTail = true ∧ x.remote = false ∧ s.sameStall 3 x.core = false) := by unfold State.runs; decide +kernel

/-! ## Tiles and descriptors -/

/-- An attached program of number `id`, read and checked. -/
def att (id place : Nat) : Att := { id := id, d := desc [(0, 4), (8, place), (64, if place = 0 ∨ place = 2 then 1 else 0)], seq := 1, loaded := true }

theorem witness_TileOrder :
    (let s := busy.updWork 3 (fun w => { w with atts := [att 1 1], epilogue := some 1, epiQ := [{ att := 1, acc := [0], seq := 2 }] })
     (s.work 3).epiQ = [{ att := 1, acc := [0], seq := 2 }] ∧ attOf s 3 1 = some (att 1 1) ∧ s.streamsReady (att 1 1).args = true) ∧
    (let s := busy.updWork 3 (fun w => { w with atts := [att 1 0], prologue := some 1 })
     (s.work 3).epiQ = [] ∧ prologueReady 3 s = some (att 1 0)) ∧
    (let s := busy.updWork 3 (fun w => { w with atts := [att 1 2], runs := [1] })
     (s.work 3).epiQ = [] ∧ prologueReady 3 s = none ∧ (s.work 3).runReady = some 1 ∧ attOf (takeEffect 3 1 s) 3 1 = some (att 1 2) ∧ (att 1 2).loaded = true ∧
     (takeEffect 3 1 s).streamsReady (att 1 2).args = true) ∧
    ((busy.work 3).epiQ = [] ∧ prologueReady 3 busy = none ∧ (busy.work 3).runReady = none) := by decide +kernel

theorem witness_LaneFrame : (Instr.add 3 1 2 4).laneDest (busy.work 3).eng.inTail = some (3, 1) ∧ (busy.work 3).eng.inTail = false ∧ busy.coreStopped 3 = false ∧
    ∃ t, exec (.add 3 1 2 4) busy = .next t := ⟨by decide, by decide +kernel, by decide +kernel, _, rfl⟩

theorem witness_DescriptorFaults : (up {}).mayIssue 3 = false ∧ busy.mayIssue 3 = true ∧ loadOk 0 = false ∧ passIssueOk 3 0 busy = false ∧ sideOk 0 = false ∧
    (tileOk 0 && (tileD 0).place == 0) = false ∧ (tileOk 4 && (tileD 4).place == 1) = false ∧ (tileOk 4 && (tileD 4).place == 2) = false ∧ (tileOk 4 && (tileD 4).place == 3) = false ∧
    moveIssueOk 3 0 busy = false ∧ sendIssueOk 3 0 busy = false ∧ waitIssueOk 3 0 busy = false ∧ (signalOk 0 && busy.coreObj 3 (fld (0 : Desc) 29 16) (BitVec.ofNat 2 (fld (0 : Desc) 9 8))) = false ∧
    fenceOk 0 = false ∧ spillIssueOk 3 0 false busy = false ∧ spillIssueOk 3 0 true busy = false ∧ endOk 0 = false := by decide +kernel

theorem witness_ExceptionStops : (busy.work 3).task = some { fn := 1, bubble := false, tag := 7 } ∧
    (busy.stepOf 1 7).isSome = true ∧ (busy.stepOf 1 7).all (fun p => p.kind != 1 && !p.failed) = true := by decide +kernel

/-- A region of 16 pages at 0 that is the spill area. -/
def region0 : Region :=
  { base := 0, len := 16, big := false, slow := false, rt := false, offload := false, recompute := false, packed := false, spill := true, outTrig := 0, backTrig := 0, backDone := 0 }

/-- Core 3 works for step 7, instance 1 has page 0, a counter object 1 and a barrier object 2 of two members. -/
def paged : State :=
  { onCore 3 { task := some { fn := 1, bubble := false, tag := 7 }, mode := .running, seq := 4 }
      (up { gen := 5, stall := some stall0, image := some { image0 with regions := [region0] }, steps := [{ step0 with at_ := .running 0 0 0 }] }) with
    sets := [{ parts := [0], base := 0, size := 1048576 }], pages := [(pageKey 1 0, { valid := true, write := true, inst := 1, gen := 5 })]
    sync := [(1, { kind := 0, inst := 1, gen := 5, count := 2 }), (2, { kind := 1, inst := 1, gen := 5, members := 2, phase := 3 })] }

def loadD0 : Desc := desc [(0, 1)]
def passD0 : Desc := desc [(0, 2), (8, 1), (9, 0), (16, 64), (64, 0x1000)]
def sideD0 : Desc := desc [(0, 3)]
def moveD0 (dir : Nat) (pred : Bool) : Desc := desc [(0, 5), (8, dir), (10, if pred then 1 else 0), (16, 0x1000), (40, 128)]
def spillD0 (restore : Bool) : Desc := desc [(0, 10), (8, if restore then 1 else 0), (16, 0x1000), (40, 128)]
def sendD0 : Desc := desc [(0, 6), (40, 64), (64, 5)]
def waitD0 (obj thresh : Nat) : Desc := desc [(0, 7), (16, obj), (32, thresh), (64, 10)]
def signalD0 : Desc := desc [(0, 8), (16, 1), (32, 1)]
def tileD0 (place : Nat) : Desc := (att 1 place).d

theorem witness_UnitJobs : paged.mayIssue 3 = true ∧ loadOk loadD0 = true ∧
    (∀ dir : Fin 3, moveIssueOk 3 (moveD0 dir false) paged = true ∧ (moveD (moveD0 dir false)).pred = false ∧ rangeFault 1 0 128 (dir.val == 1) (sramFound 3 [] paged) = none) ∧
    moveIssueOk 3 (moveD0 0 true) paged = true ∧ (moveD (moveD0 0 true)).pred = true ∧
    spillIssueOk 3 (spillD0 false) false paged = true ∧ rangeFault 1 (((paged.spillArea 1).getD (0, 0)).1) 128 true paged = none ∧
    spillIssueOk 3 (spillD0 true) true paged = true ∧ rangeFault 1 (((paged.spillArea 1).getD (0, 0)).1) 128 false paged = none ∧
    signalOk signalD0 = true ∧ paged.coreObj 3 (fld signalD0 29 16) (BitVec.ofNat 2 (fld signalD0 9 8)) = true := by decide +kernel

theorem witness_ArrayJobs : (let s := paged.updWork 3 (fun w => { w with loadIssued := true }); s.mayIssue 3 = true ∧ passIssueOk 3 passD0 s = true) ∧ sideOk sideD0 = true ∧
    ∀ place : Fin 4, tileOk (tileD0 place) = true ∧ (tileD (tileD0 place)).place = place := by decide +kernel

theorem witness_SequencerHolds : sendIssueOk 3 sendD0 paged = true ∧ paged.sramPoison 3 (sendD sendD0).src (sendD sendD0).len = false ∧
    waitIssueOk 3 (waitD0 1 2) paged = true ∧ paged.satisfied 3 1 2 = true ∧ waitIssueOk 3 (waitD0 1 3) paged = true ∧ paged.satisfied 3 1 3 = false ∧
    waitIssueOk 3 (waitD0 2 0) paged = true ∧ paged.satisfied 3 2 (paged.obj 2).phase.toNat = false ∧ fenceOk 0x109 = true ∧
    (paged.work 3).task = some { fn := 1, bubble := false, tag := 7 } ∧ (paged.work 3).sigQ = [] ∧
    (let s := (issued 3 paged).updWork 3 (fun w => { w with mode := .ending }); s.fenceClear 3 15 = true) ∧
    (let s := (issued 3 (paged.updWork 3 (fun w => { w with loadQ := [{ d := loadD0, seq := 0, predicted := false }] }))).updWork 3 (fun w => { w with mode := .ending })
     s.fenceClear 3 15 = false) := by decide +kernel

def jobOf (d : Desc) : UnitJob := { d := d, seq := 1, predicted := false }
def isDone : MoverEnd → Bool | .done _ => true | _ => false
def sendJob0 : SendJob := { seq := 1, remote := false, sig := false, ledger := false, data := List.replicate 64 7, dcore := 5, dest := 0, flow := 0, sync := 0 }

theorem witness_UnitsComplete :
    (let s := paged.updWork 3 (fun w => { w with loadQ := [jobOf loadD0] })
     (s.work 3).loadQ = jobOf loadD0 :: [] ∧ (s.work 3).newPassBefore 1 = false ∧ loadPoison 3 (loadD loadD0) s = none ∧ (s.work 3).waitingPass = none) ∧
    (∀ dir : Fin 3, let d := moveD0 dir false; let s := paged.updWork 3 (fun w => { w with moveQ := [jobOf d] })
     (s.work 3).nextMove = some (jobOf d) ∧ fld d 7 0 = 5 ∧ isDone (moveRun 3 (jobOf d) [] s) = true) ∧
    (let d := spillD0 false; let s := paged.updWork 3 (fun w => { w with moveQ := [jobOf d] })
     (s.work 3).nextMove = some (jobOf d) ∧ fld d 7 0 = 10 ∧ (spillD d).restore = false ∧ isDone (takeOut 3 1 0 (spillD d).sram (spillD d).len 1 [] s) = true) ∧
    (let d := spillD0 true; let s := paged.updWork 3 (fun w => { w with moveQ := [jobOf d] })
     (s.work 3).nextMove = some (jobOf d) ∧ fld d 7 0 = 10 ∧ (spillD d).restore = true ∧ isDone (bringIn 3 1 0 (spillD d).sram (spillD d).len 1 [] s) = true) ∧
    (let s := paged.updWork 3 (fun w => { w with sendQ := [sendJob0] }); (s.work 3).sendQ = sendJob0 :: [] ∧ sendJob0.remote = false) ∧
    (let s := paged.updWork 3 (fun w => { w with sigQ := [{ kind := 0, obj := 1, value := 1, seq := 2 }] }); s.doneBefore 3 2 = true) ∧
    (let s := paged.updWork 3 (fun w => { w with sigQ := [{ kind := 0, obj := 1, value := 1, seq := 2 }], loadQ := [jobOf loadD0] }); s.doneBefore 3 2 = false) := by decide +kernel

/-- A PASS of descriptor `d` that is on the array of core 3. -/
def passOf (d : Desc) (started : Bool) : PassJob :=
  { d := d, seq := 2, started := started, blk := none, epi := none, side := none, kIndex := 0, entered := if started then 2 else 0, written := 0, rows := [], residues := [] }
def withPass (d : Desc) (started : Bool) (side : Option SideCfg) : State := paged.updWork 3 (fun w => { w with arrayQ := [.pass (passOf d started)], side := side })
def ringD : Desc := desc [(0, 2), (16, 64), (51, 1), (64, 0x1000), (91, 1)]
def finalD : Desc := desc [(0, 2), (10, 1), (16, 64), (64, 0x1000)]
def tickD : Desc := desc [(0, 2), (11, 1), (16, 64), (64, 0x1000)]

theorem witness_HeldWorkResumes :
    (let s := paged.updWork 3 (fun w => { w with mode := .waiting 1 2 (some 0) }); (s.work 3).mode = .waiting 1 2 (some 0) ∧ s.satisfied 3 1 2 = true) ∧
    (let s := paged.updWork 3 (fun w => { w with mode := .waiting 1 3 (some 0) }); (s.work 3).mode = .waiting 1 3 (some 0) ∧ 0 ≤ s.now.toNat ∧ s.satisfied 3 1 3 = false) ∧
    (let s := withPass ringD true none; (s.work 3).waitingPass = some (passOf ringD true) ∧ (passD ringD).srcRing ≠ 0 ∧ (passD ringD).final = false ∧ (s.obj (passD ringD).srcSync).count ≠ 0 ∧ s.coreStopped 3 = false) ∧
    (let s := withPass finalD true none; (s.work 3).waitingPass = some (passOf finalD true) ∧ (passD finalD).final = true ∧ (passOf finalD true).mayEnter (s.work 3) ≠ 0) ∧
    (let s := withPass tickD false (some (sideCfg sideD0)); (s.work 3).side.isSome = true ∧ (s.work 3).sideReady = false ∧ s.coreStopped 3 = false ∧
     (s.work 3).waitingPass = some (passOf tickD false) ∧ (passD tickD).tick = true) ∧
    (let p := { passOf passD0 true with blk := some { fmt := 0, mx := false, k32 := false, trans := false, tscale := 0, scales := [], elems := [] }, entered := 1, rows := [List.replicate 16 0] }
     let s := paged.updWork 3 (fun w => { w with arrayQ := [.pass p] })
     (s.work 3).arrayQ = [.pass p] ∧ p.written < p.entered ∧ (rowsGo 3 p ((List.range 1).map (fun i => p.written + i)) 0xFFFF 0xFFFF s).coreStopped 3 = false) := by decide +kernel

/-! ## Completions and commands -/

def cpl0 : Cpl := { tag := 3, status := 0, final := true, flags := 0, time := 0, result := 0 }

theorem witness_CompletionPosted : cpl0.bound = none ∧ cpl0.flags = 0 ∧ (up {}).sys.linkUp = true ∧ ((up {}).fn 0).held = [] ∧ ((up {}).fn 0).cplRoom = true ∧ ((up {}).fn 0).mayWrite = true ∧
    (let s := (up {}).updFn 0 (fun f => { f with held := [cpl0] }); s.sys.linkUp = true ∧ (s.fn 0).held ≠ []) ∧
    (let s := (up {}).updFn 0 (fun f => { f with cplHead := 1 }); s.sys.linkUp = true ∧ (s.fn 0).cplRoom = false) ∧
    (let s := (up {}).updFn 0 (fun f => { f with bme := false }); s.sys.linkUp = true ∧ (s.fn 0).mayWrite = false) ∧ State.reset.sys.linkUp = false := by decide +kernel

/-- Instance 1 with a stall, an image, an adapter and a job; `e` is in the ring of function `i`. -/
def full (i : Nat) (e : Entry) : State := withCmd i e (up { gen := 5, stall := some stall0, image := some image0, adapters := [adapter0], jobs := [job0] })

/-- The same without a stall. -/
def bare (i : Nat) (e : Entry) : State := withCmd i e (up {})

theorem witness_CommandRefused : ((up {}).fn 1).taken.contains (entry 3 2 []) = false ∧ ((full 1 (entry 3 2 [])).fn 1).taken.contains (entry 3 2 []) = true := by decide +kernel

theorem witness_SessionCompletes :
    (let e := entry 1 1 [(192, 4096)]; Accepted 1 e { fields := buf1, frozen := true } (full 1 e) ∧ ((takeOff 1 e (full 1 e)).fn 1).mayWrite = true) ∧
    (let e := entry 1 2 [(192, 96)]; Accepted 0 e { fields := buf1, pf := true, frozen := true, bad := eBytes e == 0 || eBytes e % 48 != 0 } (full 0 e) ∧ eBytes e ≤ 3072) ∧
    (let e := entry 1 3 [(224, 1), (352, 3)]
     Accepted 1 e { fields := objBits ++ [(353, 352)], frozen := true, foreign := eObj e != 1, busy := (full 1 e).instBusy 1 } (full 1 e)) := by decide +kernel

def askE (command groups : Nat) : Entry := entry 2 command [(224, 1), (352, groups), (416, 8), (448, 4), (480, 32), (512, 64), (544, 1), (576, 1)]

theorem witness_InstanceCompletes :
    (let e := askE 1 1; let s := bare 0 e
     Accepted 0 e { fields := askFields, pf := true, bad := decide (eObj e ≥ 64) || (askOf e).groups == 0, busy := s.instBusy 1 } s ∧ (takeOff 0 e s).stall 1 = none ∧
     (takeOff 0 e s).fnExists 1 = true ∧ (takeOff 0 e s).sys.testState = false ∧ (planStall (takeOff 0 e s) 1 (askOf e)).isSome = true) ∧
    (let e := entry 2 2 [(192, 128), (224, 1)]; Accepted 0 e { fields := objBits ++ buf1, pf := true, bad := decide (eObj e ≥ 64) || eBytes e != 128, busy := (full 0 e).instBusy 1 } (full 0 e) ∧
     ((takeOff 0 e (full 0 e)).stall 1).isSome = true) ∧
    (let e := entry 2 4 [(224, 1)]; eObj e ≠ 0 ∧
     Accepted 0 e { fields := objBits, pf := true, bad := decide (eObj e ≥ 64), missing := decide (eObj e < 64) && !(full 0 e).fnExists (eObj e), busy := (full 0 e).instBusy (eObj e) } (full 0 e)) ∧
    (let e := entry 2 5 [(224, 1)]
     Accepted 1 e { fields := objBits, frozen := true, foreign := (1 : Nat) != 0 && eObj e != 1, missing := decide (eObj e ≥ 64) || !(full 1 e).fnExists (eObj e), busy := (1 : Nat) == 0 && (full 1 e).instBusy (eObj e) } (full 1 e)) := by
  decide +kernel

/-- RESIZE from core group 0, out of service, to group 1. -/
theorem witness_InstanceResize :
    let e := entry 2 3 [(224, 1), (352, 2), (416, 8), (448, 4), (480, 4096), (512, 4096), (544, 4), (576, 4), (640, 1), (656, 1)]
    let s := (full 0 e).updGroup 0 (fun g => { g with outOfService := true })
    Accepted 0 e { fields := askFields, pf := true, bad := decide (eObj e ≥ 64) || (askOf e).groups == 0, busy := s.instBusy 1 } s ∧ (takeOff 0 e s).stall 1 = some stall0 ∧
    ((takeOff 0 e s).inst 1).image.isSome = true ∧ onlyReplaces (takeOff 0 e s) stall0 (askOf e) = true := by decide +kernel

theorem witness_ImageCompletes :
    (let e := entry 3 1 [(192, 4096)]; let s := withCmd 1 e (up { stall := some stall0 })
     Accepted 1 e { fields := buf1 ++ buf2, stall := true, busy := s.instBusy 1 || s.mapWaits 1 } s ∧ ((takeOff 1 e s).inst 1).image = none ∧ eBytes2 e = 0 ∧ s.sys.baseRecheck = false) ∧
    (let e := entry 3 2 []; let s := withCmd 1 e (up { stall := some stall0, image := some image0 })
     Accepted 1 e { fields := [], stall := true, busy := s.instBusy 1 } s ∧ (takeOff 1 e s).stall 1 = some stall0 ∧ ((takeOff 1 e s).inst 1).image = some image0 ∧
     ((takeOff 1 e s).inst 1).steps = [] ∧ ((takeOff 1 e s).inst 1).jobs = []) := by decide +kernel

theorem witness_WeightsCompletes :
    (let e := entry 4 1 [(192, 160), (320, 64)]; Accepted 0 e (weightsRules (bare 0 e) e) (bare 0 e) ∧ (takeOff 0 e (bare 0 e)).base.loaded = false ∧ anyImage (takeOff 0 e (bare 0 e)) = false) ∧
    (let e := entry 4 2 [(192, 160), (320, 64)]; Accepted 0 e (weightsRules (bare 0 e) e) (bare 0 e)) ∧
    (let e := entry 4 3 []; Accepted 0 e { fields := [], pf := true, busy := (bare 0 e).base.load.isSome || (bare 0 e).sys.baseRecheck } (bare 0 e) ∧ anyImage (takeOff 0 e (bare 0 e)) = false) := by decide +kernel

theorem witness_AdapterCompletes :
    (let e := entry 5 1 [(224, 0x04000006), (352, 0), (416, 2)]; let s0 := takeOff 1 e (full 1 e)
     Accepted 1 e { fields := objBits ++ buf1 ++ [(356, 352), (383, 368), (384, 384), (447, 416)], stall := true, foreign := ownerBits (eObj e) != 1, busy := adapterBusy (full 1 e) 1 (eObj e)
                    bad := eObj e % 2 ^ 26 == 2 ^ 26 - 1 || decide (fld e 354 352 > 4) || (bit e 355 && bit e 356) || fld e 447 416 == 0 || (eAddr e != 0 || eBytes e != 0) } (full 1 e) ∧
     bit e 384 = false ∧ s0.adapterOf 1 (eObj e) = none ∧ s0.catalogue < 65536 ∧ (s0.inst 1).stall = some stall0 ∧ (s0.inst 1).adapters.length < stall0.cat) ∧
    (let e := entry 5 2 [(192, 2), (224, 0x04000005)]
     Accepted 1 e { adapterRules (full 1 e) 1 e buf1 with bad := eBytes e != adapter0.size } (full 1 e) ∧ (full 1 e).adapterOf 1 (eObj e) = some adapter0 ∧ (takeOff 1 e (full 1 e)).inJob 1 (eObj e) = false) ∧
    (let e := entry 5 3 [(192, 2), (224, 0x04000005)]
     Accepted 1 e (adapterRules (full 1 e) 1 e buf1) (full 1 e) ∧ (takeOff 1 e (full 1 e)).adapterOf 1 (eObj e) = some adapter0 ∧ adapter0.size ≤ eBytes e ∧ adapter0.master.length = adapter0.size ∧ adapter0.away = false) ∧
    (let e := entry 5 4 [(224, 0x04000005)]
     Accepted 1 e (adapterRules (full 1 e) 1 e []) (full 1 e) ∧ (takeOff 1 e (full 1 e)).stall 1 = some stall0 ∧ adapter0.resident = true) ∧
    (let e := entry 5 4 [(224, 0x04000005)]; let a := { adapter0 with slot := none }; let s := (full 1 e).updInst 1 (fun n => { n with adapters := [a] })
     Accepted 1 e (adapterRules s 1 e []) s ∧ (takeOff 1 e s).adapterOf 1 (eObj e) = some a ∧ a.resident = false ∧ stall0.hot ≠ 0 ∧ (takeOff 1 e s).fixedUnits 1 + a.pages ≤ stall0.fast) ∧
    (let e := entry 5 5 [(224, 0x04000005)]
     Accepted 1 e (adapterRules (full 1 e) 1 e []) (full 1 e) ∧ (takeOff 1 e (full 1 e)).inJob 1 (eObj e) = false ∧ ((takeOff 1 e (full 1 e)).inst 1).steps = []) := by decide +kernel

/-- A member map of device 1 alone, and the record of a job with it. -/
def map1 : Bytes := leBytes 8 (1 + 16 * 2 ^ 14)
def record1 : Bytes := leBytes 8 (9 + 100 * 2 ^ 32) ++ leBytes 56 1 ++ map1

/-- The device has the identity 1. -/
def asDevice (s : State) : State := s.updSys (fun y => { y with devId := 1, square := 0, pos := 1 })

theorem witness_JobCompletes :
    (let e := entry 5 6 [(192, 72)]; let s := asDevice (full 1 e)
     Accepted 1 e { fields := buf1 ++ buf2, stall := true, busy := s.instBusy 1 || s.mapWaits 1, bad := decide (eBytes e < 72) || eBytes2 e % 64 != 0 } s ∧ recordBad 1 e (sub record1 0 72) = false) ∧
    (let e := entry 5 7 [(224, 9)]; let s := full 1 e
     Accepted 1 e { jobRules s 1 e [] with busy := job0.snapshot.isSome } s ∧ s.jobOf 1 9 = some job0 ∧ ((takeOff 1 e s).inst 1).steps = [] ∧ job0.reshard = none ∧ job0.contributed = false) ∧
    (let e := entry 5 9 [(224, 9)]; let s := full 1 e; Accepted 1 e (jobRules s 1 e []) s ∧ (takeOff 1 e s).jobOf 1 9 = some job0) ∧
    (let e := entry 5 8 [(192, 8), (224, 9), (352, 1)]; let s := asDevice (full 1 e); let s0 := takeOff 1 e s
     Accepted 1 e { jobRules s 1 e (buf1 ++ buf2 ++ [(415, 352), (416, 416)]) with
                    busy := job0.reshard.isSome, bad := eBytes e == 0 || eBytes e % 8 != 0 || (eAddr2 e != 0 || eBytes2 e != 0) } s ∧ bit e 416 = false ∧ s.jobOf 1 9 = some job0 ∧
     reshardMapOk s0.sys.devId.toNat job0 (sub map1 0 8) = true ∧ reshardReady job0 (parseMap (sub map1 0 8)) (fld e 415 352) false = true ∧ jobSquares s0 1 (parseMap (sub map1 0 8)) = true) := by
  decide +kernel

/-- A table of one real-time slot of program 1, 250 µs long. -/
def table1 : Bytes := leBytes 16 (250000 + 2 ^ 32) ++ leBytes 16 (250000 * 2 ^ 32 + 2 ^ 72 + 300000 * 2 ^ 96)
def almanac1 : Almanac := { cycle := 250000, start := 0, slots := [{ offset := 0, length := 250000, bubble := false, program := 1, bound := 300000 }], tag := none }

theorem witness_Almanac :
    (let e := entry 6 1 [(192, 32)]; let s := withCmd 1 e (up { stall := some stall0, image := some image0 }); let s0 := takeOff 1 e s
     Accepted 1 e { fields := buf1, stall := true, bad := decide (eBytes e < 32) || decide (eBytes e > 1040), busy := (s.inst 1).nextAlmanac.isSome } s ∧ parseTable (sub table1 0 32) = some almanac1 ∧
     s0.stall 1 = some stall0 ∧ (s0.inst 1).image = some image0 ∧ wrongClass image0 almanac1 = false ∧
     almanac1.slots.any (fun sl => sl.bubble && !outlasts s0 stall0 sl.length) = false ∧ unaligned s0 = false) ∧
    (let e := entry 6 2 []; Accepted 1 e { fields := [], stall := true } (full 1 e)) := by decide +kernel

/-- `paged` with an adapter, program 0 real-time and the almanac of one slot; `e` in the ring. -/
def stepsAt (e : Entry) (steps : List Step) : State :=
  withCmd 1 e (paged.updInst 1 (fun n => { n with adapters := [adapter0], almanac := some almanac1, steps := steps }))
def runE : Entry := entry 7 1 [(32, 8), (320, 128), (363, 1), (384, 1), (480, 1), (512, 1), (544, 1), (352, 1)]

theorem witness_StepCommands :
    (let s := stepsAt runE []; let s0 := takeOff 1 runE s; let runs := parseRuns (bit runE 362) (sub (leBytes 8 (0x04000005 + 2 ^ 32)) 0 (listBytes runE)) (listCount runE) 0
     let q : Step := { stepOfEntry runE with runs := runs, lr := 0, gmul := 0, eTs := [] }
     Accepted 1 runE { fields := stepFields, stall := true, bad := stepBad s 1 runE } s ∧ fld runE 361 360 ≠ 1 ∧ (s0.inst 1).image.isSome = true ∧
     runs.any (fun r => idMissing s0 1 r.1) = false ∧ runsBad q runs = false ∧ s0.stall 1 = some stall0 ∧ s0.progOf 1 (fld runE 359 352) = some prog0 ∧ stepRefusal s0 1 stall0 prog0 q = none) ∧
    (let e := entry 7 2 [(224, 7)]; let s := stepsAt e [step0]; Accepted 1 e { fields := objBits, stall := true } s ∧ (takeOff 1 e s).stepOf 1 7 = some step0) := by decide +kernel

theorem witness_Sync :
    (let e := entry 8 1 [(224, 1)]; let s := stepsAt e []; Accepted 1 e { fields := objBits, stall := true, foreign := !s.ownsObj 1 1 } s) ∧
    (let e := entry 8 2 [(224, 1), (384, 3)]; let s := stepsAt e []
     Accepted 1 e { fields := objBits ++ [(353, 352), (415, 384)], stall := true, foreign := !s.ownsObj 1 1
                    bad := fld e 353 352 == 3 || (fld e 353 352 == 0) != (fld e 415 384 != 0) || (s.obj 1).kind.toNat != fld e 353 352 } s) ∧
    (let e := entry 8 3 [(224, 2)]; let s := stepsAt e []; Accepted 1 e { fields := objBits, stall := true, foreign := !s.ownsObj 1 2 } s) := by decide +kernel

def export0 : Export :=
  { spec := { tag := 1, mode := 2, storage := false, addr := 0, handle := [], slots := 2, slotBytes := 64, notify := 0 }, acked := 0, queue := [(1, [0])], delivered := 1, stopped := false, next := none }

theorem witness_ExportCommands :
    (let e := entry 9 1 [(224, 9)]; let s := full 1 e
     Accepted 1 e { fields := objBits ++ buf1 ++ [(319, 256), (353, 352), (354, 354), (367, 360), (415, 384)], stall := true, missing := (s.jobOf 1 9).isNone } s ∧ fld e 353 352 = 0 ∧
     s.jobOf 1 9 = some job0 ∧ job0.exp = none) ∧
    (let e := entry 9 2 [(224, 9), (352, 1)]; let j := { job0 with exp := some export0 }; let s := (full 1 e).updInst 1 (fun n => { n with jobs := [j] })
     Accepted 1 e { fields := objBits ++ [(415, 352)], stall := true, missing := j.exp.isNone } s ∧ s.jobOf 1 9 = some j) ∧
    (let e := entry 9 3 [(224, 9), (320, 4), (400, 1)]; let s := full 1 e
     Accepted 1 e { fields := objBits ++ buf1 ++ buf2 ++ [(354, 354), (399, 384), (415, 400)], stall := true
                    busy := job0.snapshot.isSome || shardOpen s 1
                    bad := eBytes2 e % 4 != 0 || eBytes2 e == 0 || decide (fld e 399 384 ≥ fld e 415 400) } s ∧ bit e 354 = false ∧ s.jobOf 1 9 = some job0) := by decide +kernel

theorem witness_MaintCompletes :
    (let e := entry 10 1 [(352, 3), (360, 2)]; let s0 := takeOff 0 e (bare 0 e)
     Accepted 0 e (maintRules [(358, 352), (361, 360)] (decide (fld e 358 352 ≥ 96) || fld e 361 360 == 3)) (bare 0 e) ∧ (s0.port 3).loop = false ∧ (s0.port 3).mode ≠ modeOf 2 ∧ portInUse s0 3 = false ∧
     storagePorts s0 3 < 8) ∧
    (let e := entry 10 2 [(352, 95)]; let s := (bare 0 e).updPort 95 (fun p => { p with st := .refused })
     Accepted 0 e (maintRules [(358, 352)] (decide (fld e 358 352 ≥ 96))) s ∧ ((takeOff 0 e s).port 95).st = .refused) ∧
    (let e := entry 10 3 [(352, 49), (368, 1), (376, 1)]; let s0 := takeOff 0 e (bare 0 e)
     Accepted 0 e (maintRules [(365, 352), (375, 368), (381, 376)] (fld e 365 352 != fld e 375 368 * 48 + fld e 381 376 || decide (fld e 381 376 ≥ 48))) (bare 0 e) ∧
     s0.flowSrc.any (fun f => f.2.opened) = false ∧ s0.flowDst.any (fun f => f.2.opened) = false) ∧
    (let e := entry 10 4 [(224, 1), (352, 3)]; let s := (bare 0 e).updPort 3 (fun p => { p with mode := .storage })
     Accepted 0 e { maintRules (objBits ++ [(358, 352), (384, 384), (639, 512)]) (decide (fld e 358 352 ≥ 96)) with missing := decide (eObj e ≥ 64) || !s.fnExists (eObj e), busy := s.instBusy (eObj e) } s ∧
     ((takeOff 0 e s).port 3).mode = .storage ∧ ((takeOff 0 e s).qps.filter (fun q => q.port == 3)).length < 256) ∧
    (let e := entry 10 5 [(352, 3), (384, 2)]; let s := { bare 0 e with qps := [{ port := 3, qpn := 2, fn := 1, gen := 0, lgid := 0, ipv6 := false }] }
     Accepted 0 e { maintRules [(358, 352), (407, 384)] (decide (fld e 358 352 ≥ 96)) with missing := s.qps.all (fun q => !(q.port == fld e 358 352 && q.qpn == fld e 407 384)) } s ∧
     (takeOff 0 e s).rdmas.any (fun r => r.port == 3 && r.qpn == 2) = false) ∧
    (let e := entry 10 6 [(352, 0xBF)]; Accepted 0 e (maintRules [(359, 352)] (decide (fld e 359 353 ≥ if bit e 352 then 96 else 32))) (bare 0 e)) ∧
    (let e := entry 10 6 [(352, 0x3E)]; Accepted 0 e (maintRules [(359, 352)] (decide (fld e 359 353 ≥ if bit e 352 then 96 else 32))) (bare 0 e)) := by decide +kernel

theorem witness_MaintActivities :
    (let e := entry 10 7 [(352, 63)]; Accepted 0 e (maintRules [(357, 352)] false) (bare 0 e) ∧ (takeOff 0 e (bare 0 e)).ownerOf 63 = none) ∧
    (let e := entry 10 8 [(352, 0x16)]; Accepted 0 e (maintRules [(363, 352)] (!bit e 352 && decide (fld e 356 353 + (if bit e 352 then 12 else 0) ≥ 12))) (bare 0 e)) ∧
    (let e := entry 10 9 [(352, 3), (384, 60)]; Accepted 0 e (maintRules [(379, 352), (391, 384)] (fld e 391 384 == 0 || decide (fld e 391 384 > 60))) (bare 0 e)) ∧
    (let e := entry 10 10 [(192, 64)]; Accepted 0 e (maintRules buf1 false) (bare 0 e) ∧ ((takeOff 0 e (bare 0 e)).fn 0).mayWrite = true) := by decide +kernel

theorem witness_MigrateAndTelemetry :
    (let e := entry 11 1 [(224, 1)]; let s := full 0 e
     Accepted 0 e (migrateRules s e []) s ∧ eObj e ≠ 0 ∧ ((takeOff 0 e s).inst 1).stall.isSome = true ∧ ((takeOff 0 e s).inst 1).frozen = false ∧ tdiHolds ((takeOff 0 e s).inst 1) = false ∧
     flowsOpen (takeOff 0 e s) 1 = false ∧ ((takeOff 0 e s).inst 1).steps = []) ∧
    (let e := entry 11 4 [(224, 1)]; let s := (full 0 e).updInst 1 (fun n => { n with frozen := true }); Accepted 0 e (migrateRules s e []) s ∧ ((takeOff 0 e s).inst 1).frozen = true) ∧
    (let e := entry 11 2 [(224, 1), (192, 4096)]; let s := (full 0 e).updInst 1 (fun n => { n with frozen := true, migKey := some 5 })
     Accepted 0 e { migrateRules s e regionFields with bad := bit e 352 && eBytes e != 64 } s ∧ (takeOff 0 e s).stall 1 = some stall0 ∧ ((takeOff 0 e s).inst 1).migKey = some 5 ∧
     ((takeOff 0 e s).inst 1).frozen = true ∧ bit e 352 = false) ∧
    (let e := entry 11 3 [(224, 1), (192, 4096)]; let s := full 0 e; Accepted 0 e { migrateRules s e regionFields with bad := bit e 352 && eBytes e != 64 } s ∧ bit e 352 = false) ∧
    (let e := entry 12 1 [(224, 1), (192, 2048)]; let s := full 1 e; let s0 := takeOff 1 e s
     Accepted 1 e (telemetryRules s 1 e) s ∧ (stall0.cores.flatMap (fun c => coreRecord (s0.core c))).length ≤ eBytes e ∧ (stall0.groupList.flatMap (groupRecord s0)).length ≤ eBytes e ∧
     (s0.inst 1).image = some image0 ∧ image0.counters = []) ∧
    (let e := entry 12 4 [(352, 63)]; Accepted 0 e { fields := [(357, 352)], pf := true, frozen := true } (full 0 e) ∧ (takeOff 0 e (full 0 e)).ownerOf 63 = none) := by decide +kernel

/-! ## The almanac, heat, residency -/

/-- `paged` at 240 µs, with the almanac of one slot from 0 on, the adapter, and a step that waits. -/
def soon (p : Step) : State :=
  { paged.updInst 1 (fun n => { n with adapters := [adapter0], almanac := some almanac1, steps := [p] }) with now := 240000 }

theorem witness_DecisionPoints :
    (let s := soon step0; let u := gapCheck 1 (stepBoundary 1 s); let sl : Slot := almanac1.slots.headD { offset := 0, length := 0, bubble := false, program := 0, bound := 0 }
     let im := { image0 with regions := [region0] }
     (s.inst 1).stall = some stall0 ∧ (s.inst 1).image = some im ∧ (s.inst 1).almanac = some almanac1 ∧ almanac1.startOf 0 1 = some (sl, 250000) ∧ im.program 1 = some prog0 ∧ sl.bubble = false ∧
     (s.inst 1).nextAlmanac = none ∧ (s.inst 1).frozen = false ∧ s.sys.fatal = false ∧ stall0.lent ≠ some (0, 1) ∧ 250000 ≤ s.now.toNat + 20000 ∧ s.now.toNat < 250000 ∧ (s.inst 1).steps.any (fun q => q.begins == 250000 && !q.waits) = false ∧
     (u.inst 1).steps.find? (fun q => q.kind == 0 && q.waits) = some step0 ∧ step0.program = sl.program ∧ ¬((u.heat stall0).1 ≥ 2 ∨ u.sys.forceSafeN = false) ∧
     u.sys.stoppedHalf = none ∧ u.stallFaulted stall0 = false ∧ u.serves stall0 = true ∧ u.fits 1 stall0 im prog0 step0 sl = true ∧ u.rowsHere step0 = true ∧ u.allResident 1 step0 = false) ∧
    (let p := { step0 with runs := [(0x04000005, 1)] }; let u := gapCheck 1 (stepBoundary 1 (soon p)); (u.inst 1).steps.find? (fun q => q.kind == 0 && q.waits) = some p ∧ u.allResident 1 p = true) ∧
    (let u := gapCheck 1 (stepBoundary 1 ((soon step0).updGroup 0 (fun g => { g with level := 2 }))); (u.heat stall0).1 ≥ 2) ∧
    (let u := gapCheck 1 (stepBoundary 1 ((soon step0).updGroup 0 (fun g => { g with outOfService := true, speedFault := true }))); u.stallFaulted stall0 = true ∧ ¬((u.heat stall0).1 ≥ 2 ∨ u.sys.forceSafeN = false)) ∧
    (let u := gapCheck 1 (stepBoundary 1 (soon { step0 with program := 2 })); (u.inst 1).steps.find? (fun q => q.kind == 0 && q.waits) = some { step0 with program := 2 }) ∧
    (let p := { step0 with runs := [(0x04000005, 1)], rows := 1000000 }; let u := gapCheck 1 (stepBoundary 1 (soon p)); let sl : Slot := almanac1.slots.headD { offset := 0, length := 0, bubble := false, program := 0, bound := 0 }
     u.allResident 1 p = true ∧ u.fits 1 stall0 { image0 with regions := [region0] } prog0 p sl = false) ∧
    ((((soon step0).updInst 1 (fun n => { n with nextAlmanac := some almanac1 })).inst 1).nextAlmanac.isSome = true) ∧
    (let u := gapCheck 1 (stepBoundary 1 (soon { step0 with at_ := .running 0 0 0 })); (u.inst 1).steps.find? (fun q => q.kind == 0 && q.waits) = none) := by decide +kernel

theorem witness_OccurrencesRun :
    (let p := { step0 with at_ := .accepted 0 0 0, begins := 0 }; let s := soon p
     acceptedStep (s.inst 1) 0 0 = some p ∧ (s.inst 1).image = some { image0 with regions := [region0] } ∧ image0.program 1 = some prog0 ∧ ¬(s.now.toNat < p.begins)) ∧
    (let s := soon { step0 with at_ := .running 0 0 0 }; (s.inst 1).almanac = some almanac1 ∧ (almanac1.startOf 0 0).isSome = true ∧ s.now.toNat < 0 + 250000 ∧
     ((s.inst 1).steps.find? (Step.inOccurrence 0 0)).isSome = true ∧ 250000 ≤ ({ s with now := 250000 } : State).now.toNat) ∧
    (let s := soon step0; (s.inst 1).steps.find? (Step.inOccurrence 0 0) = none) ∧
    (let tbl := { almanac1 with tag := some 4 }; let s := { (soon step0).updInst 1 (fun n => { n with nextAlmanac := some tbl }) with now := 250000 }
     (s.inst 1).nextAlmanac = some tbl ∧ occurrencesOpen (s.inst 1) = false ∧ tbl.start ≤ s.now.toNat ∧ (s.now.toNat - tbl.start) % tbl.cycle = 0 ∧ lastEnd s 1 ≤ s.now.toNat ∧ tbl.tag = some (4 : BitVec 32).toNat ∧
     occurrencesOpen ((soon { step0 with at_ := .running 0 0 0 }).inst 1) = true) := by decide +kernel

/-- Bubble time: the slot of the almanac is a bubble slot. -/
def bubbleTbl : Almanac := { cycle := 2500000, start := 0, slots := [{ offset := 0, length := 2500000, bubble := true, program := 0, bound := 0 }], tag := none }
def bubbles (p : Step) (st : Stall) (tbl : Almanac) : State :=
  { paged.updInst 1 (fun n => { n with stall := some st, almanac := some tbl, steps := [p] }) with now := 240000 }
def evalStep : Step := { step0 with kind := 2, inFabric := false }

theorem witness_BubbleWork :
    (let s := bubbles { evalStep with at_ := .bubble 0 } stall0 almanac1
     s.stall 1 = some stall0 ∧ s.bubbleTime 1 stall0 = false ∧ stall0.suspended = false ∧ bubbleInProgress (s.inst 1) = true ∧ stall0.cores.all (fun c => (s.work c).moveQ.isEmpty) = true) ∧
    (let st := { stall0 with suspended := true }; let s := bubbles { evalStep with at_ := .bubble 0 } st bubbleTbl
     s.stall 1 = some st ∧ s.bubbleTime 1 st = true ∧ s.serves st = true ∧ (s.inst 1).frozen = false) ∧
    (let p := { evalStep with at_ := .bubble 0 }; let im := { image0 with tasks := [{ program := 1, substep := 1, cores := 0, entry := 0 }], programs := [{ prog0 with tasks := 1 }], regions := [region0] }
     let s := (bubbles p stall0 bubbleTbl).updInst 1 (fun n => { n with image := some im }); let u := stepBoundary 1 (startReshards 1 s)
     u.stall 1 = some stall0 ∧ (u.inst 1).image = some im ∧ u.bubbleTime 1 stall0 = true ∧ u.serves stall0 = true ∧ u.sys.forceSafeN = true ∧
     (u.inst 1).steps.find? (fun q => q.runsBubble) = some p ∧ p.cores = [] ∧ im.program p.program = some { prog0 with tasks := 1 } ∧ 0 < im.lastSub { prog0 with tasks := 1 }) ∧
    (let u := stepBoundary 1 (startReshards 1 (bubbles evalStep stall0 bubbleTbl))
     (u.inst 1).steps.find? (fun q => q.runsBubble) = none ∧ (u.inst 1).steps.find? (fun q => q.kind != 0 && q.waits) = some evalStep) := by decide +kernel

theorem witness_SpillRoundTrip : Mem.wf (busy.core 3).sram = true := by decide +kernel

theorem witness_ThermalEvents :
    (let s := (up {}).updGroup 5 (fun g => { g with outOfService := true }); (s.group 5).outOfService = true) ∧ ((up {}).group 5).outOfService = false ∧
    (1999 : BitVec 16).toNat < 2000 ∧ 2000 ≤ (2000 : BitVec 16).toNat ∧ (2099 : BitVec 16).toNat < 2100 ∧ 2100 ≤ (2199 : BitVec 16).toNat ∧ (2199 : BitVec 16).toNat < 2200 ∧ 2200 ≤ (2200 : BitVec 16).toNat ∧
    (let s := (up {}).updGroup 5 (fun g => { g with high := 99 }); 100 ≤ (s.group 5).high + 1) ∧ ((up {}).group 5).high + 1 < 100 ∧ 3 < [850, 950, 1000, 1050].length := by decide +kernel

/-- `full` with the adapter `a`. -/
def holding (a : Adapter) : State := (full 1 0).updInst 1 (fun n => { n with adapters := [a] })

theorem witness_ResidencyEvents :
    (let a := { adapter0 with fetching := true }; (holding a).adapterOf 1 0x04000005 = some a ∧ a.away = false ∧ a.poisoned = false ∧ a.fetchTag = none) ∧
    (let a := { adapter0 with slot := none, lastUse := 1 }; let s := holding a
     s.stall 1 = some stall0 ∧ s.adapterOf 1 0x04000005 = some a ∧ (s.inst 1).adapters.any (fun x => x.lastUse != 0) = true ∧ s.fixedUnits 1 + s.adapterUnits 1 + a.pages ≤ stall0.fast ∧
     freeSlot (s.inst 1) stall0.hot = some 0) ∧
    (let im := { image0 with expertAddr := 0x1000, expertLen := 0x1000 }; let s := paged.updInst 1 (fun n => { n with image := some im })
     let d : Desc := BitVec.ofNat 128 (5 + 1 <<< 10 + (0x1000 : BitVec 19).toNat <<< 16 + (128 : BitVec 24).toNat <<< 40 + (0 : BitVec 48).toNat <<< 64)
     s.ownerOf 0 = some 1 ∧ (s.inst 1).image = some im ∧ moveOk d = true ∧ im.expertAddr ≤ 0x1000 ∧ 0x1000 + 128 ≤ im.expertAddr + im.expertLen ∧ (s.work 3).task.isSome = true) := by decide +kernel

/-! ## Maintenance of device memory -/

def act0 (kind : ActKind) (r : Res) (running : Bool) : Act := { id := 2, kind := kind, res := [r], running := running, tag := some 6, arg := 5, endBy := some 0 }
def acting (a : Act) : State := { up {} with acts := [a] }

theorem witness_ActivitiesRun :
    (let a := act0 .pc (.channel 0 0) false; findAct (acting a) 2 = some a ∧ mayStart (acting a).acts a = true) ∧
    (let a := act0 .mh (.part 0) false; findAct (acting a) 2 = some a ∧ mayStart (acting a).acts a = true) ∧
    findAct (acting (act0 .cg (.group 5) true)) 2 = some (act0 .cg (.group 5) true) ∧
    (let a := { act0 .pc (.channel 0 0) true with tag := none }; findAct (acting a) 2 = some a) ∧
    (let s := (acting (act0 .fw .token true)).updSys (fun y => { y with fwStage := 3 }); findAct s 2 = some (act0 .fw .token true) ∧ s.sys.fwStage = 3) ∧
    (let a := act0 .mh (.part 0) true; findAct (acting a) 2 = some a ∧ a.endBy = some 0 ∧ 0 ≤ (acting a).now.toNat) := by decide +kernel

/-- `paged` with a second set, in which the page may move, and an activity for it. -/
def moving (kind : ActKind) (running : Bool) (e : Pte) : State :=
  { paged with sets := [{ parts := [0], base := 0, size := 1048576 }, { parts := [12], base := 0, size := 1048576 }]
               pages := [(pageKey 1 0, e)], acts := [act0 kind (.page (pageKey 1 0)) running] }
def page0 : Pte := { valid := true, write := true, inst := 1, gen := 5 }
def move1 : MoveRec := { id := 1, inst := 1, page := 0, home := .fast, set := 1, frame := 0, done := none }

theorem witness_PageMoves :
    (let s := moving .mv false page0; let key := (s.pageOf 1 0).1; let e := (s.pageOf 1 0).2
     let run := { act0 .mv (.page (pageKey 1 0)) false with res := Res.page key :: (partsOf s e.set ++ partsOf s stall0.slowSet).map Res.part, running := true }
     s.stall 1 = some stall0 ∧ e.valid = true ∧ e.moving = false ∧ e.home = .fast ∧ e.base = false ∧ (e.rt && s.rtRunning 1) = false ∧ actFor s .mv (.page key) = some (act0 .mv (.page (pageKey 1 0)) false) ∧
     freeFrame s stall0.slowSet 1 1 = some 0 ∧ regionOf s 1 0 = some region0 ∧ region0.offload = false ∧ e.big = false ∧ e.frames = 1 ∧
     mayStart s.acts { act0 .mv (.page (pageKey 1 0)) false with res := run.res } = true) ∧
    (let s := { moving .mv true { page0 with moving := true, moveId := 1 } with moves := [move1] }; let e := (s.pageOf 1 0).2
     s.moves.find? (fun m => m.id == 1) = some move1 ∧ e.valid = true ∧ e.moving = true ∧ e.moveId = 1 ∧ e.packed = false ∧ move1.home = .fast ∧ move1.done = none) := by decide +kernel

def rekey1 : RekeyRec := { inst := 1, page := 0, epoch := 2, map := 0, done := [] }

theorem witness_Rekeying :
    (let s := moving .rk false page0; (s.pageOf 1 0).2.valid = true ∧ (s.pageOf 1 0).2.base = false ∧ actFor s .rk (.page (s.pageOf 1 0).1) = some (act0 .rk (.page (pageKey 1 0)) false)) ∧
    (let s := { moving .rk true page0 with rekeys := [rekey1] }
     s.rekeyOf (s.pageOf 1 0).2 (s.pageOf 1 0).1 = some rekey1 ∧ actFor s .rk (.page (s.pageOf 1 0).1) = some (act0 .rk (.page (pageKey 1 0)) true)) := by decide +kernel

def find0 (line : Nat) (words : List Check) : LineFind := { line := line, words := words, mdata := .good, tagOk := true }

theorem witness_ScrubAndRepair : (find0 375000000 []).line ≥ partLines 0 ∧ 1464844 * 512 ≥ partLines 27 ∧ (find0 374999999 [.corrected]).line < partLines 0 ∧ scrubFree (up {}) 0 = true ∧
    ownerOfLine (up {}) 0 374999999 = none ∧ findCorrected (find0 374999999 [.corrected]) = true ∧ findBadWords (find0 374999999 [.corrected]) = 0 ∧ (find0 374999999 [.corrected]).mdata ≠ .bad ∧
    scrubFree (acting (act0 .mh (.part 0) true)) 0 = false ∧
    (let s := acting (act0 .fr (.frame 0 9) true); actFor s .fr (.frame 0 9) = some (act0 .fr (.frame 0 9) true) ∧ pagesOnFrame s 0 9 = [] ∧ 9 * 512 < partLines 0) ∧
    (let s := up {}; let s1 := declareAct .pc [.channel 0 3] none (0 + 3 <<< 5) (raiseDev 8 5 (0 + 3 <<< 5) s); (findAct s1 s.nextAct).isSome = true) ∧
    (let r : ScrubRun := { set := 0, frame := 0, count := 1, inst := 1, gen := 4 }; let s := { moving .sc true page0 with scrub := [r] }; scrubRun s 0 0 = some r) := by decide +kernel

/-! ## Fine-tuning -/

def tuneStep (at_ : StepAt) : Step := { step0 with kind := 1, inFabric := false, job := 9, at_ := at_ }
def tuning (at_ : StepAt) (j : Job) : State := (full 1 0).updInst 1 (fun n => { n with steps := [tuneStep at_], jobs := [j] })
def sshot : Snapshot := { tag := 4, bank := 0, shard := [1], addr := 0, storage := false, handle := [], step := 1 }

theorem witness_SweepAndCommit : sweepReady (tuning (.bubble 0) job0) 1 = some (tuneStep (.bubble 0), job0) ∧ job0.snapshot = none ∧
    ((tuning .sweeping job0).inst 1).steps.find? (fun p => p.at_ == .sweeping) = some (tuneStep .sweeping) ∧ sweepPaused (tuning .sweeping job0) 1 = false ∧
    (tuning .sweeping job0).jobOf 1 9 = some job0 ∧ (tuning (.committing false) job0).jobStep 1 9 = some (tuneStep (.committing false)) ∧
    (tuning (.committing true) job0).jobStep 1 9 = some (tuneStep (.committing true)) := by decide +kernel

theorem witness_JobEvents :
    (let j := { job0 with contributed := true, timeoutUs := 0 }; let s := tuning .verdict j
     s.jobOf 1 9 = some j ∧ j.contributed = true ∧ j.contribAt + j.timeoutUs * 1000 ≤ s.now.toNat ∧ j.reshard = none ∧ ((raise 1 3 7 9 (clearVotes 1 9 s)).jobStep 1 9).isSome = true) ∧
    (let j := { job0 with contributed := true }; (tuning .verdict j).now.toNat < j.contribAt + j.timeoutUs * 1000) ∧
    (let j := { job0 with exp := some export0 }; let s := tuning .verdict j
     s.jobOf 1 9 = some j ∧ export0.queue = (1, [0]) :: [] ∧ export0.delivered = 1 ∧ s.rdmaOpen 1 (.recordSet 9) = false ∧ (s.fn 1).mayWrite = true) ∧
    (let j := { job0 with snapshot := some sshot }; (tuning .verdict j).jobOf 1 9 = some j ∧ sshot.storage = false) := by decide +kernel

/-! ## The fabric -/

/-- Device 1 runs, with port 2 UP and the destination entry of flow 3 open for device 7. -/
def linked (d : FlowDst) : State :=
  { ((asDevice (full 1 0)).updInst 1 (fun n => { n with image := some { image0 with rtKeep := 0x7F000 } })).updPort 2 (fun p => { p with st := .up, peerDev := 7 }) with flowDst := [(3, d)] }
def dst0 : FlowDst := { src := 7, fn := 1, gen := 5, bubble := false, opened := true }

/-- A frame from device 7 to this device, on flow 3, for core 5 at 0x1000, of 64 bytes. -/
def frame0 (typ seq : Nat) : RxFrame :=
  { hdr := BitVec.ofNat 256 (typ + (if typ ≥ 8 then 0 else 2 ^ 4) + 2 ^ 32 + 7 * 2 ^ 46 + 1 * 2 ^ 60 + 3 * 2 ^ 64 + seq * 2 ^ 84 + 2 ^ 112 + 5 * 2 ^ 128 + 64 * 2 ^ 144 + 5 * 2 ^ 155 + 64 * 2 ^ 167)
    payload := List.replicate 64 9, cellBad := false, tagBad := false, corrected := 0 }

/-- A frame that the link accepts on an UP port of its destination acts. -/
theorem received (port typ : Nat) (f : RxFrame) (s : State) (h1 : (Hdr.parse f.hdr).typ = typ ∧ frameFault f (Hdr.parse f.hdr) = false)
    (h2 : (linkAccept port f s).1 = true ∧ ((linkAccept port f s).2.port port).st = .up ∧ (Hdr.parse f.hdr).dest = (linkAccept port f s).2.sys.devId.toNat) :
    ∃ s1, Received port typ f s s1 := by
  have e : linkAccept port f s = ((linkAccept port f s).1, (linkAccept port f s).2) := rfl
  rw [h2.1] at e
  exact ⟨_, h1.1, h1.2, _, e, Or.inl h2.2.1, Or.inr h2.2.2, rfl⟩

theorem witness_FramesReceived : ∀ typ ∈ [0, 1, 2, 3, 4, 5, 6, 8, 9, 10, 11], ∃ s1, Received 2 typ (frame0 typ 0) (linked dst0) s1 := by
  intro typ ht
  simp only [List.mem_cons, List.not_mem_nil, or_false] at ht
  rcases ht with h | h | h | h | h | h | h | h | h | h | h <;> subst h <;> exact received _ _ _ _ (by decide +kernel) (by decide +kernel)

/-- The state in which a DATA frame of number `seq` acts, the expected number being `e`. -/
def data1 (seq e : Nat) : State := oweCredit 2 ((pickPool (((linkAccept 2 (frame0 0 seq) (linked { dst0 with expSeq := e })).2.port 2).buffered) (Hdr.parse (frame0 0 seq).hdr)).getD 10) (linkAccept 2 (frame0 0 seq) (linked { dst0 with expSeq := e })).2

theorem witness_DataFrames :
    (let s1 := data1 0 0; let h := Hdr.parse (frame0 0 0).hdr
     s1.memWf = true ∧ s1.dstOf h.flow = some dst0 ∧ dst0.opened = true ∧ dst0.src = h.src ∧ dst0.epoch = h.epoch ∧ (h.seq + 2 ^ 24 - dst0.expSeq % 2 ^ 24) % 2 ^ 24 = 0 ∧ h.inst = dst0.fn ∧
     h.gen = (s1.inst 1).gen.toNat ∧ dst0.gen = h.gen ∧ (h.cls == 1) = dst0.bubble ∧ reshardFrom s1 1 h.src false = none ∧ areaOk dst0 (h.dst * 64) 64 s1 = true ∧ s1.stall 1 = some stall0 ∧
     stall0.holds h.core = true ∧ (s1.core h.core).spilled = none ∧ h.oper = 0 ∧ h.sig = false ∧ h.poison = false ∧ h.lovf = false ∧ h.lnf = false ∧ dst0.unacked < 15) ∧
    (let h := Hdr.parse (frame0 0 2).hdr; let d := (h.seq + 2 ^ 24 - 1 % 2 ^ 24) % 2 ^ 24; 0 < d ∧ d < 2 ^ 23) ∧
    (let h := Hdr.parse (frame0 0 0).hdr; let d := (h.seq + 2 ^ 24 - 1 % 2 ^ 24) % 2 ^ 24; 2 ^ 23 ≤ d) := by decide +kernel

theorem witness_OldFramesDiscarded : (Hdr.parse (frame0 0 0).hdr).gen ≠ (((linked dst0).updInst 1 (fun n => { n with gen := 6 })).inst dst0.fn).gen.toNat := by decide +kernel

def src0 : FlowSrc := { dest := 7, flow := 3, fn := 1, gen := 5, dstInst := 1, dstGen := 0, bubble := false, rate := 1, path := 0, alt := 0, opened := true, retained := [{ seq := 0, hdr := 0, payload := [], tries := 0 }] }
def sourced (f : FlowSrc) : State := { up {} with flowSrc := [(flowKey 7 3, f)] }
def coll0 : Coll :=
  { kind := 1, bubble := false, compress := false, fmt := 0, eT := 0, members := 0, index := 0, coll := 4, core := 3, src := 0, dst := 0, len := 0, trigger := 1, thresh := 1, done := 1, timeout := 1, cut := 0, list := [], listAddr := 0 }
def run0 (started : Bool) : CollRun := { fn := 1, coll := 4, startedAt := 0, started := started, got := [], streams := [] }
def collState (started : Bool) : State := { up { image := some { image0 with colls := [coll0] } } with colls := [run0 started] }

theorem witness_FlowTimers : ((linked dst0).dstOf 3).isSome = true ∧
    (let f := (sourced src0).src (flowKey 7 3); f.opened = true ∧ f.broken = false ∧ f.fenced = false ∧ f.retained ≠ []) ∧
    (let f := (sourced { src0 with fenced := true }).src (flowKey 7 3); f.opened = true ∧ f.broken = false ∧ f.fenced = true) ∧
    collOf (collState true) 1 4 = some coll0 ∧ runOf (collState true) 1 4 = some (run0 true) ∧ collFull coll0 (run0 true) = true ∧ runOf (collState false) 1 4 = some (run0 false) ∧ collFull coll0 (run0 false) = false := by
  decide +kernel

theorem witness_PortStates : (up {}).linksRun = true ∧ ((up {}).port 3).mode = .sfl ∧ ((up {}).port 3).st = .down ∧
    (let s := (up {}).updPort 3 (fun p => { p with st := .training }); (s.port 3).st = .training) ∧
    (let s := (up {}).updPort 3 (fun p => { p with mode := .storage }); (s.port 3).mode = .storage ∧ (s.port 3).st = .down) ∧
    (let s := ((up {}).updPort 3 (fun p => { p with st := .attesting })).updSys (fun y => { y with linkPolicy := [5] })
     (s.port 3).st = .attesting ∧ s.sys.linkPolicy.contains 5 = true ∧ s.sys.linkPolicy.contains 6 = false) ∧
    (let s := (up {}).updPort 3 (fun p => { p with st := .up }); (s.port 3).st = .up ∧ (s.port 3).mode = .sfl ∧ (s.port 3).keySwitch = false) := by decide +kernel

def flowR : FlowDecl := { flow := 3, recv := true, bubble := false, peer := 0, rate := 1, cut := 0 }
def loading (left : List Nat) : State := up { stall := some stall0, loading := some (4, { image0 with flows := [flowR, flowR] }, left, false) }
def isOpened : FlowOpen → Bool | .opened _ => true | _ => false

theorem witness_MembersAndMatches : routeTo (asDevice (up {})) 9 = none ∧ (9 : BitVec 14) ≠ (asDevice (up {})).sys.devId ∧
    (let s := { linked dst0 with routes := [(7, [2 ^ 30 + 2])] }; (routeTo s 7).isSome = true) ∧
    (let s := loading [0, 1]; let im := { image0 with flows := [flowR, flowR] }
     (s.inst 1).loading = some (4, im, [0, 1], false) ∧ s.stall 1 = some stall0 ∧ matching im [0, 1] 3 false 1 = some 0 ∧ im.flows[0]? = some flowR ∧ isOpened (openFlow 1 stall0 im flowR s) = true ∧
     [0, 1].filter (· != 0) ≠ [] ∧ [0].filter (· != 0) = [] ∧ 0 ∈ [0, 1] ∧ flowR.flow = (3 : BitVec 20).toNat) := by decide +kernel

def rdma0 (write : Bool) (retries gen : Nat) : Rdma :=
  { id := 6, port := 3, qpn := 2, fn := 1, gen := gen, write := write, use := .adapter 5, data := [], want := 4, addr := 0, sent := true, fetches := 0, retries := retries, psn := 0 }
def stored (r : List Rdma) : State :=
  { (full 1 0).updPort 3 (fun p => { p with mode := .storage, st := .up }) with rdmas := r, qps := [{ port := 3, qpn := 2, fn := 1, gen := 5, lgid := 0, ipv6 := false }] }

theorem witness_StorageEvents : storageUp (stored []) 3 = true ∧ reqOf (stored [rdma0 false 0 5]) 3 6 false = some (rdma0 false 0 5) ∧ stale (stored []) (rdma0 false 0 5) = false ∧
    stale (stored []) (rdma0 false 0 4) = true ∧ reqOf (stored []) 3 6 false = none ∧ reqOf (stored [rdma0 true 7 5]) 3 6 true = some (rdma0 true 7 5) ∧ reqOf (stored []) 3 6 true = none ∧
    (stored []).qps.any (fun q => q.port == 3 && q.qpn == 2) = true ∧ (stored [rdma0 true 7 5]).rdmas.find? (fun r => r.port == 3 && r.id == 6 && r.sent) = some (rdma0 true 7 5) ∧ 7 ≤ (rdma0 true 7 5).retries ∧
    (rdma0 true 6 5).retries < 7 ∧ ((stored []).port 3).paused = false := by decide +kernel

/-! ## Registers and rings -/

theorem witness_RegisterShadows : is64 1 0x200 = true ∧ (up {}).barOpen 1 none = true ∧
    (let s := (up {}).updFn 1 (fun f => { f with rdShadow := some (0x200, 4), wrShadow := some (0x200, 4) }); (s.fn 1).rdShadow = some (0x200, 4) ∧ (s.fn 1).wrShadow = some (0x200, 4)) ∧
    ((up {}).fn 1).rdShadow = none ∧ ((up {}).fn 1).wrShadow = none ∧ (0x1000 : BitVec 64).toNat % 4096 = 0 ∧ (State.reset.fn 1).cmdEnable = false ∧ (State.reset.fn 1).cplEnable = false ∧
    (let s := (up {}).updFn 1 (fun f => { f with flr := true }); (s.fn 1).flr = true ∧ (s.inst 1).raiseWaits = false) ∧
    (up {}).porterRuns = true ∧ (up {}).sys.porter.busy = false ∧ (up {}).fnExists 1 = true ∧ ((up {}).inst 1).removal = none := by decide +kernel

theorem witness_FetchStops : (up {}).barOpen 1 none = true ∧ (0 : BitVec 32).toNat % 2 = 0 ∧ (State.reset.fn 1).cmdEnable = false ∧
    (let s := (up {}).updFn 1 (fun f => { f with fetching := 2, cmdEnable := false, cmdSize := 16, cmdHead := 0xFFFF }); let f := s.fn 1
     f.cmdSize.toNat ≤ 16 ∧ (f.cmdHead.toNat + 0) % 2 ^ f.cmdSize.toNat = f.cmdHead.toNat ∧ f.mayWrite = true ∧ [entry 5 4 [], entry 5 10 []].length ≤ f.fetching ∧ f.fetching ≠ 0) ∧
    (!decide (fld (entry 5 10 []) 7 0 = 0 ∨ fld (entry 5 10 []) 7 0 > familyCodes (fld (entry 5 10 []) 15 8))) = false := by decide +kernel

theorem witness_RegisterAccess : State.reset.barOpen 1 none = false ∧ (up {}).barOpen 1 none = true ∧ (7 : BitVec 4) ≠ 15 ∧ (1 : BitVec 32).toNat % 2 = 1 ∧
    (let s := (up {}).updFn 1 (fun f => { f with cmdEnable := false, cplEnable := false }); s.barOpen 1 none = true ∧ (s.fn 1).cmdEnable = false ∧ (s.fn 1).cmdSize ≠ 0 ∧ (s.fn 1).cplEnable = false ∧ (s.fn 1).cplSize ≠ 0) ∧
    (15 : BitVec 32).toNat % 65536 < 2 ^ ((up {}).fn 1).cplSize.toNat ∧ (0x200 : BitVec 16).toNat % 8 = 0 ∧ is64 1 0x200 = true ∧ is64 1 0x100 = false ∧ (up {}).barOpen 0 none = true := by decide +kernel

theorem witness_Interrupts : (up {}).barOpen 1 none = true ∧ causeAt 1 0x1200 = some (1, 0) ∧ causeAt 0 0x4200 = some (devTree, 8) ∧ ((up {}).fn 1).msgDue = false ∧
    (let s := (up {}).updFn 1 (fun f => { f with msgDue := true, msixEnable := true, msixTable := 0, pba := true, lastMsg := some 0 }); let f := s.fn 1
     f.msgDue = true ∧ f.msixEnable = true ∧ f.masked = false ∧ f.mayWrite = true ∧ (∀ m, f.lastMsg = some m → m + f.holdoff.toNat * 1000 ≤ s.now.toNat) ∧ s.fnExists 1 = true ∧ f.pba = true) := by
  refine ⟨by decide +kernel, by decide +kernel, by decide +kernel, by decide +kernel, by decide +kernel, by decide +kernel, by decide +kernel, by decide +kernel, ?_, by decide +kernel, by decide +kernel⟩
  intro m hm
  have : some m = some 0 := hm.symm.trans (by decide +kernel)
  obtain rfl := Option.some.inj this
  decide +kernel

/-! ## The host -/

def read0 (gen : Nat) : DmaRead := { tag := 20, fn := 1, gen := gen, engine := 0, engGen := 0, use := .ingest 7, offset := 0, len := 4 }
def reads (gen : Nat) : State := { full 1 0 with dmaReads := [read0 gen] }

theorem witness_HostReads : (up {}).dmaReads.find? (fun r => r.tag == 20) = none ∧ (reads 4).dmaReads.find? (fun r => r.tag == 20) = some (read0 4) ∧ (read0 4).gen ≠ ((reads 4).inst 1).gen.toNat ∧
    (read0 5).gen = ((reads 5).inst 1).gen.toNat ∧ (read0 5).engGen = Tbl.get 0 (reads 5).dmaGen 0 ∧ (read0 5).use = .ingest 7 ∧ (leBytes 4 0).length = (read0 5).len ∧
    (up {}).fnExists 1 = true ∧ ((up {}).fn 1).bme = true ∧ ((up {}).fn 1).d3hot = false ∧ readingSteps (up {}) 1 = [] ∧ (up {}).sys.linkUp = true ∧ ((up {}).fn 1).flr = false ∧
    (let s := (up {}).updFn 1 (fun f => { f with d3hot := true }); (s.fn 1).d3hot = true ∧ (s.fn 1).bme = true ∧ (s.fn 1).flr = false) := by decide +kernel

theorem witness_FunctionResets : (up {}).fnExists 1 = true ∧ (up {}).sys.linkUp = true ∧ ((up {}).fn 1).flr = false ∧ ((up {}).fn 0).flr = false ∧ (up {}).sys.vfEnable = true ∧
    (let s := (up {}).updFn 1 (fun f => { f with flr := true }); (s.fn 1).flr = true ∧ (s.inst 1).raiseWaits = false) ∧
    (let s := (up {}).updSys (fun y => { y with vfEnable := false }); s.sys.vfEnable = false ∧ s.sys.linkUp = true) ∧
    (let s := (up {}).updSys (fun y => { y with linkUp := false }); s.sys.linkUp = false ∧ s.sys.perstN = true ∧ s.sys.pcieRefclkOk = true ∧ s.sys.pcieLoop = false ∧ s.sys.phase = .operational) := by decide +kernel

/-! ## Isolation and time -/

def sess0 : Session := { id := 1, slot := 0, heartbeat := 0, keyGen := 0, updating := true }
def talking (tdi : TdiState) : State := up { tdi := tdi, sessions := [sess0], lockSession := some 1 }

theorem witness_Attestation : (talking .locked).responds 1 = true ∧ viaOk ((talking .locked).inst 1) (.session 1 true) = true ∧ viaOk ((talking .locked).inst 1) (.session 2 false) = false ∧
    secretsAllowed ((talking .locked).inst 1) (.session 1 false) = true ∧ secretsAllowed ((talking .locked).inst 1) .clear = false ∧ 1 ≤ (8 : BitVec 8).toNat ∧ (8 : BitVec 8).toNat ≤ 8 ∧
    ((up {}).inst 1).sessions = [] ∧ (up {}).responds 1 = true ∧
    (let s := talking .unlocked; (s.inst 1).tdi = .unlocked ∧ s.insts.all (fun x => x.1 == 1 || x.2.tdi == .unlocked || x.2.stream != 63) = true ∧ viaOk (s.inst 1) (.session 1 true) = true) ∧
    ((talking .locked).inst 1).tdi = .locked ∧ ((talking .locked).inst 1).lockSession = some 1 ∧ ((talking .run).inst 1).tdi = .run := by decide +kernel

def removal0 (fence : Nat) : Removal := { tag := none, fenceAt := fence, waiting := [4, 40], dropped := 0, keepStall := false }
def removing (fence : Nat) : State := up { removal := some (removal0 fence) }
def neighbours : State := { (asDevice (up {})).updPort 2 (fun p => { p with st := .up, peerDev := 0 }) with topo := [{ dev := 0, cert := 0, links := [] }] }

theorem witness_RemovalAndTime : ((removing 0).inst 1).removal = some (removal0 0) ∧ ((removing 0).inst 1).raiseWaits = false ∧ drained (removing 0) 1 4 = true ∧ drained (removing 0) 1 40 = true ∧
    [4, 40].filter (· != 4) ≠ [] ∧ (removal0 0).fenceAt ≤ (removing 0).now.toNat ∧ (removing 9).now.toNat < (removal0 9).fenceAt ∧
    (let s := up { raiseWaits := true, gen := 4 }; (s.inst 1).raiseWaits = true ∧ s.stateOfGen 1 ((s.inst 1).gen + 1).toNat = false) ∧
    (let s := { up { raiseWaits := true, gen := 4 } with scrub := [{ set := 0, frame := 0, count := 1, inst := 1, gen := 5 }] }; s.stateOfGen 1 ((s.inst 1).gen + 1).toNat = true) ∧
    (neighbours.port 2).mode = .sfl ∧ (neighbours.port 2).st = .up ∧ neighbours.sys.devId ≠ 0x3FFF ∧ timeRoot neighbours ≠ neighbours.sys.devId.toNat ∧ timeParent neighbours = some 0 ∧
    neighbours.noAlmanac = true ∧ (full 1 0).noAlmanac = true ∧ (soon step0).noAlmanac = false ∧ (0 ≤ alignOf 0 5 5 0) ∧ alignOf 5 0 0 5 < 0 := by decide +kernel

/-! ## The Porter, the bus, the pins -/

theorem witness_PorterOperations : State.reset.porterRuns = false ∧ (up {}).porterRuns = true ∧ (up {}).sys.porter.busy = false ∧
    (let s := (up {}).updSys (fun y => { y with porter := { busy := true, op := 1, inst := 1 } }); s.sys.porter.busy = true ∧ s.sys.porter.op = 1 ∧ s.sys.porter.inst.toNat = (1 : FnId).toNat) := by decide +kernel

theorem witness_ManagementBus : (up {}).porterRuns = true ∧ (up {}).sys.loop = none ∧
    (let l : LoopTest := { target := .port 3, depth := 1 }; let s := (up {}).updSys (fun y => { y with loop := some l }); s.sys.loop = some l) ∧
    (let l : LoopTest := { target := .stack 3, depth := 1 }; let s := (up {}).updSys (fun y => { y with loop := some l, testState := true }); s.sys.loop = some l ∧ l.needsTest = true) ∧
    loopValid (.port 3) 0 0 1 = false ∧ loopValid (.port 3) 4 5 60000 = true ∧ loopNeeds (up {}) { target := .port 3, depth := 4 } = false ∧
    loopNeeds ((up {}).updPort 3 (fun p => { p with mode := .off })) { target := .port 3, depth := 4 } = true ∧
    (up {}).sys.perstN = true ∧ (up {}).sys.pcieRefclkOk = true ∧ (up {}).sys.pcieLoop = false := by decide +kernel

theorem witness_PowerAndResets : State.reset.sys.pwrok = false ∧ State.reset.sys.timerefOk = true ∧ (up {}).sys.pwrok = true ∧ (up {}).sys.perstN = true ∧ (up {}).sys.phase = .operational ∧
    (let s := State.reset.updSys (fun y => { y with perstN := true }); s.sys.perstN = true ∧ s.sys.phase = .cold) ∧
    (let s := (up {}).updSys (fun y => { y with perstN := false, phase := .reset }); s.sys.perstN = false ∧ s.sys.phase = .reset ∧ s.sys.loop = none) ∧
    (let s := (up {}).updSys (fun y => { y with phase := .reset }); s.sys.perstN = true ∧ s.sys.phase = .reset) ∧
    (let s := (up {}).updSys (fun y => { y with phase := .starting }); s.sys.phase = .starting ∧ s.sys.perstN = true) ∧
    (let s := (up {}).updSys (fun y => { y with baseRecheck := true }); s.sys.baseRecheck = true) ∧ (up {}).sys.baseRecheck = false := by decide +kernel

theorem witness_InputsAndClocks : (up {}).sys.forceSafeN = true ∧ (up {}).sys.pwrok = true ∧ (up {}).live = true ∧ (11 : BitVec 6).toNat < 12 := by decide +kernel

theorem witness_Escalation : (up {}).live = true ∧ State.reset.live = false ∧ (up {}).sys.stoppedHalf ≠ some .west ∧
    (let s := (up {}).updSys (fun y => { y with stoppedHalf := some .west }); s.sys.stoppedHalf = some .west) ∧ (full 1 0).stall 1 = some stall0 ∧ stall0.inReset = false ∧
    (let st := { stall0 with inReset := true }; (up { stall := some st }).stall 1 = some st) ∧
    (let s := (up {}).updFn 1 (fun f => { f with flr := true }); (s.fn 1).flr = true ∧ (s.inst 1).raiseWaits = false) := by decide +kernel

/-- The live update runs at stage `n`, with `m` the last message. -/
def updating (n : Nat) (m : TokenMsg) : State := (acting (act0 .fw .token true)).updSys (fun y => { y with fwStage := n, lastMsg := m })

theorem witness_ClerksAndToken :
    (let s := up {}; s.live = true ∧ s.clerkUp .west = true ∧ s.clerkUp .east = true ∧ s.sys.stoppedHalf = none ∧ s.sys.bridgeOk = true ∧ s.sys.token = some .west ∧ s.sys.token ≠ some .east ∧ fwAct s = none ∧
     s.sys.phase = .operational) ∧
    (let s := updating 0 .none; fwAct s = some (act0 .fw .token true) ∧ s.sys.fwStage = 0 ∧ s.sys.token = some .west) ∧
    (let s := updating 1 .none; fwAct s = some (act0 .fw .token true) ∧ s.sys.bridgeOk = true ∧ s.sys.fwStage = 1 ∧ s.sys.lastMsg = .none) ∧
    (updating 1 .offer).sys.lastMsg = .offer ∧
    (let s := (updating 1 .ready).updSys (fun y => { y with token := none, grantTo := some .east }); s.sys.bridgeOk = true ∧ s.sys.grantTo = some .east ∧ s.clerkUp .east = true) ∧
    (let s := (up {}).updSys (fun y => { y with bridgeOk := false }); s.sys.bridgeOk = false) ∧
    (let s := { up {} with insts := [] }; s.insts = [] ∧ s.ports = [] ∧ s.acts = [] ∧ s.sys.linkUp = true) := by decide +kernel

theorem witness_Barriers : (paged.obj 2).count + 1 ≠ (paged.obj 2).members ∧ (let o := { paged.obj 2 with count := 1 }; o.count + 1 = o.members) ∧
    (let s := paged.updWork 3 (fun w => { w with sigQ := [{ kind := 1, obj := 2, value := 0, seq := 2 }] }); s.doneBefore 3 2 = true) ∧ (paged.obj 2).kind = 1 ∧
    (let s := paged.updWork 3 (fun w => { w with lastBarrier := some (2, 2) }); (s.work 3).lastBarrier = some (2, 2)) ∧ (paged.work 3).lastBarrier = none := by decide +kernel

/-! ## Results from the spec's worked examples -/

/-- 02, "one activation row into FP8 E4M3": the scale of 14.9, the codes of 14.9, 14.5, 13.7 and 0.01 times 32, and which of them clip. -/
theorem test_fp8_row : rowScale (f32 0x416E6666) e4m3 = 0x7A ∧
    [0x416E6666, 0x41680000, 0x415B3333, 0x3C23D70A].map (fun x => let c := convert e4m3 ((f32 x).pow2 5); (c.code, c.clip)) = [(0x7E, true), (0x7E, true), (0x7E, false), (0x2A, false)] := by
  decide +kernel

/-- 02, R56: an E4M3 tensor whose history maximum is 0.0213 has scale code 0x72. -/
theorem test_tensor_scale : tensorScale [0x3CAE7D56] e4m3 = 0x72 := by decide +kernel

/-- 02, "one sum in two orders": 2^24, 1 and 1 in FP32. -/
theorem test_sum_orders : let add := fun (x y : BitVec 32) => toF32 ((f32 x).add (f32 y))
    add (add 0x4B800000 0x3F800000) 0x3F800000 = 0x4B800002 ∧ add (add 0x3F800000 0x3F800000) 0x4B800000 = 0x4B800001 := by decide +kernel

/-- 05, "the two points in bits": the leaves of RSUMSQ, the sum over 64 lanes × 2^-6, and its RSQRT, in faithful mode with STATFMT = 1 and in wide mode. -/
theorem test_two_points : [true, false].map (fun stat =>
      let m := toF32 ((f32 (reduceRow 0x27 stat (List.replicate 64 0x3F80C000))).pow2 (-6)); (m, BitVec.ofNat 32 (rsqrtConv fp32 (f32 m)).code)) =
    [(0x3F820200, 0x3F7E03F8), (0x3F818120, 0x3F7E823D)] := by decide +kernel

/-- 06, "one grain of a six-stack set". -/
theorem test_spread : spread 0x00123400 6 = (3, 0x30800) ∧ (spread (0x00123400 + 512) 6).1 = 4 := by decide +kernel

/-- 16, "one alignment". -/
theorem test_align : alignOf 10000000 10005450 10005650 10001100 = 5000 := by decide +kernel

/-- The check value of CRC-64/XZ, which R240 names: of the nine bytes "123456789". -/
theorem test_crc64 : crc64Go 0xFFFFFFFFFFFFFFFF [0x31, 0x32, 0x33, 0x34, 0x35, 0x36, 0x37, 0x38, 0x39] ^^^ 0xFFFFFFFFFFFFFFFF = 0x995DC9BBDF1939FA := by decide +kernel

/-- Table 5-8: RCP of +0 is +∞, SQRT of a negative number NaN, EXP of 0 is 1, LOG2 of 8 is 3, SIGM of +∞ is 1. -/
theorem test_special : (divConv fp32 (.fin false 1 0) (f32 0)).code = 0x7F800000 ∧ (sqrtConv fp32 (f32 0xBF800000)).code = 0x7FC00000 ∧ approxOp .exp 0 = 0x3F800000 ∧
    approxOp .log2 0x41000000 = 0x40400000 ∧ approxOp .sigm 0x7F800000 = 0x3F800000 := by decide +kernel

/-- On a core that runs, ADD puts 1 + 2 = 3 into lane 63 of its register, and the next step's state keeps SRAM. -/
theorem test_add_step :
    let s := busy.updEng 3 (fun e => { e with regs := [(2, List.replicate 64 0x3F800000), (4, List.replicate 64 0x40000000)] })
    (match exec (.add 3 1 2 4) s with | .next t => t.lane 3 1 63 == 0x40400000 && t.sramRead 3 0 4 == [0, 0, 0, 0] | _ => false) = true := by decide +kernel

theorem test_reset_memory : State.reset.memWf = true := by decide

/-- 15, "two faults in one tree": the tree of instance 5 after its two faults. -/
theorem test_two_faults :
    let s1 := raise 5 0 1 0x123 { up {} with now := 1000000 }
    let s2 := raise 5 0 1 0x123 { s1 with now := 1400000 }
    let s3 := raise 5 4 0 12 { s2 with now := 2000000 }
    [0x1004, 0x1008, 0x1200, 0x1220, 0x1224, 0x1228, 0x1A00, 0x1A10].map (regWord s3 5) = [1, 0x10, 2, 0x123, 0x170002, 0xF4240, 1, 0xC] ∧ regWord s3 5 0x100 = 0xC := by decide +kernel

end Sys2Proof.Tests
end

section
/-! O48: the accesses to BAR0 (12_host_interface R303 to R314), the messages (R324) and the cause registers (15_errors R398). -/

namespace Sys2Proof.Machine

/-! ## Reads and writes that reach BAR0, and those that do not (R305) -/

theorem barWrite_closed {i : Nat} {tee : Tee} {s : State} (act : State → State) (h : s.barOpen i tee = false) : barWrite i tee act s = s := by
  simp [barWrite, h]

theorem barWrite_open {i : Nat} {tee : Tee} {s : State} (act : State → State) (h : s.barOpen i tee = true) : barWrite i tee act s = act s := by
  simp [barWrite, h]

theorem barRead_closed {i : Nat} {tee : Tee} {s : State} (off be : Nat) (h : s.barOpen i tee = false) :
    barRead i off be tee s = s.emit (.readDone i off none) := by
  simp [barRead, unsupportedRead, h]

/-! ## What a 4-byte write does at each register -/

section writes
variable (i v : Nat) (s : State)

theorem write32_partial (off : Nat) {be : Nat} (h : be ≠ 15) : write32 i off be v s = regIgnored i off be true s := if_pos h

theorem write32_doorbell : write32 i 0x210 15 v s = writeDoorbell i 0x210 15 v s := by simp [write32, is64]
theorem write32_cmdEnable : write32 i 0x20C 15 v s = writeCmdEnable i 0x20C 15 v s := by simp [write32, is64]
theorem write32_cplEnable : write32 i 0x22C 15 v s = writeCplEnable i 0x22C 15 v s := by simp [write32, is64]
theorem write32_cplHead : write32 i 0x230 15 v s = writeCplHead i 0x230 15 v s := by simp [write32, is64]
theorem write32_summaryStatus : write32 i 0x100 15 v s = writeSummary i v s := by simp [write32, is64]
theorem write32_summaryEnable : write32 i 0x104 15 v s = writeEnable i v s := by simp [write32, is64]

/-- CAUSE is the first word of a group's region of 0x200 bytes (Table 15-4). -/
theorem causeAt_aligned {off tree g : Nat} (h : causeAt i off = some (tree, g)) : 0x1200 ≤ off ∧ off < 0x5200 ∧ off % 0x200 = 0 := by
  unfold causeAt at h
  split at h
  · next c => simp only [Bool.and_eq_true, decide_eq_true_eq] at c; omega
  · split at h
    · next c => simp only [Bool.and_eq_true, decide_eq_true_eq] at c; omega
    · cases h

/-- Above the ring bases only TIME of a record has 64 bits, at word 8 of its 16 bytes. -/
theorem is64_false {off : Nat} (h0 : 0x230 < off) (h : off % 16 ≠ 8) : is64 i off = false := by
  simp [is64, h]; omega

theorem write32_cause {off tree g : Nat} (h : causeAt i off = some (tree, g)) : write32 i off 15 v s = clearCauses tree g (v % 2 ^ 24) s := by
  obtain ⟨lo, hi, al⟩ := causeAt_aligned i h
  have h1 : is64 i off = false := is64_false i (by omega) (by omega)
  have h2 : is64 i (off - 4) = false := is64_false i (by omega) (by omega)
  have named : off ≠ 0x100 ∧ off ≠ 0x104 ∧ off ≠ 0x108 ∧ off ≠ 0x10C ∧ off ≠ 0x208 ∧ off ≠ 0x20C ∧ off ≠ 0x210 ∧ off ≠ 0x228 ∧ off ≠ 0x22C ∧ off ≠ 0x230 ∧
      off ≠ 0x6000 ∧ off ≠ 0x6004 := by omega
  have msix : ¬(0x3000 ≤ off ∧ off < 0x3010) := by
    intro c
    have : off = 0x3000 := by omega
    subst this
    simp [causeAt] at h
  simp [write32, h1, h2, named, msix, h]

end writes

/-! ## The instructions that write a register -/

/-- Each write of one register, with that register's offset. -/
def registerWrites (fn : FnId) (off : BitVec 16) (v : BitVec 32) (be : BitVec 4) (tee : Tee) : List (Instr × Nat) :=
  [(.cmdDoorbell fn v be tee, 0x210), (.cmdEnableWrite fn v be tee, 0x20C), (.cplEnableWrite fn v be tee, 0x22C), (.cplHeadWrite fn v be tee, 0x230),
    (.summaryStatusWrite fn v be tee, 0x100), (.summaryEnableWrite fn v be tee, 0x104), (.causeWrite fn off v be tee, off.toNat), (.regLowHalfWrite fn off v be tee, off.toNat),
    (.regHighHalfWrite fn off v be tee, off.toNat)]

section instructions
variable {fn : FnId} {off : BitVec 16} {v : BitVec 32} {be : BitVec 4} {tee : Tee} {s : State} {x : Instr × Nat}

theorem exec_registerWrites (hx : x ∈ registerWrites fn off v be tee) : exec x.1 s = .next (barWrite fn.toNat tee (write32 fn.toNat x.2 be.toNat v.toNat) s) := by
  simp only [registerWrites, List.mem_cons, List.not_mem_nil, or_false] at hx
  rcases hx with rfl | rfl | rfl | rfl | rfl | rfl | rfl | rfl | rfl <;> rfl

theorem exec_registerWrites_closed (hx : x ∈ registerWrites fn off v be tee) (h : s.barOpen fn.toNat tee = false) : exec x.1 s = .next s := by
  rw [exec_registerWrites hx, barWrite_closed _ h]

theorem exec_registerWrites_open (hx : x ∈ registerWrites fn off v be tee) (h : s.barOpen fn.toNat tee = true) :
    exec x.1 s = .next (write32 fn.toNat x.2 be.toNat v.toNat s) := by
  rw [exec_registerWrites hx, barWrite_open _ h]

theorem exec_registerWrites_partial (hx : x ∈ registerWrites fn off v be tee) (h : s.barOpen fn.toNat tee = true) (hb : be ≠ 15) :
    exec x.1 s = .next (regIgnored fn.toNat x.2 be.toNat true s) := by
  have : be.toNat ≠ 15 := fun e => hb (BitVec.eq_of_toNat_eq e)
  rw [exec_registerWrites_open hx h, write32_partial _ _ _ _ this]

/-- Taken whole, the register `o` is written. -/
theorem exec_wholeWrite (c : Instr) (o : Nat) (off : BitVec 16) (v : BitVec 32) (hx : (c, o) ∈ registerWrites fn off v 15 tee) (h : s.barOpen fn.toNat tee = true) :
    exec c s = .next (write32 fn.toNat o 15 v.toNat s) :=
  exec_registerWrites_open hx h

end instructions

/-! ## Taken whole: the rings' registers (R309, R310, R314) -/

section rings
variable (i v : Nat) (s : State)

theorem writeDoorbell_eq : writeDoorbell i 0x210 15 v s = if (s.fn i).cmdEnable = false ∨ v % 65536 ≥ 2 ^ (s.fn i).cmdSize.toNat then regIgnored i 0x210 15 true s
    else pumpRing i (s.updFn i (fun f => { f with doorbell := BitVec.ofNat 16 (v % 65536) })) := by
  simp [writeDoorbell]

theorem writeCmdEnable_set (off be : Nat) (hv : v % 2 = 1) (he : (s.fn i).cmdEnable = false) (hs : (s.fn i).cmdSize ≠ 0) :
    writeCmdEnable i off be v s = s.updFn i (fun f => { f with cmdEnable := true, cmdHead := 0, doorbell := 0 }) := by
  simp only [writeCmdEnable, hv, he, if_neg hs, one_ne_zero, Bool.false_eq_true, if_false]

theorem writeCplEnable_set (off be : Nat) (hv : v % 2 = 1) (he : (s.fn i).cplEnable = false) (hs : (s.fn i).cplSize ≠ 0) :
    writeCplEnable i off be v s = releaseHeld i (s.updFn i (fun f => { f with cplEnable := true, cplHead := 0, cplTail := 0, cplPhase := true })) := by
  simp only [writeCplEnable, hv, he, if_neg hs, one_ne_zero, Bool.false_eq_true, if_false]

theorem writeCplHead_within (off be : Nat) (hs : (s.fn i).cplSize ≠ 0) (hd : v % 65536 < 2 ^ (s.fn i).cplSize.toNat) :
    writeCplHead i off be v s = releaseHeld i (s.updFn i (fun f => { f with cplHead := BitVec.ofNat 16 (v % 65536) })) := by
  have : ¬(decide ((s.fn i).cplSize = 0) || decide (v % 65536 ≥ 2 ^ (s.fn i).cplSize.toNat)) = true := by simpa using ⟨hs, hd⟩
  simp only [writeCplHead, if_neg this]

end rings

/-! ## Writes of eight bytes (R303) -/

theorem wideWrite_64 (i v : Nat) (s : State) {off : Nat} (ha : off % 8 = 0) (h : is64 i off = true) : wideWrite i off 255 v s = write64 i off 15 v s := by
  simp [wideWrite, ha, h]

/-- Of any other register, the low word is written first. -/
theorem wideWrite_words (i : Nat) (w : BitVec 64) (s : State) {off : Nat} (h : is64 i off = false) :
    wideWrite i off 255 w.toNat s = write32 i (off + 4) 15 (w.toNat / 2 ^ 32) (write32 i off 15 (w.toNat % 2 ^ 32) s) := by
  have high : hiWord w.toNat = w.toNat / 2 ^ 32 := Nat.mod_eq_of_lt (by omega)
  simp [wideWrite, h, high, loWord]

/-! ## Reads of RC registers (R14) -/

section reads
variable (s : State)

/-- The shadow answers for high halves alone (R304). -/
theorem shadowRead_live (i : Nat) {off : Nat} (h : is64 i off = false) (h' : is64 i (off - 4) = false) : shadowRead i off s = (regWord s i off, s) := by
  unfold shadowRead
  simp only [h, Bool.false_eq_true, if_false]
  split
  · next r v _ =>
    have : ¬(decide (r + 4 = off) && is64 i r) = true := by
      rintro c
      obtain ⟨rfl, hr⟩ : r + 4 = off ∧ is64 i r = true := by simpa using c
      simp [hr] at h'
    rw [if_neg this]
  · rfl

theorem maskedWord_bytes (v : Nat) : maskedWord v 15 = v % 256 + (v >>> 8 % 256) <<< 8 + (v >>> 16 % 256) <<< 16 + (v >>> 24 % 256) <<< 24 := by
  have h1 : Nat.testBit 15 1 = true := by decide
  have h2 : Nat.testBit 15 2 = true := by decide
  have h3 : Nat.testBit 15 3 = true := by decide
  simp [maskedWord, List.range_succ, h1, h2, h3]

theorem maskedWord_whole {v : Nat} (h : v < 2 ^ 32) : maskedWord v 15 = v := by
  rw [maskedWord_bytes]
  simp only [Nat.shiftRight_eq_div_pow, Nat.shiftLeft_eq]
  omega

theorem keepBytes_whole (v : Nat) : keepBytes v 15 0 = 0 := by
  simp [keepBytes, List.range_succ, Nat.testBit]

/-- A whole 4-byte read of a PF register of 32 bits. -/
theorem barRead_whole {tee : Tee} {off : Nat} (ho : s.barOpen 0 tee = true) (h : is64 0 off = false) (h' : is64 0 (off - 4) = false) (hv : regWord s 0 off < 2 ^ 32) :
    barRead 0 off 15 tee s = (clearRead off 15 s).emit (.readDone 0 off (some (BitVec.ofNat 64 (regWord s 0 off)))) := by
  simp [barRead, wideRead, read32, shadowRead_live s 0 h h', maskedWord_whole hv, ho]

theorem regWord_topoChanges : regWord s 0 0x7008 = s.sys.topoChanges.toNat := by simp [regWord, fabricWord]

theorem clearRead_topoChanges : clearRead 0x7008 15 s = s.updSys (fun y => { y with topoChanges := 0 }) := by
  simp [clearRead, keepBytes_whole]

theorem regWord_portCounts {p : Nat} (hp : p < 96) : regWord s 0 (0xA008 + 64 * p) = (s.port p).replays.toNat + (s.port p).downs.toNat * 65536 := by
  have hq : (0xA008 + 64 * p - 0xA000) / 64 = p := by omega
  have below : ∀ n ≤ 0x8400, ¬0xA008 + 64 * p < n := by omega
  have above : 0xA000 ≤ 0xA008 + 64 * p ∧ 0xA008 + 64 * p < 0xB800 := by omega
  have pba : 0xA008 + 64 * p ≠ 0x3800 := by omega
  simp [regWord, below, above, pba, hq, portWord, Nat.shiftLeft_eq]

theorem clearRead_portCounts {p : Nat} (hp : p < 96) : clearRead (0xA008 + 64 * p) 15 s = s.updPort p (fun x => { x with replays := 0, downs := 0 }) := by
  have hq : (0xA008 + 64 * p - 0xA000) / 64 = p := by omega
  have hr : (0xA008 + 64 * p) % 64 = 8 := by omega
  have below : ¬0xA008 + 64 * p < 0x8400 := by omega
  have above : 0xA000 ≤ 0xA008 + 64 * p ∧ 0xA008 + 64 * p < 0xB800 := by omega
  have topo : 0xA008 + 64 * p ≠ 0x7008 := by omega
  simp [clearRead, keepBytes_whole, below, above, topo, hq, hr]

theorem barRead_topoChanges {tee : Tee} (ho : s.barOpen 0 tee = true) : barRead 0 0x7008 15 tee s =
    (s.updSys (fun y => { y with topoChanges := 0 })).emit (.readDone 0 0x7008 (some (s.sys.topoChanges.setWidth 64))) := by
  have word := regWord_topoChanges s
  rw [barRead_whole s ho rfl rfl (by omega), clearRead_topoChanges, word, BitVec.ofNat_toNat]

theorem barRead_portCounts {tee : Tee} {p : Nat} (hp : p < 96) (ho : s.barOpen 0 tee = true) : barRead 0 (0xA008 + 64 * p) 15 tee s =
    (s.updPort p (fun x => { x with replays := 0, downs := 0 })).emit
      (.readDone 0 (0xA008 + 64 * p) (some (BitVec.ofNat 64 ((s.port p).replays.toNat + (s.port p).downs.toNat * 65536)))) := by
  have word := regWord_portCounts s hp
  have h1 : is64 0 (0xA008 + 64 * p) = false := by simp [is64]; omega
  have h2 : is64 0 (0xA008 + 64 * p - 4) = false := is64_false 0 (by omega) (by omega)
  rw [barRead_whole s ho h1 h2 (by omega), clearRead_portCounts s hp, word]

theorem exec_rcRegisterRead_topoChanges {fn : FnId} {tee : Tee} (hi : fn.toNat = 0) (ho : s.barOpen fn.toNat tee = true) :
    exec (.rcRegisterRead fn 0x7008 15 tee) s =
      .next ((s.updSys (fun y => { y with topoChanges := 0 })).emit (.readDone 0 0x7008 (some (s.sys.topoChanges.setWidth 64)))) := by
  change Host.Outcome.next (barRead fn.toNat 0x7008 15 tee s) = _
  rw [hi] at ho ⊢
  rw [barRead_topoChanges s ho]

theorem exec_rcRegisterRead_portCounts {fn : FnId} {tee : Tee} (p : Fin 96) (hi : fn.toNat = 0) (ho : s.barOpen fn.toNat tee = true) :
    exec (.rcRegisterRead fn (0xA008 + BitVec.ofNat 16 (64 * p.val)) 15 tee) s =
      .next ((s.updPort p.val (fun x => { x with replays := 0, downs := 0 })).emit
        (.readDone 0 (0xA008 + 64 * p.val) (some (BitVec.ofNat 64 ((s.port p.val).replays.toNat + (s.port p.val).downs.toNat * 65536))))) := by
  have hoff : (0xA008 + BitVec.ofNat 16 (64 * p.val) : BitVec 16).toNat = 0xA008 + 64 * p.val := by simp; omega
  change Host.Outcome.next (barRead fn.toNat (0xA008 + BitVec.ofNat 16 (64 * p.val) : BitVec 16).toNat 15 tee s) = _
  rw [hi] at ho ⊢
  rw [hoff, barRead_portCounts s p.isLt ho]

end reads

/-! ## Messages (R324) -/

section messages
variable (i : Nat) (s : State)

/-- The summary registers of a function stay as its interrupt state changes. -/
theorem Noted.summaryBits {s t : State} (h : Noted s t) (i : Nat) : (t.fn i).sumCpl = (s.fn i).sumCpl ∧ (t.fn i).sumExport = (s.fn i).sumExport ∧
    (t.fn i).sumMaint = (s.fn i).sumMaint ∧ (t.fn i).sumEnable = (s.fn i).sumEnable := by
  obtain ⟨_, _, _, e⟩ := h.2 i
  simp [e]

@[simp] theorem pinsFollow_causes (old : State) : (pinsFollow old s).causes = s.causes := by
  obtain ⟨o, a, e⟩ := pinsFollow_eq old s
  rw [e]
@[simp] theorem pinsFollow_fn (old : State) (k : Nat) : (pinsFollow old s).fn k = s.fn k := by
  obtain ⟨o, a, e⟩ := pinsFollow_eq old s
  rw [e]; rfl
@[simp] theorem pinsFollow_now (old : State) : (pinsFollow old s).now = s.now := by
  obtain ⟨o, a, e⟩ := pinsFollow_eq old s
  rw [e]

@[simp] theorem messageOut_causes : (messageOut i s).causes = s.causes := rfl
@[simp] theorem messageOut_out : (messageOut i s).out = .msix i ((s.fn i).msixTable.setWidth 64) (((s.fn i).msixTable >>> 64).setWidth 32) :: s.out := rfl
theorem messageOut_fn : (messageOut i s).fn i = { s.fn i with lastMsg := some s.now.toNat, pba := false, msgDue := false } := State.updFn_fn s i (fun f => { f with lastMsg := some s.now.toNat, pba := false, msgDue := false })

@[simp] theorem sendMessage_causes : (sendMessage i s).causes = s.causes := by
  unfold sendMessage
  extract_lets f
  split
  · rfl
  · split
    · rfl
    · split
      · split <;> rfl
      · rfl

/-- The least gap since a function's last message is over. -/
def Idle (f : Fn) (now : Nat) : Prop := ∀ m, f.lastMsg = some m → m + f.holdoffNs ≤ now

/-- Nothing holds the message back: it goes out. -/
theorem sendMessage_ready (he : (s.fn i).msixEnable = true) (hm : (s.fn i).masked = false) (hw : (s.fn i).mayWrite = true) (hi : Idle (s.fn i) s.now.toNat) :
    sendMessage i s = messageOut i s := by
  unfold sendMessage
  simp only [he, hm, hw, Bool.not_true, Bool.or_self, Bool.false_eq_true, if_false]
  split
  · next m hm => exact if_neg (Nat.not_lt.mpr (hi m hm))
  · rfl

end messages

/-! ## SUMMARY_STATUS and SUMMARY_ENABLE (R308) -/

section summary
variable (i : Nat) (v : BitVec 32) (s : State)

/-- Pins, and a message where one is due, change no cause and no summary bit. -/
theorem pinsFollow_message (c : Bool) (old u : State) : let t := pinsFollow old (if c then sendMessage i u else u)
    t.causes = u.causes ∧ Noted u t := by
  cases c
  · exact ⟨pinsFollow_causes u old, pinsFollow_noted old u⟩
  · exact ⟨by simp, (sendMessage_noted i u).trans (pinsFollow_noted old _)⟩

theorem writeSummary_clears : let t := writeSummary i v.toNat s
    t.causes = s.causes ∧ (t.fn i).sumCpl = ((s.fn i).sumCpl && !v.getLsbD 0) ∧ (t.fn i).sumExport = ((s.fn i).sumExport && !v.getLsbD 7) ∧
      (t.fn i).sumMaint = ((s.fn i).sumMaint && !v.getLsbD 8) := by
  unfold writeSummary
  extract_lets u t
  obtain ⟨hc, hn⟩ := pinsFollow_message i (u.enabledSummary i != 0) s u
  obtain ⟨h1, h2, h3, _⟩ := hn.summaryBits i
  exact ⟨hc, by rw [h1]; simp [u, nbit, BitVec.getLsbD], by rw [h2]; simp [u, nbit, BitVec.getLsbD], by rw [h3]; simp [u, nbit, BitVec.getLsbD]⟩

theorem writeEnable_sets : let t := writeEnable i v.toNat s
    t.causes = s.causes ∧ (t.fn i).sumEnable = v.setWidth 9 ∧ (t.fn i).sumCpl = (s.fn i).sumCpl ∧ (t.fn i).sumExport = (s.fn i).sumExport ∧
      (t.fn i).sumMaint = (s.fn i).sumMaint := by
  unfold writeEnable
  extract_lets old u fresh t
  obtain ⟨hc, hn⟩ := pinsFollow_message i (fresh != 0) s u
  obtain ⟨h1, h2, h3, h4⟩ := hn.summaryBits i
  exact ⟨hc, by rw [h4]; simp [u], by rw [h1]; simp [u], by rw [h2]; simp [u], by rw [h3]; simp [u]⟩

end summary

/-! ## CAUSE (R398) -/

section causes

/-- Entries reset to the default where a test of the key says so. -/
theorem Tbl.get_map_reset {α : Type} (d : α) (c : Nat → Bool) (t : Tbl α) (i : Nat) :
    Tbl.get d (t.map (fun p => if c p.1 then (p.1, d) else p)) i = if c i then d else Tbl.get d t i := by
  induction t with
  | nil => simp
  | cons x t ih =>
    obtain ⟨k, w⟩ := x
    by_cases h1 : i < k
    · cases hk : c k <;> simp [Tbl.get, hk, h1]
    · by_cases h2 : i = k
      · subst h2; cases hk : c i <;> simp [Tbl.get, hk]
      · cases hk : c k <;> simp [Tbl.get, hk, h1, h2, ih]

theorem following_causes (fn : Nat) (change : State → State) (s : State) : (following fn change s).causes = (change s).causes := by
  unfold following
  extract_lets s1 s2
  rw [pinsFollow_causes]
  simp only [s2]
  split
  · exact sendMessage_causes fn s1
  · rfl

/-- The key of a cause gives back its group's first key and its bit. -/
theorem causeKey_div (tree g : Nat) {b : Nat} (h : b < 32) : causeKey tree g b / 32 = tree * 16 + g ∧ causeKey tree g b % 32 = b := by
  unfold causeKey; omega

theorem clearCauses_get (tree g mask : Nat) (s : State) (tree' g' : Nat) {b : Nat} (hb : b < 32) :
    Tbl.get {} (clearCauses tree g mask s).causes (causeKey tree' g' b) =
      if causeKey tree' g' 0 = causeKey tree g 0 ∧ mask.testBit b = true ∧ isLive g b = false then {} else Tbl.get {} s.causes (causeKey tree' g' b) := by
  obtain ⟨hdiv, hmod⟩ := causeKey_div tree' g' hb
  have group : causeKey tree' g' 0 = causeKey tree g 0 ↔ tree' * 16 + g' = tree * 16 + g := by unfold causeKey; omega
  rw [clearCauses, following_causes]
  refine (Tbl.get_map_reset {} (fun k => decide (k / 32 = tree * 16 + g) && mask.testBit (k % 32) && !isLive g (k % 32)) s.causes _).trans ?_
  simp [hdiv, hmod, group, and_assoc]

end causes

/-! ## The instructions that send a message (R324) -/

section sends
variable {fn : FnId} {s : State}

theorem exec_intrHoldoffExpiry_idle (h : (s.fn fn.toNat).msgDue = false) : exec (.intrHoldoffExpiry fn) s = .next s := by
  change Host.Outcome.next (if (s.fn fn.toNat).msgDue then sendMessage fn.toNat s else s) = _
  simp [h]

theorem exec_intrHoldoffExpiry_due (h : (s.fn fn.toNat).msgDue = true) (he : (s.fn fn.toNat).msixEnable = true) (hm : (s.fn fn.toNat).masked = false)
    (hw : (s.fn fn.toNat).mayWrite = true) (hi : Idle (s.fn fn.toNat) s.now.toNat) : exec (.intrHoldoffExpiry fn) s = .next (messageOut fn.toNat s) := by
  change Host.Outcome.next (if (s.fn fn.toNat).msgDue then sendMessage fn.toNat s else s) = _
  rw [if_pos h, sendMessage_ready _ s he hm hw hi]

/-- MSI-X enabled, the function's mask and the vector's own mask, bit 96 of the table, cleared. -/
def Fn.unmask (f : Fn) : Fn := { f with msixEnable := true, msixFnMask := false, msixTable := f.msixTable &&& ~~~(1#128 <<< 96) }

theorem Fn.unmask_masked (f : Fn) : f.unmask.masked = false := by
  simp [Fn.masked, Fn.unmask]

theorem exec_msixUnmask (hx : s.fnExists fn.toNat = true) (hp : (s.fn fn.toNat).pba = true) :
    exec (.msixUnmask fn) s = .next (sendMessage fn.toNat (pinsFollow s (s.updFn fn.toNat Fn.unmask))) := by
  let u := pinsFollow s (s.updFn fn.toNat Fn.unmask)
  have hpba : (u.fn fn.toNat).pba = true := by simpa [u, Fn.unmask] using hp
  change Host.Outcome.next (if !s.fnExists fn.toNat then s else if (u.fn fn.toNat).pba then sendMessage fn.toNat u else u) = _
  simp only [hx, hpba, Bool.not_true, Bool.false_eq_true, if_false, if_true, u]

theorem exec_msixUnmask_sends (hx : s.fnExists fn.toNat = true) (hp : (s.fn fn.toNat).pba = true) (hw : (s.fn fn.toNat).mayWrite = true)
    (hi : Idle (s.fn fn.toNat) s.now.toNat) : exec (.msixUnmask fn) s = .next (messageOut fn.toNat (pinsFollow s (s.updFn fn.toNat Fn.unmask))) := by
  have unmasked : (pinsFollow s (s.updFn fn.toNat Fn.unmask)).fn fn.toNat = (s.fn fn.toNat).unmask := by simp
  rw [exec_msixUnmask hx hp, sendMessage_ready]
  · rw [unmasked]; rfl
  · rw [unmasked]; exact Fn.unmask_masked _
  · rw [unmasked]; exact hw
  · rw [unmasked, pinsFollow_now]; exact hi

end sends

/-! ## The statement -/

/-- The bits that a write of CAUSE clears are those of its 24 that are 1. -/
theorem exec_causeWrite_clears {fn : FnId} {off : BitVec 16} {v : BitVec 32} {tee : Tee} {s : State} {tree g : Nat} (ho : s.barOpen fn.toNat tee = true)
    (ha : causeAt fn.toNat off.toNat = some (tree, g)) : ∃ t, exec (.causeWrite fn off v 15 tee) s = .next t ∧
      ∀ tree' g' b, b < 32 → Tbl.get {} t.causes (causeKey tree' g' b) =
        if causeKey tree' g' 0 = causeKey tree g 0 ∧ b < 24 ∧ v.getLsbD b = true ∧ isLive g b = false then {} else Tbl.get {} s.causes (causeKey tree' g' b) := by
  refine ⟨clearCauses tree g (v.toNat % 2 ^ 24) s, ?_, fun tree' g' b hb => ?_⟩
  · rw [exec_wholeWrite _ off.toNat off v (by simp [registerWrites]) ho, write32_cause _ _ s ha]
  · have bit : (v.toNat % 2 ^ 24).testBit b = true ↔ b < 24 ∧ v.getLsbD b = true := by
      rw [Nat.testBit_mod_two_pow, Bool.and_eq_true, decide_eq_true_eq, BitVec.getLsbD]
    rw [clearCauses_get tree g _ s tree' g' hb]
    simp only [bit, and_assoc]

/-- Settles O48: what each register's write and read does, given that BAR0 takes it, then what leaves causes alone, what clears them and what sends a message. -/
theorem accessAndInterrupts : Obligations.AccessAndInterrupts := by
  unfold Obligations.AccessAndInterrupts
  constructor
  · intro fn off v be w p tee s i f size d port
    refine ⟨fun x hx => ⟨exec_registerWrites_closed hx, exec_registerWrites_partial hx⟩, fun hc => ⟨?_, ?_⟩, fun ho => ⟨?_, ?_, ?_, ?_, ?_, ?_, ?_⟩⟩
    · exact congrArg _ (barRead_closed off.toNat 15 hc)
    · exact congrArg _ (barWrite_closed (wideWrite i off.toNat 255 w.toNat) hc)
    · rw [exec_wholeWrite _ 0x210 off v (by simp [registerWrites]) ho, write32_doorbell, writeDoorbell_eq]
    · intro hv he hs
      rw [exec_wholeWrite _ 0x20C off v (by simp [registerWrites]) ho, write32_cmdEnable, writeCmdEnable_set i _ s _ _ hv he hs]
    · intro hv he hs
      rw [exec_wholeWrite _ 0x22C off v (by simp [registerWrites]) ho, write32_cplEnable, writeCplEnable_set i _ s _ _ hv he hs]
    · intro hs hd
      rw [exec_wholeWrite _ 0x230 off v (by simp [registerWrites]) ho, write32_cplHead, writeCplHead_within i _ s _ _ hs hd]
    · intro ha h
      exact congrArg _ ((barWrite_open (wideWrite i off.toNat 255 w.toNat) ho).trans (wideWrite_64 i w.toNat s ha h))
    · intro h
      exact congrArg _ ((barWrite_open (wideWrite i off.toNat 255 w.toNat) ho).trans (wideWrite_words i w s h))
    · exact fun hi => ⟨exec_rcRegisterRead_topoChanges s hi ho, exec_rcRegisterRead_portCounts s p hi ho⟩
  · intro fn off v tee tree g s i f msg idle
    refine ⟨fun ho => ⟨?_, ?_, exec_causeWrite_clears ho⟩, exec_intrHoldoffExpiry_idle, ?_, ?_⟩
    · refine ⟨writeSummary i v.toNat s, ?_, writeSummary_clears i v s⟩
      rw [exec_wholeWrite _ 0x100 off v (by simp [registerWrites]) ho, write32_summaryStatus]
    · refine ⟨writeEnable i v.toNat s, ?_, writeEnable_sets i v s⟩
      rw [exec_wholeWrite _ 0x104 off v (by simp [registerWrites]) ho, write32_summaryEnable]
    · intro hd he hm hw hi
      exact ⟨messageOut i s, exec_intrHoldoffExpiry_due hd he hm hw hi, List.mem_cons_self, by simp [messageOut_fn], by simp [messageOut_fn]⟩
    · intro hx hp hw hi
      refine ⟨_, exec_msixUnmask_sends hx hp hw hi, ?_, ?_, ?_, _, _, List.mem_cons_self⟩
      · rw [messageOut_fn]
      · rw [messageOut_fn, pinsFollow_fn, State.updFn_fn]; exact Fn.unmask_masked _
      · rw [messageOut_fn, pinsFollow_fn, State.updFn_fn]; rfl

end Sys2Proof.Machine
end

section
/-! O24: an exception of a core (03_core_array R30, R92): what it leaves of the core, of its step and of the causes. -/

namespace Sys2Proof.Machine

/-! ## Frames that go out -/

/-- Only ports, outputs and the source side of flows may differ. -/
def Sent (s t : State) : Prop := ∃ p o f, t = { s with ports := p, out := o, flowSrc := f }

section sent
variable {s t u : State}

theorem Sent.refl (s : State) : Sent s s := ⟨s.ports, s.out, s.flowSrc, rfl⟩

theorem Sent.trans (h : Sent s t) (k : Sent t u) : Sent s u := by
  obtain ⟨_, _, _, rfl⟩ := h
  obtain ⟨p, o, f, rfl⟩ := k
  exact ⟨p, o, f, rfl⟩

theorem Sent.insts (h : Sent s t) : t.insts = s.insts := by obtain ⟨_, _, _, rfl⟩ := h; rfl
theorem Sent.cores (h : Sent s t) : t.cores = s.cores := by obtain ⟨_, _, _, rfl⟩ := h; rfl
theorem Sent.causes (h : Sent s t) : t.causes = s.causes := by obtain ⟨_, _, _, rfl⟩ := h; rfl

theorem State.updPort_sent (s : State) (i : Nat) (f : Port → Port) : Sent s (s.updPort i f) := ⟨_, s.out, s.flowSrc, rfl⟩
theorem State.updSrc_sent (s : State) (key : Nat) (f : FlowSrc → FlowSrc) : Sent s (s.updSrc key f) := ⟨s.ports, s.out, _, rfl⟩
theorem freeBuffer_sent (port pool : Nat) (s : State) : Sent s (freeBuffer port pool s) := s.updPort_sent port _
theorem countTags_sent (port : Nat) (s : State) : Sent s (countTags port s) := s.updPort_sent port _

theorem transmit_sent (port : Nat) (x : TxFrame) (s : State) : Sent s (transmit port x s) := by
  unfold transmit
  extract_lets p parsed h pool s1 s2
  have out : Sent s s2 := ⟨_, _, s.flowSrc, rfl⟩
  split
  · exact out.trans (freeBuffer_sent ..)
  · exact out

theorem drainPortGo_sent (port n : Nat) : ∀ s, Sent s (drainPortGo port n s) := by
  induction n with
  | zero => exact .refl
  | succ n ih =>
    intro s
    unfold drainPortGo
    split
    · exact ((s.updPort_sent port _).trans (transmit_sent ..)).trans (ih _)
    · exact .refl s

theorem sendFrame_sent (port : Nat) (h : Hdr) (payload : Bytes) (holds : Option (Nat × Nat)) (s : State) : Sent s (sendFrame port h payload holds s) :=
  (s.updPort_sent port _).trans (drainPortGo_sent ..)

theorem drainFlowGo_sent (key n : Nat) : ∀ s, Sent s (drainFlowGo key n s) := by
  induction n with
  | zero => exact .refl
  | succ n ih =>
    intro s
    unfold drainFlowGo
    extract_lets f
    split
    · exact .refl s
    · split
      · exact .refl s
      · exact (((s.updSrc_sent key _).trans (countTags_sent ..)).trans (sendFrame_sent ..)).trans (ih _)

theorem pushFlow_sent (key : Nat) (frames : List (Hdr × Bytes)) (s : State) : Sent s (pushFlow key frames s) :=
  (s.updSrc_sent key _).trans (drainFlowGo_sent ..)

theorem forEach_sent {α : Type} {f : α → State → State} (h : ∀ x s, Sent s (f x s)) (l : List α) : ∀ s, Sent s (forEach f l s) := by
  induction l with
  | nil => exact .refl
  | cons x l ih => exact fun s => (h x s).trans (ih _)

theorem setGap_sent (inst : Nat) (s : State) : Sent s (setGap inst s) := by
  refine forEach_sent (fun x s => ?_) _ _
  split
  · exact pushFlow_sent ..
  · exact .refl s

end sent

/-! ## Causes stay recorded (R398) -/

/-- Every cause bit that is set stays set. -/
def KeepsCauses (s t : State) : Prop := ∀ k, (Tbl.get {} s.causes k).bit = true → (Tbl.get {} t.causes k).bit = true

section causes
variable {s t u : State}

theorem KeepsCauses.of_eq (h : t.causes = s.causes) : KeepsCauses s t := fun _ hk => h ▸ hk
theorem KeepsCauses.trans (h : KeepsCauses s t) (k : KeepsCauses t u) : KeepsCauses s u := fun i hi => k i (h i hi)

theorem occurrence_bit (detail inst : Nat) (time : BitVec 64) (c : Cause) : (occurrence detail inst time c).bit = true := by
  unfold occurrence; split <;> rfl

/-- An occurrence sets its cause's bit. -/
theorem raiseIn_bit (tree g b detail inst : Nat) (s : State) : (Tbl.get {} (raiseIn tree g b detail inst s).causes (causeKey tree g b)).bit = true := by
  rw [raiseIn, following_causes, Tbl.get_upd_self]
  exact occurrence_bit ..

theorem raiseIn_keepsCauses (tree g b detail inst : Nat) (s : State) : KeepsCauses s (raiseIn tree g b detail inst s) := by
  intro k hk
  by_cases h : k = causeKey tree g b
  · rw [h]; exact raiseIn_bit ..
  · rw [raiseIn, following_causes, Tbl.get_upd_ne _ _ _ _ _ h]; exact hk

theorem setCompletionBit_causes (fn : Nat) (s : State) : (setCompletionBit fn s).causes = s.causes := following_causes ..

theorem writeCpl_keepsCauses (fn : Nat) (c : Cpl) (s : State) : KeepsCauses s (writeCpl fn c s) := by
  unfold writeCpl
  extract_lets f late flags addr last s1 s2 s3
  have written : KeepsCauses s s3 := .of_eq (setCompletionBit_causes fn s2)
  split
  · exact written.trans (raiseIn_keepsCauses fn 2 2 _ fn s3)
  · exact written

theorem post_keepsCauses (fn : Nat) (c : Cpl) (s : State) : KeepsCauses s (post fn c s) := by
  unfold post
  extract_lets f
  split
  · exact .of_eq rfl
  · split
    · exact writeCpl_keepsCauses fn c s
    · exact .of_eq rfl

end causes

/-! ## A step ends -/

section stepEnds
variable {s t : State} (inst tag : Nat)

theorem State.stepOf_of_insts (h : t.insts = s.insts) : t.stepOf inst tag = s.stepOf inst tag := by
  unfold State.stepOf State.inst; rw [h]

/-- The end of a step removes it, and leaves the cores and every set cause. -/
theorem endStep_effect (status result : Nat) (s : State) :
    let t := endStep inst tag status result s
    t.stepOf inst tag = none ∧ t.cores = s.cores ∧ KeepsCauses s t := by
  unfold endStep
  split
  · next absent => exact ⟨absent, rfl, .of_eq rfl⟩
  · next p _ =>
    extract_lets s1 t
    have removed : s1.stepOf inst tag = none := by simp [s1, State.stepOf]
    by_cases muted : p.muted = true
    · have silent : t = s1 := if_pos muted
      rw [silent]
      exact ⟨removed, rfl, .of_eq rfl⟩
    · have told : t = finishStep inst tag status _ result p.bound s1 := if_neg muted
      rw [told]
      have posted := finishStep_posted inst tag status (flagWord p.firstUse p.clipOver (p.nonfinite || p.ledgerFlag) false) result p.bound s1
      exact ⟨(State.stepOf_of_insts inst tag posted.insts).trans removed, posted.cores, post_keepsCauses inst _ s1⟩

end stepEnds

/-! ## Cores stop (R92, R206) -/

section stops
variable {s : State}

theorem State.coreStopped_of_stop {c : Nat} {w : Work} {why : StopWhy} {seq : Nat} (h : s.work c = w.stop why seq) : s.coreStopped c = true := by
  rw [State.coreStopped, h]; rfl

theorem stopCores_cons (x : Nat) (cores : List Nat) (why : StopWhy) (s : State) :
    stopCores (x :: cores) why s = stopCores cores why (if s.coreStopped x then s else stopCore x why (s.work x).seq s) := by
  unfold stopCores State.coreStopped
  rw [forEach]
  congr 1
  dsimp only
  generalize (s.work x).mode = mode
  cases mode <;> rfl

/-- A core that has stopped is not stopped again: what it still holds stays. -/
theorem stopCores_work {c : Nat} (cores : List Nat) (why : StopWhy) : ∀ s : State, s.coreStopped c = true → (stopCores cores why s).work c = s.work c := by
  induction cores with
  | nil => exact fun _ _ => rfl
  | cons x cores ih =>
    intro s hc
    rw [stopCores_cons]
    split
    · exact ih s hc
    · next hx =>
      have hne : c ≠ x := fun h => hx (h ▸ hc)
      have other : (stopCore x why (s.work x).seq s).work c = s.work c := State.work_updWork_ne _ hne
      have stopped : (stopCore x why (s.work x).seq s).coreStopped c = true := by rw [State.coreStopped, other]; exact hc
      exact (ih _ stopped).trans other

theorem stopCores_causes (cores : List Nat) (why : StopWhy) (s : State) : (stopCores cores why s).causes = s.causes := by
  refine forEach_keeps State.causes (fun x s => ?_) cores s
  dsimp only
  split <;> rfl

end stops

/-! ## The step of an exception fails -/

section fails
variable {s : State} {p : Step}

/-- A step that has failed, by its first cause. -/
def Step.fail (why : StopWhy) (p : Step) : Step := { p with failed := true, cause := some (p.cause.getD why) }

/-- The failure of a serving or an evaluation step, when it is not failed yet: its cores stop, and it completes at once. -/
theorem failStep_sent (inst tag : Nat) (why : StopWhy) (hp : s.stepOf inst tag = some p) (hk : p.kind ≠ 1) (hf : p.failed = false) :
    Sent (endStep inst tag (statusOf (p.cause.getD why)) (p.failResult 0) (stopCores p.cores why (s.updStep inst tag (Step.fail why)))) (failStep inst tag why s) := by
  unfold failStep
  rw [hp]
  simp only [hf, hk, Bool.false_eq_true, if_false]
  split
  · exact setGap_sent ..
  · exact .refl _

/-- An exception of a core that works for a serving or an evaluation step. -/
theorem coreException_ends {core : Nat} {tk : TaskRef} (g b detail : Nat) (why : StopWhy) (seq : Nat) (ht : (s.work core).task = some tk)
    (hp : s.stepOf tk.fn tk.tag = some p) (hk : p.kind ≠ 1) (hf : p.failed = false) :
    let t := coreException core g b detail why seq s
    t.work core = (s.work core).stop why seq ∧ t.stepOf tk.fn tk.tag = none ∧ (Tbl.get {} t.causes (causeKey tk.fn g b)).bit = true := by
  intro t
  let s1 := stopCore core why seq (raise tk.fn g b detail s)
  have fails : t = failStep tk.fn tk.tag why s1 := by
    have own : s.coreInst core = tk.fn := by simp only [State.coreInst, ht]
    simp only [t, coreException, ht, own, s1]
  have raised := (raise_noted tk.fn g b detail s).posted
  have step : s1.stepOf tk.fn tk.tag = some p := (State.stepOf_of_insts _ _ raised.insts).trans hp
  have work : s1.work core = (s.work core).stop why seq := by
    simp only [s1, stopCore, State.work_updWork_self, State.work_of_cores raised.cores]
  let u := s1.updStep tk.fn tk.tag (Step.fail why)
  have same : u.work core = (s.work core).stop why seq := work
  obtain ⟨ended, cores, causes⟩ := endStep_effect tk.fn tk.tag (statusOf (p.cause.getD why)) (p.failResult 0) (stopCores p.cores why u)
  have sent := failStep_sent tk.fn tk.tag why step hk hf
  rw [← fails] at sent
  refine ⟨?_, (State.stepOf_of_insts _ _ sent.insts).trans ended, ?_⟩
  · calc t.work core = (stopCores p.cores why u).work core := State.work_of_cores (sent.cores.trans cores) core
      _ = u.work core := stopCores_work p.cores why u (State.coreStopped_of_stop same)
      _ = (s.work core).stop why seq := same
  · have kept : KeepsCauses s1 t := ((KeepsCauses.of_eq (stopCores_causes p.cores why u)).trans causes).trans (.of_eq sent.causes)
    exact kept _ (raiseIn_bit tk.fn g b detail tk.fn s)

end fails

/-- Settles O24: a descriptor fault is such an exception, and what the core still holds is what a stop leaves of its work. -/
theorem exceptionStops : Obligations.ExceptionStops := by
  unfold Obligations.ExceptionStops
  intro core tk p s c w t ht hp hk hf
  obtain ⟨work, step, cause⟩ := coreException_ends 1 0 (descDetail c (w.pos / 16)) .device w.seq ht hp hk hf
  change t.work c = w.stop .device w.seq at work
  refine ⟨State.coreStopped_of_stop work, ?_, ?_, ?_, ?_, step, cause⟩
  all_goals rw [work]; rfl

end Sys2Proof.Machine
end

section
/-! O3, O4, O22: the instructions that compute a register (05_tile_programs R131 to R134, Tables 5-7 and 5-8). -/

namespace Sys2Proof.Machine

/-! ## The lanes of a canonical result (R41) -/

theorem canon32_nan32 : canon32 nan32 = nan32 := by decide

/-- 1.0 and +0 are their own canonical form. -/
theorem canon32_boolLane (p : Bool) : canon32 (boolLane p) = if p then one32 else 0 := by
  cases p <;> decide

/-! ## The approximations leave seven zero bits (R133) -/

/-- A conversion into fp32s16, widened to an FP32 code. -/
def Conv.Short (c : Conv) : Prop := c.code % 128 = 0

section short
variable {c c' : Conv}

theorem Conv.Short.ite {p : Prop} [Decidable p] (h : c.Short) (h' : c'.Short) : (if p then c else c').Short := by
  split <;> assumption

theorem widened_short (c : Conv) : ({ c with code := c.code * 128 } : Conv).Short := Nat.mul_mod_left c.code 128

theorem roundFx_short (v k : Int) : (roundFx v k).Short := widened_short _

theorem approx_inf_short (op : Approx) (neg : Bool) : (approx op (.inf neg)).Short := by
  cases op <;> cases neg <;> exact rfl

theorem approx_fin_short (op : Approx) (neg : Bool) (m : Nat) (e : Int) : (approx op (.fin neg m e)).Short := by
  have zero : Conv.Short ⟨0, false, false⟩ := rfl
  have one : Conv.Short ⟨0x3F800000, false, false⟩ := rfl
  have signedZero : Conv.Short ⟨signBit fp32 neg, false, false⟩ := by cases neg <;> rfl
  have signedOne : Conv.Short ⟨signBit fp32 neg + 0x3F800000, false, false⟩ := by cases neg <;> rfl
  cases op with
  | exp => exact .ite (.ite zero rfl) (roundFx_short ..)
  | exp2 => exact .ite (.ite zero rfl) (roundFx_short ..)
  | log => exact .ite rfl (.ite rfl (roundFx_short ..))
  | log2 => exact .ite rfl (.ite rfl (.ite (roundFx_short ..) (roundFx_short ..)))
  | tanh => exact .ite signedZero (.ite signedOne (.ite (widened_short _) (roundFx_short ..)))
  | sigm => exact .ite (.ite zero one) (.ite (roundFx_short ..) (roundFx_short ..))

theorem approx_short (op : Approx) (x : Num) : (approx op x).Short := by
  cases x with
  | fin neg m e => exact approx_fin_short op neg m e
  | inf neg => exact approx_inf_short op neg
  | nan => exact (rfl : canonNaN.Short)

theorem approxOp_short (op : Approx) (a : BitVec 32) : (approxOp op a).toNat % 128 = 0 := by
  have short : (approx op (f32 a)).code % 128 = 0 := approx_short op (f32 a)
  rw [approxOp, BitVec.toNat_ofNat]
  omega

theorem approxOp_nan (op : Approx) {a : BitVec 32} (h : f32 a = .nan) : approxOp op a = nan32 := by
  rw [approxOp, h]; rfl

theorem canon32_short {c : BitVec 32} (h : c.toNat % 128 = 0) : (canon32 c).toNat % 128 = 0 := by
  unfold canon32
  split
  · rfl
  · exact h

end short

/-! ## Lane by lane: O3 and O4 -/

section lanes
variable (core : CoreId) (d a b : BitVec 5) (s : State) (opc : Nat)

/-- A comparison puts 1.0 or +0 into a lane. -/
theorem unary_boolLane (p : BitVec 32 → Bool) (ho : op1 opc = fun x => boolLane (p x)) (hs : s.runs core) (h : opc ∈ unaryCodes) (j : Nat) (hj : j < 64) :
    (tileStep core.toNat (insDA opc d a 0) s).lane core d j = if p (s.lane core a j) then one32 else 0 := by
  rw [unary_lane core d a s opc j hs h hj, ho, canon32_boolLane]

theorem binary_boolLane (p : BitVec 32 → BitVec 32 → Bool) (ho : op2 opc = fun x y => boolLane (p x y)) (hs : s.runs core) (h : opc ∈ binaryCodes) (j : Nat) (hj : j < 64) :
    (tileStep core.toNat (insDAB opc d a b) s).lane core d j = if p (s.lane core a j) (s.lane core b j) then one32 else 0 := by
  rw [binary_lane core d a b s opc j hs h hj, ho, canon32_boolLane]

/-- An approximation in every lane: seven zero bits, a NaN for a NaN, and its value. -/
theorem approx_lanes (op : Approx) (ho : op1 opc = approxOp op) (hs : s.runs core) (h : opc ∈ unaryCodes) :
    let t := tileStep core.toNat (insDA opc d a 0) s
    (∀ j < 64, (t.lane core d j).toNat % 128 = 0 ∧ (f32 (s.lane core a j) = .nan → t.lane core d j = nan32)) ∧
      ∀ j < 64, t.lane core d j = canon32 (approxOp op (s.lane core a j)) := by
  intro t
  have value : ∀ j < 64, t.lane core d j = canon32 (approxOp op (s.lane core a j)) := fun j hj => by
    rw [unary_lane core d a s opc j hs h hj, ho]
  refine ⟨fun j hj => ⟨?_, fun hn => ?_⟩, value⟩
  · rw [value j hj]; exact canon32_short (approxOp_short op _)
  · rw [value j hj, approxOp_nan op hn]; exact canon32_nan32

end lanes

/-- Settles O3: each clause is its opcode's operation (Table 5-7) on the lanes. -/
theorem laneArithmetic : Obligations.LaneArithmetic := by
  unfold Obligations.LaneArithmetic
  constructor
  · intro core d a b c s hs A B C
    refine ⟨⟨_, rfl, ?_⟩, ⟨_, rfl, ?_⟩, ⟨_, rfl, ?_⟩, ⟨_, rfl, ?_⟩, ⟨_, rfl, ?_⟩, ⟨_, rfl, ?_⟩, ⟨_, rfl, ?_⟩, ⟨_, rfl, ?_⟩⟩
    · exact fun j => binary_lane core d a b s 0x08 j hs (by decide)
    · exact fun j => binary_lane core d a b s 0x09 j hs (by decide)
    · exact fun j => binary_lane core d a b s 0x0A j hs (by decide)
    · exact fun j => ternary_lane core d a b c s 0x0B j hs (by decide)
    · exact fun j => unary_lane core d a s 0x0E j hs (by decide)
    · exact fun j => unary_lane core d a s 0x0F j hs (by decide)
    · exact fun j => unary_lane core d a s 0x11 j hs (by decide)
    · exact fun j => binary_lane core d a b s 0x10 j hs (by decide)
  · intro core d a b c s hs A B C
    refine ⟨⟨_, rfl, ?_⟩, ⟨_, rfl, ?_⟩, ⟨_, rfl, ?_⟩, ⟨_, rfl, ?_⟩, ⟨_, rfl, ?_⟩, ⟨_, rfl, ?_⟩, ⟨_, rfl, ?_⟩, ⟨_, rfl, ?_⟩⟩
    · exact fun j => unary_lane core d a s 0x01 j hs (by decide)
    · exact fun j => binary_lane core d a b s 0x0C j hs (by decide)
    · exact fun j => binary_lane core d a b s 0x0D j hs (by decide)
    · exact binary_boolLane core d a b s 0x12 (fun x y => (f32 x).lt (f32 y)) rfl hs (by decide)
    · exact binary_boolLane core d a b s 0x13 (fun x y => (f32 x).lt (f32 y) || (f32 x).eq (f32 y)) rfl hs (by decide)
    · exact binary_boolLane core d a b s 0x14 (fun x y => (f32 x).eq (f32 y)) rfl hs (by decide)
    · exact fun j => ternary_lane core d a b c s 0x15 j hs (by decide)
    · exact unary_boolLane core d a s 0x16 isFin32 rfl hs (by decide)

/-- Settles O4: the first three are the rounding itself; the other six are approximations in every lane. -/
theorem laneFunctions : Obligations.LaneFunctions := by
  unfold Obligations.LaneFunctions
  intro core d a s hs A short
  refine ⟨⟨_, rfl, ?_⟩, ⟨_, rfl, ?_⟩, ⟨_, rfl, ?_⟩, ⟨_, rfl, ?_⟩, ⟨_, rfl, ?_⟩, ⟨_, rfl, ?_⟩, ⟨_, rfl, ?_⟩, ⟨_, rfl, ?_⟩, ⟨_, rfl, ?_⟩⟩
  · exact fun j => unary_lane core d a s 0x18 j hs (by decide)
  · exact fun j => unary_lane core d a s 0x19 j hs (by decide)
  · exact fun j => unary_lane core d a s 0x1A j hs (by decide)
  · exact approx_lanes core d a s 0x1B .exp rfl hs (by decide)
  · exact approx_lanes core d a s 0x1C .exp2 rfl hs (by decide)
  · exact approx_lanes core d a s 0x1D .log rfl hs (by decide)
  · exact approx_lanes core d a s 0x1E .log2 rfl hs (by decide)
  · exact approx_lanes core d a s 0x1F .tanh rfl hs (by decide)
  · exact approx_lanes core d a s 0x20 .sigm rfl hs (by decide)

/-! ## The frame of a written register (R134) -/

section frame
variable (core d : Nat) (v : Lanes) (s : State)

/-- The step's mark is in the instances' records alone. -/
theorem markNonfinite_eq (on : Bool) : ∃ insts, markNonfinite core on s = { s with insts := insts } := by
  unfold markNonfinite updTaskStep
  split
  · split
    · exact ⟨_, rfl⟩
    · exact ⟨s.insts, rfl⟩
  · exact ⟨s.insts, rfl⟩

theorem putReg_reg_ne {q : Nat} (h : q ≠ d) : ((putReg core d v s).work core).eng.reg q = (s.work core).eng.reg q := by
  rw [putReg_eng]; exact Engine.reg_set_ne _ _ _ _ h

theorem State.core_of_cores {s t : State} (h : t.cores = s.cores) (k : Nat) : t.core k = s.core k := by
  unfold State.core; rw [h]

/-- Beside the instances' records a result changes cores alone. -/
theorem putReg_eq : ∃ insts cores, putReg core d v s = { s with insts := insts, cores := cores } := by
  obtain ⟨insts, h⟩ := markNonfinite_eq core (s.updEng core (fun e => { e with regs := Tbl.set e.regs d v })) (anyNonfinite v)
  exact ⟨insts, _, h⟩

/-- A result changes the cores as its write into the engine does. -/
theorem putReg_core (k : Nat) : (putReg core d v s).core k = (s.updEng core (fun e => { e with regs := Tbl.set e.regs d v })).core k :=
  State.core_of_cores (markNonfinite_cores core _ _) k

theorem putReg_core_ne {k : Nat} (h : k ≠ core) : (putReg core d v s).core k = s.core k :=
  (putReg_core core d v s k).trans (State.updCore_core_ne s core k _ h)

theorem putReg_sramRead (k p n : Nat) : (putReg core d v s).sramRead k p n = s.sramRead k p n := by
  unfold State.sramRead Core.bytes
  rw [putReg_core]
  exact congrArg (Mem.read · p n) (State.updWork_sram s core k _)

end frame

/-! ## Which instructions compute a register: O22 -/

/-- The outcome is the state with some value written to register `d` of the core. -/
def WritesReg (core : CoreId) (d : BitVec 5) (s : State) (o : Host.Outcome State Fault Refusal) : Prop := ∃ v, o = .next (putReg core.toNat d.toNat v s)

section computes
variable {core : CoreId} {s : State}

/-- An instruction that R130 allows and whose opcode only computes. -/
theorem tileStep_writesReg {d : BitVec 5} {i : TIns} (hs : s.runs core) (hd : i.d = d.toNat) (hc : computes i.opc = true) (h3 : i.opc ≠ 0x03)
    (hok : insOk (s.work core.toNat).eng.args (s.work core.toNat).eng.inTail i = true) : WritesReg core d s (.next (tileStep core.toNat i s)) := by
  have h4 : i.opc ≠ 0x04 := by
    intro h; simp [computes, h] at hc
  exact ⟨_, congrArg _ (hd ▸ tileStep_computes core.toNat i s hs hok (accessFault_none _ _ _ _ _ (.inl h3) h4) hc)⟩

variable (opc : Nat) (d a b c : BitVec 5) (hs : s.runs core)
include hs

/-- Such an instruction with D, A and M, in a section that allows it. -/
theorem insDA_writesReg (m : BitVec 6) {f : OpForm} (ho : opForm opc = some f ∧ computes opc = true ∧ opc ≠ 0x03) (hd : f.d = true) (ha : (f.a || a.toNat == 0) = true)
    (hsec : (if (s.work core.toNat).eng.inTail then f.tail else f.row) = true)
    (hm : mOk (s.work core.toNat).eng.args f.m m.toNat (s.work core.toNat).eng.inTail = true) : WritesReg core d s (.next (tileStep core.toNat (insDA opc d a m) s)) := by
  obtain ⟨hf, hc, h3⟩ := ho
  exact tileStep_writesReg hs rfl hc h3 (by simp [insOk, insDA, hf, hd, ha, hsec, hm])

theorem binary_writesReg (h : opc ∈ binaryCodes) : WritesReg core d s (.next (tileStep core.toNat (insDAB opc d a b) s)) := by
  obtain ⟨hf, hc, h3⟩ := opForm_binary opc h
  exact tileStep_writesReg hs rfl hc h3 (insOk_plain _ _ _ binary hf rfl rfl rfl rfl rfl rfl rfl rfl)

theorem ternary_writesReg (h : opc ∈ ternaryCodes) : WritesReg core d s (.next (tileStep core.toNat (insDABC opc d a b c) s)) := by
  obtain ⟨hf, hc, h3⟩ := opForm_ternary opc h
  exact tileStep_writesReg hs rfl hc h3 (insOk_plain _ _ _ ternary hf rfl rfl rfl rfl rfl rfl rfl rfl)

/-- What `laneDest` names is what the instruction writes. -/
theorem exec_laneDest (i : Instr) (h : i.laneDest (s.work core.toNat).eng.inTail = some (core, d)) : WritesReg core d s (exec i s) := by
  cases i with
  | const core d m => cases h; exact insDA_writesReg _ _ _ hs m ⟨rfl, rfl, by decide⟩ rfl rfl (ite_self _) rfl
  | rownum core' d' =>
    simp only [Instr.laneDest] at h
    split at h
    · cases h
    · next row => cases h; exact insDA_writesReg _ _ _ hs 0 ⟨rfl, rfl, by decide⟩ rfl rfl (if_neg row) rfl
  | cget core' d' m =>
    simp only [Instr.laneDest, Bool.and_eq_true] at h
    split at h
    · next ok => cases h; exact insDA_writesReg _ _ _ hs m ⟨rfl, rfl, by decide⟩ rfl rfl (if_pos ok.1) ok.2
    · cases h
  | rsum core' d' a m | rsumsq core' d' a m =>
    simp only [Instr.laneDest] at h
    split at h
    · next flag => cases h; exact insDA_writesReg _ _ _ hs m ⟨rfl, rfl, by decide⟩ rfl rfl (ite_self _) (decide_eq_true flag)
    · cases h
  | mov core d a | abs core d a | neg core d a | floor core d a | isfin core d a | rcp core d a | sqrt core d a | rsqrt core d a | exp core d a | exp2 core d a
  | log core d a | log2 core d a | tanh core d a | sigm core d a | ramax core d a | rmax core d a | rmin core d a | lane core d =>
    cases h; exact insDA_writesReg _ _ _ hs 0 ⟨rfl, rfl, by decide⟩ rfl rfl (ite_self _) rfl
  | add core d a b | sub core d a b | mul core d a b | min core d a b | max core d a b | scale core d a b | cmplt core d a b | cmple core d a b
  | cmpeq core d a b => cases h; exact binary_writesReg _ _ _ _ hs (by decide)
  | fma core d a b c | sel core d a b c => cases h; exact ternary_writesReg _ _ _ _ _ hs (by decide)
  | _ => cases h

end computes

/-- Settles O22: the instruction writes D, and a written register has its frame. -/
theorem laneFrame : Obligations.LaneFrame := by
  unfold Obligations.LaneFrame
  intro i core d s t h hs ht w
  obtain ⟨v, hv⟩ := exec_laneDest d hs i h
  obtain rfl : putReg core.toNat d.toNat v s = t := by rw [ht] at hv; cases hv; rfl
  have value : w = v := putReg_reg core.toNat d.toNat v s
  obtain ⟨insts, cores, same⟩ := putReg_eq core.toNat d.toNat v s
  refine ⟨by rw [value]; rfl, fun q hq => ?_, putReg_sramRead _ _ v s, fun k hk => putReg_core_ne _ _ v s hk, ?_⟩
  · exact putReg_reg_ne _ _ v s (fun e => hq (BitVec.eq_of_toNat_eq e))
  · rw [same]; exact ⟨rfl, rfl, rfl, rfl, rfl, rfl, rfl⟩

end Sys2Proof.Machine
end

section
/-! O23, O25: core descriptors issue, fault, or are handed to their queues (03_core_array R84, R85, R125, R126). -/

namespace Sys2Proof.Machine

/-! ## Issue (R84, R85) -/

section issue
variable {i : Instr} {c : Nat} {ok : Bool} {effect : State → State} {s : State}

/-- A core that does not issue takes no descriptor. -/
theorem exec_idle (h : exec i s = .next (issue c ok effect s)) (idle : s.mayIssue c = false) : exec i s = .next s := by
  rw [h]; simp [issue, idle]

theorem exec_faulty (h : exec i s = .next (issue c ok effect s)) (may : s.mayIssue c = true) (bad : ok = false) : exec i s = .next (descFault c s) := by
  rw [h]; simp [issue, may, bad]

theorem exec_issues {t : State} (h : exec i s = .next (issue c ok effect s)) (may : s.mayIssue c = true) (good : ok = true) (acts : effect s = t) :
    exec i s = .next t := by
  rw [h]; simp [issue, may, good, acts]

end issue

/-- Settles O23: each descriptor's row is `issue` under the check of its word. -/
theorem descriptorFaults : Obligations.DescriptorFaults := by
  unfold Obligations.DescriptorFaults
  intro core d residues words s c stays faults
  constructor
  · and_intros <;> exact exec_idle rfl
  · and_intros <;> exact exec_faulty rfl

/-! ## What issue leaves of the memories and of the counts -/

/-- No byte of SRAM or of device memory differs. -/
def SameBytes (s t : State) : Prop := (∀ k a n, t.sramRead k a n = s.sramRead k a n) ∧ t.lines = s.lines

section sameBytes
variable {s t : State}

/-- SRAM that holds the same cells reads the same. -/
theorem SameBytes.of_sram (h : ∀ k, (t.core k).sram = (s.core k).sram) (hl : t.lines = s.lines) : SameBytes s t :=
  ⟨fun k a n => by rw [State.sramRead, State.sramRead, Core.bytes, Core.bytes, h], hl⟩

theorem SameBytes.updWork (h : SameBytes s t) (c : Nat) (f : Work → Work) : SameBytes s (t.updWork c f) :=
  ⟨fun k a n => by rw [← h.1 k a n, State.sramRead, State.sramRead, Core.bytes, Core.bytes, State.updWork_sram], h.2⟩

theorem SameBytes.refl (s : State) : SameBytes s s := ⟨fun _ _ _ => rfl, rfl⟩

end sameBytes

/-- What a change of a core leaves of every core. -/
theorem State.updCore_keeps {β : Type} (g : Core → β) {f : Core → Core} (h : ∀ c, g (f c) = g c) (s : State) (i k : Nat) : g ((s.updCore i f).core k) = g (s.core k) := by
  by_cases hk : k = i
  · subst hk; rw [State.core_updCore_self]; exact h _
  · rw [State.core_updCore_ne f hk]

section found
variable (core : Nat) (words : List SramFind) (s : State)

/-- The code of SRAM only marks words of a core (R71). -/
theorem sramFound_keeps {β : Type} (g : Core → β) (h : ∀ c p, g { c with poison := p } = g c) (k : Nat) : g ((sramFound core words s).core k) = g (s.core k) := by
  refine forEach_keeps (fun s : State => g (s.core k)) (fun x s => ?_) words s
  split
  · rfl
  · split
    · refine State.updCore_keeps g (fun c => ?_) s core k
      split
      · rfl
      · exact h c _
    · exact congrArg g (State.core_of_cores (raise_noted ..).posted.cores k)

theorem sramFound_work (k : Nat) : (sramFound core words s).work k = s.work k := sramFound_keeps core words s Core.work (fun _ _ => rfl) k

/-- Beside the cores, finds of SRAM only note causes. -/
theorem sramFound_outside {β : Type} (g : State → β) (hc : ∀ (s : State) cores, g { s with cores := cores } = g s) (hp : ∀ s t : State, Posted s t → g t = g s) :
    g (sramFound core words s) = g s := by
  refine forEach_keeps g (fun x s => ?_) words s
  split
  · rfl
  · split
    · exact hc s _
    · exact hp s _ (raise_noted ..).posted

theorem sramFound_lines : (sramFound core words s).lines = s.lines := sramFound_outside core words s State.lines (fun _ _ => rfl) (fun _ _ h => h.lines)

theorem sramFound_insts : (sramFound core words s).insts = s.insts := sramFound_outside core words s State.insts (fun _ _ => rfl) (fun _ _ h => h.insts)

theorem sramFound_sameBytes : SameBytes s (sramFound core words s) :=
  .of_sram (sramFound_keeps core words s Core.sram (fun _ _ => rfl)) (sramFound_lines core words s)

theorem sramFound_coreInst : (sramFound core words s).coreInst core = s.coreInst core := by
  rw [State.coreInst, State.coreInst, State.ownerOf, State.ownerOf, sramFound_work, sramFound_insts]

end found

/-! ## Handed to a queue, in issue order: O25 -/

section handed
variable {s u : State} {c : Nat}

theorem issued_work (c : Nat) (s : State) : (issued c s).work c = { s.work c with pos := (s.work c).pos + 16, seq := (s.work c).seq + 1 } :=
  State.work_updWork_self c _

/-- The sequencer has gone on by one descriptor, and no byte has changed (R84). -/
def Counted (c : Nat) (s t : State) : Prop := (t.work c).seq = (s.work c).seq + 1 ∧ (t.work c).pos = (s.work c).pos + 16 ∧ SameBytes s t

/-- A change of the core's work that leaves the two counts, as a job more in a queue. -/
theorem issued_counted (hb : SameBytes s u) (hs : (u.work c).seq = (s.work c).seq) (hp : (u.work c).pos = (s.work c).pos)
    (f : Work → Work) (fs : ∀ w, (f w).seq = w.seq) (fp : ∀ w, (f w).pos = w.pos) : Counted c s (issued c (u.updWork c f)) := by
  have work : (issued c (u.updWork c f)).work c = { f (u.work c) with pos := (u.work c).pos + 16, seq := (u.work c).seq + 1 } := by
    rw [issued_work, State.work_updWork_self, fs, fp]
  rw [Counted, work, ← hs, ← hp]
  exact ⟨rfl, rfl, (hb.updWork c f).updWork c _⟩

theorem issued_queueMove (d : Desc) (predicted : Bool) : ((issued c (queueMove d predicted c u)).work c).moveQ = (u.work c).moveQ ++ [{ d := d, seq := (u.work c).seq, predicted := predicted }] := by
  rw [issued_work, queueMove, State.work_updWork_self]

end handed

/-- A predicted fetch in flight. -/
def newPred (m : MoveD) : Pred := { sram := m.sram, len := m.len, mem := m.mem, done := false, dirty := false }

section units
variable {core : CoreId} {d : Desc} {s : State}

theorem exec_move (words : List SramFind) (may : s.mayIssue core.toNat = true) (ok : moveIssueOk core.toNat d s = true) (h : (moveD d).pred = false)
    (page : (moveD d).dir = 2 ∨ rangeFault (s.coreInst core.toNat) (moveD d).mem (moveD d).len ((moveD d).dir == 1) (sramFound core.toNat words s) = none) :
    exec (.move core d words) s = .next (issued core.toNat (queueMove d false core.toNat (sramFound core.toNat words s))) := by
  refine exec_issues rfl may ok ?_
  simp only [h, Bool.false_eq_true, if_false, sramFound_coreInst]
  rcases page with inCore | page
  · simp only [inCore, if_true]
  · simp only [page, ite_self]

theorem exec_movePredicted (words : List SramFind) (may : s.mayIssue core.toNat = true) (ok : moveIssueOk core.toNat d s = true) (h : (moveD d).pred = true) :
    exec (.move core d words) s = .next (issued core.toNat (queueMove d true core.toNat
      ((sramFound core.toNat words s).updWork core.toNat (fun w => { w with preds := w.preds ++ [newPred (moveD d)] })))) := by
  refine exec_issues rfl may ok ?_
  simp only [h, if_true]
  rfl

theorem issueSpill_queues (restore : Bool) (may : s.mayIssue core.toNat = true) (ok : spillIssueOk core.toNat d restore s = true)
    (page : rangeFault (s.coreInst core.toNat) (((s.spillArea (s.coreInst core.toNat)).getD (0, 0)).1 + (spillD d).offset * 128) (spillD d).len (!restore) s = none) :
    issueSpill core.toNat d restore s = issued core.toNat (queueMove d false core.toNat s) := by
  simp only [issueSpill, issue, may, ok, page, Bool.not_true, Bool.false_eq_true, if_false]

end units

/-- Settles O25: the units' queues first, then the array's. -/
theorem unitAndArrayJobs : Obligations.UnitAndArrayJobs := by
  unfold Obligations.UnitAndArrayJobs
  constructor
  · intro core d words s may c w inst s1 job m p la counted
    have kept : SameBytes s s1 := sramFound_sameBytes ..
    have work : s1.work c = w := sramFound_work ..
    have queued : ∀ f : Work → Work, (∀ w, (f w).seq = w.seq) → (∀ w, (f w).pos = w.pos) → counted (issued c (s.updWork c f)) := issued_counted (.refl s) rfl rfl
    have moved : ∀ b u, SameBytes s u → (u.work c).seq = w.seq → (u.work c).pos = w.pos → counted (issued c (queueMove d b c u)) :=
      fun b u hb hs hp => issued_counted hb hs hp _ (fun _ => rfl) (fun _ => rfl)
    refine ⟨fun ok => ⟨_, exec_issues rfl may ok rfl, ?_, queued _ (fun _ => rfl) (fun _ => rfl)⟩,
      fun ok unpred page => ⟨_, exec_move words may ok unpred page, ?_, moved false s1 kept (by rw [work]) (by rw [work])⟩,
      fun ok pred => ⟨_, exec_movePredicted words may ok pred, ?_, ?_⟩,
      fun ok page => ⟨_, congrArg Host.Outcome.next (issueSpill_queues false may ok page), issued_queueMove d false, moved false s (.refl s) rfl rfl⟩,
      fun ok page => ⟨_, congrArg Host.Outcome.next (issueSpill_queues true may ok page), issued_queueMove d false, moved false s (.refl s) rfl rfl⟩,
      fun ok obj => ⟨_, exec_issues rfl may (by rw [ok, obj]; rfl) rfl, ?_, queued _ (fun _ => rfl) (fun _ => rfl)⟩⟩
    · rw [issued_work, State.work_updWork_self]
    · rw [issued_queueMove, work]
    · rw [issued_queueMove, State.work_updWork_self, work]
    · exact moved true _ (kept.updWork c _) (by rw [State.work_updWork_self, work]) (by rw [State.work_updWork_self, work])
    · rw [issued_work, State.work_updWork_self]
  · intro core d residues words s may c w att place then_
    have placed : ∀ n, tileOk d = true → place = n → (tileOk d && place == n) = true := fun n ok h => by rw [ok, h, Bool.true_and, beq_self_eq_true]
    exact ⟨fun ok => exec_issues rfl may ok rfl, fun ok => exec_issues rfl may ok rfl, fun ok h => exec_issues rfl may (placed 0 ok h) rfl,
      fun ok h => exec_issues rfl may (placed 1 ok h) rfl, fun ok h => exec_issues rfl may (placed 2 ok h) rfl, fun ok h => exec_issues rfl may (placed 3 ok h) rfl⟩

end Sys2Proof.Machine
end

section
/-! O26, O27, O28: what holds a core's sequencer, and how its units' work completes and goes on (03_core_array R79, R84 to R91, R452). -/

namespace Sys2Proof.Machine

/-! ## What holds issue: O26 -/

section holds
variable {c : Nat} {s : State}

/-- The core's work once a descriptor is counted that puts the sequencer in a mode. -/
theorem issued_mode_work (c : Nat) (s : State) (mode : SeqMode) : ((issued c s).updWork c (fun w => { w with mode := mode })).work c =
    { s.work c with pos := (s.work c).pos + 16, seq := (s.work c).seq + 1, mode := mode } := by
  rw [State.work_updWork_self, issued_work]

theorem fenceEnds_work (c : Nat) (s : State) : (fenceEnds c s).work c = { s.work c with mode := .running, remoteQ := (s.work c).remoteQ.filter (fun r => !s.sendVisible r) } :=
  State.work_updWork_self c _

theorem taskEnds_of_task {tk : TaskRef} (h : (s.work c).task = some tk) :
    taskEnds c s = tasksMayEnd tk.fn tk.tag (s.updWork c (fun w => { w with mode := .idle, task := none, remoteQ := [] })) := by
  simp only [taskEnds, h]

theorem State.endClear_iff : s.endClear c = true ↔ s.fenceClear c 15 = true ∧ (s.work c).sigQ = [] := by
  rw [State.endClear, Bool.and_eq_true, List.isEmpty_iff]

end holds

/-- Settles O26: the effect of each descriptor, by whether its condition holds already. -/
theorem sequencerHolds : Obligations.SequencerHolds := by
  unfold Obligations.SequencerHolds
  intro core d tk s may c w m obj thresh u
  have held : ∀ mode, (u mode).work c = { w with pos := w.pos + 16, seq := w.seq + 1, mode := mode } := issued_mode_work c s
  have ok : d = 0x0B → endOk d = true := fun hd => by rw [hd]; rfl
  have ends : d = 0x0B → exec (.endTask core d) s = .next (if (u .ending).endClear c then taskEnds c (u .ending) else u .ending) :=
    fun hd => exec_issues rfl may (ok hd) rfl
  have clears : (u .ending).endClear c = true ↔ (u .ending).fenceClear c 15 = true ∧ w.sigQ = [] := by
    rw [State.endClear_iff, held]
  refine ⟨fun ok sound => ?_, fun ok holds => ?_, fun ok waits => ?_, fun ok => ?_, fun hd ht hq hc => ?_, fun hd busy => ?_⟩
  · refine exec_issues rfl may ok ?_
    exact if_neg (ne_true_of_eq_false sound)
  · exact exec_issues rfl may ok (if_pos holds)
  · exact exec_issues rfl may ok (if_neg (ne_true_of_eq_false waits))
  · let s1 := u (.fencing (fld d 11 8))
    refine ⟨if s1.fenceClear c (fld d 11 8) then fenceEnds c s1 else s1, exec_issues rfl may ok rfl, ?_⟩
    by_cases clear : s1.fenceClear c (fld d 11 8) = true
    · rw [if_pos clear, if_pos clear, fenceEnds_work, held]
      exact ⟨rfl, rfl⟩
    · rw [if_neg clear, if_neg clear, held]
      exact ⟨rfl, rfl⟩
  · rw [ends hd, if_pos (clears.mpr ⟨hc, hq⟩), taskEnds_of_task (tk := tk) (by rw [held]; exact ht)]
  · have holds : ¬ (u .ending).endClear c = true := fun h => by
      obtain ⟨clear, noSignals⟩ := clears.mp h
      rcases busy with signals | work
      · exact signals noSignals
      · exact absurd clear (ne_true_of_eq_false work)
    rw [ends hd, if_neg holds]

/-! ## Units complete: O27 -/

section complete
variable {core : CoreId} {c : Nat} {s s1 : State} {j : UnitJob}

/-- The front load fills the shadow bank; with no PASS waiting no gap is counted. -/
theorem loadDone_fills {js : List UnitJob} (waited : Nat) (front : (s.work c).loadQ = j :: js) (begun : (s.work c).newPassBefore j.seq = false)
    (sound : loadPoison c (loadD j.d) s = none) (free : (s.work c).waitingPass = none) :
    loadDone c waited s = pumpArray c (s.updWork c (fun w => { w with loadQ := js, shadow := some (blockOf c (loadD j.d) s) })) := by
  simp only [loadDone, front, begun, sound, free, Bool.false_eq_true, if_false]

theorem execMoveComplete_done {finds : List LineFind} (front : (s.work core.toNat).nextMove = some j) (move : fld j.d 7 0 = 5) (confirmed : j.predicted = false)
    (done : moveRun core.toNat j finds s = .done s1) :
    execMoveComplete core finds s = .next (moverSettle core.toNat j
      (if (moveD j.d).dir = 0 then some ((moveD j.d).sram, (moveD j.d).len) else if (moveD j.d).dir = 2 then some ((moveD j.d).mem, (moveD j.d).len) else none)
      (moveD j.d).sig (moveD j.d).sync (.done s1)) := by
  simp only [execMoveComplete, front, move, confirmed, done, ne_eq, not_true_eq_false, Bool.false_eq_true, if_false]

theorem execSpillComplete_settles {finds : List LineFind} (front : (s.work core.toNat).nextMove = some j) (spill : fld j.d 7 0 = 10) :
    let c := core.toNat
    let p := spillD j.d
    let inst := s.coreInst c
    let la := ((s.spillArea inst).getD (0, 0)).1 + p.offset * 128
    execSpillComplete core finds s = .next (if p.restore then moverSettle c j (some (p.sram, p.len)) p.sig p.sync (bringIn c inst la p.sram p.len j.seq finds s)
      else moverSettle c j none p.sig p.sync (takeOut c inst la p.sram p.len j.seq finds s)) := by
  simp only [execSpillComplete, front, spill, ne_eq, not_true_eq_false, if_false]

theorem sendArrives_local {k : SendJob} {ks : List SendJob} (front : (s.work c).sendQ = k :: ks) (near : k.remote = false) (plain : k.sig = false) (data : k.ledger = false) :
    sendArrives c s = settle c (drainSends c (writeFor (s.coreBubble c) k.dcore k.dest k.data false (s.updWork c (fun w => { w with sendQ := ks })))) := by
  simp only [sendArrives, front, near, plain, data, Bool.false_eq_true, if_false]

/-- The front signal of a counting object acts behind the descriptors before it, and else waits. -/
theorem signalActs_count {g : SigJob} {gs : List SigJob} (front : (s.work c).sigQ = g :: gs) (done : s.doneBefore c g.seq = true) (count : g.kind = 0) :
    signalActs c s = settle c (coreAdd c g.obj g.value (s.updWork c (fun w => { w with sigQ := gs }))) := by
  simp only [signalActs, front, done, count, Bool.not_true, Bool.false_eq_true, if_false, Nat.zero_ne_one]

theorem signalActs_waits {g : SigJob} {gs : List SigJob} (front : (s.work c).sigQ = g :: gs) (due : s.doneBefore c g.seq = false) : signalActs c s = s := by
  simp only [signalActs, front, due, Bool.not_false, if_true]

end complete

/-- Settles O27: each event is its unit's, whose front job meets the condition of its completion. -/
theorem unitsComplete : Obligations.UnitsComplete := by
  unfold Obligations.UnitsComplete
  intro core waited finds j js k ks g gs s s1 c w m p inst la ended
  refine ⟨fun front begun sound free => ?_, fun front move confirmed done => ?_, fun front spill out done => ?_, fun front spill back done => ?_,
    fun front near plain data => ?_, fun front done count => ?_, fun front due => ?_⟩
  · exact congrArg (fun t => Host.Outcome.next (settle c t)) (loadDone_fills waited front begun sound free)
  · exact execMoveComplete_done front move confirmed done
  · refine (execSpillComplete_settles front spill).trans (congrArg Host.Outcome.next ?_)
    rw [if_neg (ne_true_of_eq_false out), done]
    rfl
  · refine (execSpillComplete_settles front spill).trans (congrArg Host.Outcome.next ?_)
    rw [if_pos back, done]
    rfl
  · exact congrArg Host.Outcome.next (sendArrives_local front near plain data)
  · exact congrArg Host.Outcome.next (signalActs_count front done count)
  · exact congrArg Host.Outcome.next (signalActs_waits front due)

/-! ## Held work goes on: O28 -/

section resumes
variable {core : CoreId} {c : Nat} {s : State} {p : PassJob}

theorem ringSegment_enters (waited : Nat) (front : (s.work c).waitingPass = some p) (ring : (passD p.d).srcRing ≠ 0) (started : p.started = true)
    (inner : (passD p.d).final = false) (rows : (s.obj (passD p.d).srcSync).count ≠ 0) (runs : s.coreStopped c = false) :
    ringSegment c waited s = pumpArray c (addGap c waited (enterRows c p (min 64 ((passD p.d).rows - p.entered)) (pace (passD p.d).srcSync s))) := by
  have ready : ((s.obj (passD p.d).srcSync).count != 0) = true := bne_iff_ne.mpr rows
  have isRing : ((passD p.d).srcRing != 0) = true := bne_iff_ne.mpr ring
  simp only [ringSegment, front, isRing, started, inner, ready, runs, Bool.false_eq_true, if_false]
  exact if_pos rfl

theorem queueResume_enters (waited : Nat) (front : (s.work c).waitingPass = some p) (final : (passD p.d).final = true) (started : p.started = true)
    (room : p.mayEnter (s.work c) ≠ 0) (runs : s.coreStopped c = false) : queueResume c waited s = pumpArray c (addGap c waited s) := by
  simp [queueResume, front, final, started, room, runs]

theorem sideLoaded_starts (waited : Nat) (side : (s.work c).side.isSome = true) (loads : (s.work c).sideReady = false) (runs : s.coreStopped c = false)
    (front : (s.work c).waitingPass = some p) (tick : (passD p.d).tick = true) (held : p.started = false) :
    sideLoaded c waited s = pumpArray c ((addGap c waited s).updWork c (fun w => { w with sideReady := true })) := by
  have given : (s.work c).side.isNone = false := by rw [Option.isNone_eq_false_iff]; exact side
  simp [sideLoaded, given, loads, runs, front, tick, held]

theorem execWaitResume_holds {obj thresh : Nat} {dl : Option Nat} (waited : Nat) (mode : (s.work core.toNat).mode = .waiting obj thresh dl) (holds : s.satisfied core.toNat obj thresh = true) :
    execWaitResume core waited s = .next (s.updCore core.toNat (fun k => { k with waitSteps := k.waitSteps + BitVec.ofNat 64 waited, work := { k.work with mode := .running } })) := by
  simp only [execWaitResume, mode, holds, if_true]

theorem execWaitTimeout_due {obj thresh limit : Nat} (mode : (s.work core.toNat).mode = .waiting obj thresh (some limit)) (due : limit ≤ s.now.toNat)
    (waits : s.satisfied core.toNat obj thresh = false) :
    execWaitTimeout core s = .next (coreException core.toNat 1 6 (core.toNat + obj <<< 12) .device (s.work core.toNat).seq s) := by
  simp only [execWaitTimeout, mode, due, waits, decide_true, Bool.not_false, Bool.and_self, if_true]

/-- The rows that have entered the only PASS are written; where none of them stops the core, its tiles go to the epilogue and a finished PASS leaves the array. -/
theorem passResults_writes (runs : s.coreStopped c = false) (array : (s.work c).arrayQ = [.pass p]) (rows : p.written < p.entered) :
    let s1 := rowsGo c p ((List.range (p.entered - p.written)).map (fun i => p.written + i)) (if p.written = 0 then 0 else passResults.lastTicket c s p)
      (if p.written = 0 then 0xFFFF else passResults.lastTicket c s p) s
    s1.coreStopped c = false → passResults c s = pumpArray c (s1.updWork c (fun w => { w with
      epiQ := w.epiQ ++ tilesDone p p.written p.entered
      arrayQ := if p.entered = (passD p.d).rows then w.arrayQ.filter (fun q => q.seq != p.seq) else w.arrayQ })) := by
  intro s1 goes
  simp only [passResults, runs, array, List.findSome?_singleton, if_pos rows, Bool.false_eq_true, if_false]
  exact if_neg (ne_true_of_eq_false goes)

end resumes

/-- Settles O28: the two events of a WAIT, then the four of the array. -/
theorem heldWorkResumes : Obligations.HeldWorkResumes := by
  unfold Obligations.HeldWorkResumes
  intro core waited obj thresh limit dl p s c w d
  refine ⟨fun mode holds => ?_, fun mode due waits => ?_, fun front ring started inner rows runs => ?_, fun front final started room runs => ?_,
    fun side loads runs front tick held => ?_, fun runs array rows => ?_⟩
  · refine ⟨_, execWaitResume_holds waited mode holds, ?_, ?_, rfl, rfl⟩
    · rw [State.work, State.core_updCore_self]
    · rw [State.core_updCore_self]
  · exact execWaitTimeout_due mode due waits
  · exact congrArg Host.Outcome.next (ringSegment_enters waited front ring started inner rows runs)
  · exact congrArg Host.Outcome.next (queueResume_enters waited front final started room runs)
  · exact congrArg Host.Outcome.next (sideLoaded_starts waited side loads runs front tick held)
  · intro n s1 goes
    exact congrArg (fun t => Host.Outcome.next (settle c t)) (passResults_writes runs array rows goes)

end Sys2Proof.Machine
end

section
/-! O20: a store to a stream whose KIND no table gives (05_tile_programs R130, R137, R138). -/

namespace Sys2Proof.Machine

/-- The word of an FP32 output stream at 0 of KIND 3, with its pieces 1024 bytes apart (Table 5-4 has no such KIND). -/
def kind3Word : Nat := 3 * 2 ^ 22 + 2 ^ 24 + 1024 * 2 ^ 104

/-- Every lane of V0 holds 1.0, and stream 0 has KIND 3. -/
def kind3Engine : Engine := { regs := [(0, List.replicate 64 one32)], args := List.replicate 16 0 ++ leBytes 16 kind3Word }

/-- Core 0 stands in a row section; its SRAM is zero. -/
def kind3State : State := { cores := [(0, { work := { eng := kind3Engine } })] }

/-- The store's second piece lies 1024 bytes on: 1.0 ends with the byte 0x3F. -/
theorem kind3_stores : (tileStep 0 (insDA 0x04 0 0 0) kind3State).sramRead 0 1027 1 = [0x3F] := by decide

/-- Refutes O20: the hypotheses on a store allow KIND 3, which R130 refuses at attach; its row is stored in pieces (R138), while the ranges of its writes are
those of one record, here the 256 bytes from 0. Of pieces 1024 bytes apart the second changes a byte outside them. -/
theorem not_tileLoadsAndStores : ¬ Obligations.TileLoadsAndStores := by
  unfold Obligations.TileLoadsAndStores
  rintro ⟨-, stores⟩
  obtain ⟨t, ht, frame, -⟩ := stores 0 0 0 kind3State rfl rfl (by decide) (by decide) (by decide) (by decide) (by decide)
  obtain rfl : tileStep 0 (insDA 0x04 0 0 0) kind3State = t := Host.Outcome.next.inj ht
  have outside : (tileStep 0 (insDA 0x04 0 0 0) kind3State).sramRead 0 1027 1 = kind3State.sramRead 0 1027 1 := frame 1027 (by decide)
  rw [kind3_stores] at outside
  exact absurd outside (by decide)

end Sys2Proof.Machine
end

section
/-! O34: fetches of adapters end, early reads and predicted fetches begin (04_adapter_path R116 to R118, R120; 06_memory_tiers R168). -/

namespace Sys2Proof.Machine

/-! ## A fetch ends (R116 to R118) -/

section fetch
variable {fn : FnId} {adapter : BitVec 32} {a : Adapter} {s : State}

/-- The data is written under the state in which the fetch is over; then the boundary offers the parked steps again. -/
theorem fetchArrives_untagged {i id : Nat} (held : s.adapterOf i id = some a) (untagged : a.fetchTag = none) :
    fetchArrives i id s = stepBoundary i (stateWrite i a.waddr (homeData a)
      (s.updAdapter i id (fun a => { a with fetching := false, fetchTag := none, lastUse := s.now.toNat }))) := by
  simp only [fetchArrives, held, untagged]

theorem execAdapterResident_arrived (held : s.adapterOf fn.toNat adapter.toNat = some a) (fetching : a.fetching = true) (here : a.away = false)
    (clean : a.poisoned = false) : execAdapterResident fn adapter .arrived s = .next (fetchArrives fn.toNat adapter.toNat s) := by
  simp [execAdapterResident, held, fetching, here, clean]

theorem execAdapterResident_poisoned (held : s.adapterOf fn.toNat adapter.toNat = some a) (fetching : a.fetching = true) :
    execAdapterResident fn adapter .poisoned s = .next (fetchFails fn.toNat adapter.toNat St.failedMemory s) := by
  simp [execAdapterResident, held, fetching]

theorem execAdapterResident_noAnswer (held : s.adapterOf fn.toNat adapter.toNat = some a) (fetching : a.fetching = true) :
    execAdapterResident fn adapter .noAnswer s = .next (fetchFails fn.toNat adapter.toNat St.timeoutFabric s) := by
  simp [execAdapterResident, held, fetching]

/-! ## An early read begins (R120) -/

/-- With a history of use, an adapter outside the hot set goes into a free slot, where the free quota has room for its pages. -/
theorem execEarlyRead_places {st : Stall} {k : Nat} (stall : s.stall fn.toNat = some st) (held : s.adapterOf fn.toNat adapter.toNat = some a)
    (absent : a.slot = none) (clean : a.poisoned = false) (history : (s.inst fn.toNat).adapters.any (fun x => x.lastUse != 0) = true)
    (quota : s.fixedUnits fn.toNat + s.adapterUnits fn.toNat + a.pages ≤ st.fast) (free : freeSlot (s.inst fn.toNat) st.hot = some k) :
    execEarlyRead fn adapter s = .next (placeFetch fn.toNat st a k true s) := by
  have used : (s.inst fn.toNat).adapters.all (fun x => x.lastUse == 0) = false := by
    rwa [List.all_eq_not_any_not, Bool.not_eq_false']
  simp [execEarlyRead, stall, held, absent, clean, used, free, Nat.not_lt.mpr quota]

end fetch

/-! ## A predicted fetch begins (R168, R87) -/

section predicted
variable {core : CoreId} {sram : BitVec 19} {len : BitVec 24} {mem : BitVec 48} {im : Image} {owner : Nat} {s : State}

/-- The descriptor of a predicted MOVE into SRAM (Table 3-9). -/
def predictedMove (sram : BitVec 19) (len : BitVec 24) (mem : BitVec 48) : Desc :=
  BitVec.ofNat 128 (5 + 1 <<< 10 + sram.toNat <<< 16 + len.toNat <<< 40 + mem.toNat <<< 64)

theorem execExpertPredictedFetch_queues (owned : s.ownerOf (core.toNat / 64) = some owner) (image : (s.inst owner).image = some im)
    (ok : moveOk (predictedMove sram len mem) = true) (lo : im.expertAddr ≤ sram.toNat) (hi : sram.toNat + len.toNat ≤ im.expertAddr + im.expertLen)
    (task : (s.work core.toNat).task.isSome = true) :
    execExpertPredictedFetch core sram len mem s = .next (queueMove (predictedMove sram len mem) true core.toNat (s.updWork core.toNat
      (fun w => { w with preds := w.preds ++ [{ sram := sram.toNat, len := len.toNat, mem := mem.toNat, done := false, dirty := false }] }))) := by
  rw [predictedMove] at ok ⊢
  simp only [execExpertPredictedFetch, groupOf, owned, Option.bind_some, image, ok, lo, hi, task, decide_true, Bool.and_self, if_true]

theorem queueMove_moveQ (d : Desc) (predicted : Bool) (c : Nat) (s : State) :
    ((queueMove d predicted c s).work c).moveQ = (s.work c).moveQ ++ [{ d := d, seq := (s.work c).seq, predicted := predicted }] := by
  rw [queueMove, State.work_updWork_self]

end predicted

/-- Settles O34: the three ends of a fetch, then the two speculative reads. -/
theorem residencyEvents : Obligations.ResidencyEvents := by
  unfold Obligations.ResidencyEvents
  intro fn adapter core sram len mem a st k im owner s i id c d
  refine ⟨fun held fetching here clean untagged => ?_, execAdapterResident_poisoned, execAdapterResident_noAnswer, execEarlyRead_places,
    fun owned image ok lo hi task => ?_⟩
  · exact (execAdapterResident_arrived held fetching here clean).trans (congrArg Host.Outcome.next (fetchArrives_untagged held untagged))
  · refine ⟨_, execExpertPredictedFetch_queues owned image ok lo hi task, ?_, ((SameBytes.refl s).updWork c _).updWork c _⟩
    rw [queueMove_moveQ, State.work_updWork_self]
    rfl

end Sys2Proof.Machine
end

section
/-! O5, O6, O19: row reductions, column trees, sources and conversions of the vector engine (05_tile_programs R132, R137, R139, R142, R143, R146). -/

namespace Sys2Proof.Machine

/-! ## Instructions with D, A and M that R130 allows where they stand -/

theorem insOk_insDA {args : Bytes} {tail : Bool} {opc : Nat} {d a : BitVec 5} {m : BitVec 6} {f : OpForm} (ho : opForm opc = some f) (hd : (f.d || d.toNat == 0) = true)
    (ha : (f.a || a.toNat == 0) = true) (hsec : (if tail then f.tail else f.row) = true) (hm : mOk args f.m m.toNat tail = true) :
    insOk args tail (insDA opc d a m) = true := by
  simp [insOk, insDA, ho, hd, ha, hsec, hm]

theorem mOk_lds {args : Bytes} {tail : Bool} (input : (streamD args 0).out = false) : mOk args .lds 0 tail = true := by simp [mOk, input]
theorem mOk_scale {args : Bytes} {tail : Bool} {m : Nat} (hm : m = 1 ∨ m = 2) : mOk args .scale m tail = true := by simpa [mOk] using hm
theorem mOk_send {args : Bytes} {tail : Bool} {m : Nat} (entry : m < 16) (stream : m % 8 ≤ 1 + (argHdr args).nextra) : mOk args .send m tail = true := by
  simp [mOk, entry, stream]

section acts
variable {core : Nat} {s : State} (hs : s.coreStopped core = false)
include hs

theorem tileStep_allowed {i : TIns} (hok : insOk (s.work core).eng.args (s.work core).eng.inTail i = true) : tileStep core i s = runIns core (s.work core).seq i s := by
  simp [tileStep, hs, hok]

/-! An allowed instruction that does more than compute its D, and that touches no SRAM itself, has the effect of its row of Table 5-7. -/

theorem tileStep_column {opc : Nat} (hc : opc = 0x28 ∨ opc = 0x29) {a : BitVec 5} {m : BitVec 6} (row : (s.work core).eng.inTail = false) (hm : m.toNat ≤ 3) :
    tileStep core (insDA opc 0 a m) s = runColumn core (s.work core).eng (insDA opc 0 a m) s := by
  have form : opForm opc = some { a := true, m := .tree, tail := false } := by rcases hc with rfl | rfl <;> rfl
  have ok : insOk (s.work core).eng.args (s.work core).eng.inTail (insDA opc 0 a m) = true := insOk_insDA form rfl rfl (by rw [row]; rfl) (decide_eq_true hm)
  rcases hc with rfl | rfl <;> exact (tileStep_allowed hs ok).trans (if_neg (ne_true_of_eq_false hs))

theorem tileStep_cvt {d a : BitVec 5} {m : BitVec 6} (hm : m.toNat ≤ 3) :
    tileStep core (insDA 0x2C d a m) s = runCvt core (s.work core).eng (insDA 0x2C d a m) s :=
  (tileStep_allowed hs (insOk_insDA rfl rfl rfl (ite_self _) (by exact decide_eq_true hm))).trans (if_neg (ne_true_of_eq_false hs))

theorem tileStep_rscale {d a : BitVec 5} {m : BitVec 6} (hm : m.toNat = 1 ∨ m.toNat = 2) (row : (s.work core).eng.inTail = false) :
    tileStep core (insDA 0x2D d a m) s = runRscale core (s.work core).eng (insDA 0x2D d a m) s :=
  (tileStep_allowed hs (insOk_insDA rfl rfl rfl (by rw [row]; rfl) (mOk_scale hm))).trans (if_neg (ne_true_of_eq_false hs))

theorem tileStep_bscale {d a : BitVec 5} (row : (s.work core).eng.inTail = false) :
    tileStep core (insDA 0x2E d a 0) s = runBscale core (s.work core).eng (insDA 0x2E d a 0) s :=
  (tileStep_allowed hs (insOk_insDA rfl rfl rfl (by rw [row]; rfl) rfl)).trans (if_neg (ne_true_of_eq_false hs))

theorem tileStep_tileSend {m : BitVec 6} (tail : (s.work core).eng.inTail = true) (entry : m.toNat < 16) (stream : m.toNat % 8 ≤ 1 + (argHdr (s.work core).eng.args).nextra) :
    tileStep core (insDA 0x30 0 0 m) s = runSend core (s.work core).seq (s.work core).eng (insDA 0x30 0 0 m) s :=
  (tileStep_allowed hs (insOk_insDA rfl rfl rfl (by rw [tail]; rfl) (mOk_send entry stream))).trans (if_neg (ne_true_of_eq_false hs))

end acts

/-! ## Lanes -/

theorem canon32_zero : canon32 0 = 0 := by decide

/-- A lane of a canonical register; a lane that is not listed is +0, its own canonical form. -/
theorem getD_canon32 (v : Lanes) (j : Nat) : (v.map canon32).getD j 0 = canon32 (v.getD j 0) := by
  simpa only [canon32_zero] using List.getD_map (l := v) (n := j) (d := 0) canon32

section lanes
variable {j : Nat} (hj : j < 64)
include hj

theorem getD_tabulate {α : Type} (f : Nat → α) (z : α) : ((List.range 64).map f).getD j z = f j := by
  simp [List.getD, hj]

theorem Engine.lanes_getD (e : Engine) (r : Nat) : (e.lanes r).getD j 0 = (e.reg r).getD j 0 := getD_tabulate hj _ 0

theorem Engine.lanes_map_getD {α : Type} (g : BitVec 32 → α) (z : α) (e : Engine) (r : Nat) : ((e.lanes r).map g).getD j z = g ((e.reg r).getD j 0) := by
  rw [Engine.lanes, List.map_map, getD_tabulate hj]
  rfl

/-- One value for each block of 32 lanes. -/
theorem getD_blocks (f : Nat → BitVec 32) : (List.replicate 32 (f 0) ++ List.replicate 32 (f 1)).getD j 0 = f (j / 32) := by
  by_cases low : j < 32
  · rw [List.getD_append _ _ _ _ (by simpa using low), List.getD_replicate _ low, Nat.div_eq_of_lt low]
  · have block : j / 32 = 1 := by omega
    rw [List.getD_append_right _ _ _ _ (by simpa using low), List.length_replicate, List.getD_replicate _ (by omega), block]

end lanes

/-- The lanes of an MX block. -/
theorem Engine.lanes_block (e : Engine) (r : Nat) {b : Nat} (hb : b < 2) :
    ((e.lanes r).drop (32 * b)).take 32 = (List.range 32).map (fun k => (e.reg r).getD (32 * b + k) 0) := by
  have block : ((List.range 64).drop (32 * b)).take 32 = (List.range 32).map (32 * b + ·) := by interval_cases b <;> rfl
  rw [Engine.lanes, ← List.map_drop, ← List.map_take, block, List.map_map]
  rfl

theorem putReg_lane (core : CoreId) (d : BitVec 5) (v : Lanes) (s : State) (j : Nat) : (putReg core.toNat d.toNat v s).lane core d j = v.getD j 0 := by
  rw [State.lane, putReg_reg]

/-- Lane `j` of what an allowed instruction with D, A and M computes. -/
theorem insDA_lane {core : CoreId} {s : State} (hs : s.runs core) {opc : Nat} {d a : BitVec 5} {m : BitVec 6} {v : Lanes} (hc : computes opc = true ∧ opc ≠ 0x03)
    (hok : insOk (s.work core.toNat).eng.args (s.work core.toNat).eng.inTail (insDA opc d a m) = true)
    (value : insValue core.toNat (s.work core.toNat).eng (insDA opc d a m) s = v.map canon32) (j : Nat) :
    (tileStep core.toNat (insDA opc d a m) s).lane core d j = canon32 (v.getD j 0) := by
  rw [lane_of_computes core _ d s hs hok (.inl hc.2) hc.1 rfl j, value, getD_canon32]

/-! ## Row reductions: O5 -/

/-- A reduction with the modifier S (R146). -/
theorem flagged_lane {core : CoreId} {s : State} (hs : s.runs core) (d a : BitVec 5) {opc : Nat} (hc : opc = 0x24 ∨ opc = 0x27) {m : BitVec 6} (hm : m.toNat ≤ 1)
    {j : Nat} (hj : j < 64) :
    let e := (s.work core.toNat).eng
    (tileStep core.toNat (insDA opc d a m) s).lane core d j = canon32 (reduceRow opc (m == 1 && !e.wide && (argHdr e.args).statfmt) (e.reg a.toNat)) := by
  intro e
  have flag : (m == 1) = (m.toNat == 1) := by
    rw [Bool.eq_iff_iff, beq_iff_eq, beq_iff_eq]
    exact BitVec.toNat_inj.symm
  have form : opForm opc = some { d := true, a := true, m := .flag } := by rcases hc with rfl | rfl <;> rfl
  have ok : insOk e.args e.inTail (insDA opc d a m) = true := insOk_insDA form rfl rfl (ite_self _) (decide_eq_true hm)
  rw [flag]
  rcases hc with rfl | rfl <;> exact (insDA_lane hs ⟨rfl, by decide⟩ ok rfl j).trans (congrArg canon32 (List.getD_replicate _ hj))

/-- Settles O5: three reductions have no modifier, two take S. -/
theorem rowReductions : Obligations.RowReductions := by
  unfold Obligations.RowReductions
  intro core d a m s hs hm e stat put
  refine ⟨⟨_, rfl, ?_⟩, ⟨_, rfl, ?_⟩, ⟨_, rfl, ?_⟩, ⟨_, rfl, ?_⟩, ⟨_, rfl, ?_⟩⟩
  · exact fun j => reduce_lane core d a s 0x23 j hs (by decide)
  · exact fun _ => flagged_lane hs d a (.inl rfl) hm
  · exact fun _ => flagged_lane hs d a (.inr rfl) hm
  · exact fun j => reduce_lane core d a s 0x25 j hs (by decide)
  · exact fun j => reduce_lane core d a s 0x26 j hs (by decide)

/-! ## Column trees: O6 -/

section columns
variable (core : Nat) (i : TIns) (s : State)

/-- A's lanes become the leaf at the row's index. -/
theorem runColumn_leaf :
    let e := (s.work core).eng
    Tbl.get [] (Tbl.get [] ((runColumn core e i s).work core).eng.trees i.m) e.row = (e.lanes i.a).map canon32 := by
  intro e
  rw [runColumn, markNonfinite_work, State.updEng_eng, Tbl.get_upd_self, Tbl.get_set_self]

/-- The kind of a tree is that of its latest leaf. -/
theorem runColumn_kind : ((runColumn core (s.work core).eng i s).work core).eng.maxTrees.contains i.m = (i.opc == 0x29) := by
  rw [runColumn, markNonfinite_work, State.updEng_eng]
  by_cases isMax : i.opc = 0x29
  · by_cases held : (s.work core).eng.maxTrees.contains i.m = true
    · simp only [isMax, held, if_true, beq_self_eq_true]
    · simp only [isMax, if_neg held, if_true, beq_self_eq_true, List.contains_cons, Bool.true_or]
  · simp [isMax]

end columns

theorem cget_lane {core : CoreId} {s : State} (hs : s.runs core) (d : BitVec 5) {m : BitVec 6} (hm : m.toNat ≤ 3) (tail : (s.work core.toNat).eng.inTail = true) (j : Nat) :
    let e := (s.work core.toNat).eng
    (tileStep core.toNat (insDA 0x2A d 0 m) s).lane core d j = canon32 ((columnRoot (e.maxTrees.contains m.toNat) (Tbl.get [] e.trees m.toNat)).getD j 0) :=
  insDA_lane hs ⟨rfl, by decide⟩ (insOk_insDA rfl rfl rfl (by rw [tail]; rfl) (by exact decide_eq_true hm)) rfl j

/-- Settles O6: a leaf goes in with its tree's kind, and CGET computes the root. -/
theorem columnTrees : Obligations.ColumnTrees := by
  unfold Obligations.ColumnTrees
  intro core d a m s hs hm e leaf
  exact ⟨fun row => ⟨_, congrArg Host.Outcome.next (tileStep_column hs (.inl rfl) row hm), runColumn_leaf _ (insDA 0x28 0 a m) s, runColumn_kind _ (insDA 0x28 0 a m) s⟩,
    fun row => ⟨_, congrArg Host.Outcome.next (tileStep_column hs (.inr rfl) row hm), runColumn_leaf _ (insDA 0x29 0 a m) s, runColumn_kind _ (insDA 0x29 0 a m) s⟩,
    fun tail => ⟨_, rfl, fun j _ => cget_lane hs d hm tail j⟩⟩

/-! ## Sources: O19 -/

section sources
variable {core : CoreId} {s : State} (hs : s.runs core) (d : BitVec 5)
include hs

theorem const_lane (m : BitVec 6) {j : Nat} (hj : j < 64) :
    (tileStep core.toNat (insDA 0x02 d 0 m) s).lane core d j = canon32 (constOf (s.work core.toNat).eng.args m.toNat) :=
  (insDA_lane hs ⟨rfl, by decide⟩ (insOk_insDA rfl rfl rfl (ite_self _) rfl) rfl j).trans (congrArg canon32 (List.getD_replicate _ hj))

theorem laneIndex_lane {j : Nat} (hj : j < 64) : (tileStep core.toNat (insDA 0x05 d 0 0) s).lane core d j = canon32 (toF32 (.fin false j 0)) :=
  (insDA_lane hs ⟨rfl, by decide⟩ (insOk_insDA rfl rfl rfl (ite_self _) rfl) rfl j).trans (congrArg canon32 (getD_tabulate hj _ 0))

theorem rownum_lane (row : (s.work core.toNat).eng.inTail = false) {j : Nat} (hj : j < 64) :
    (tileStep core.toNat (insDA 0x06 d 0 0) s).lane core d j = canon32 (toF32 (.fin false ((s.work core.toNat).eng.runRow % 2 ^ 24) 0)) :=
  (insDA_lane hs ⟨rfl, by decide⟩ (insOk_insDA rfl rfl rfl (by rw [row]; rfl) rfl) rfl j).trans (congrArg canon32 (List.getD_replicate _ hj))

/-- LDS of stream 0 in an epilogue reads no SRAM (R142). -/
theorem ldsAcc_lane (row : (s.work core.toNat).eng.inTail = false) (epilogue : (s.work core.toNat).eng.epilogue = true)
    (input : (streamD (s.work core.toNat).eng.args 0).out = false) (j : Nat) :
    (tileStep core.toNat (insDA 0x03 d 0 0) s).lane core d j = canon32 ((s.work core.toNat).eng.acc.getD j 0) := by
  have ok : insOk (s.work core.toNat).eng.args (s.work core.toNat).eng.inTail (insDA 0x03 d 0 0) = true := insOk_insDA rfl rfl rfl (by rw [row]; rfl) (mOk_lds input)
  have prepared : insValue core.toNat (s.work core.toNat).eng (insDA 0x03 d 0 0) s = (s.work core.toNat).eng.acc.map canon32 := by
    simp [insValue, insDA, ldsValue, epilogue]
  rw [lane_of_computes core _ d s hs ok (.inr (by rw [epilogue]; rfl)) rfl rfl j, prepared, getD_canon32]

theorem exec_lds_unfound : exec (.lds core d 0 []) s = .next (tileStep core.toNat (insDA 0x03 d 0 0) s) :=
  congrArg Host.Outcome.next (if_neg (ne_true_of_eq_false hs))

end sources

/-! ## Conversions and scales: O19 -/

/-- The multiplier of a block code: 1.0 for a block that holds a non-finite value (R139). -/
def blockMultiplier (code : Nat) : BitVec 32 := if code = 0xFF then one32 else multiplier code

section conversions
variable (core : CoreId) (d a : BitVec 5) (s : State)

theorem runCvt_lane (m : BitVec 6) {j : Nat} (hj : j < 64) :
    let f := streamFmt (m.toNat + 1)
    (runCvt core.toNat (s.work core.toNat).eng (insDA 0x2C d a m) s).lane core d j =
      if f = fp4 ∧ (f32 (s.lane core a j)).isFin = false then nan32 else canon32 (toF32 (decode f (convert f (f32 (s.lane core a j))).code)) := by
  intro f
  refine (putReg_lane ..).trans ((getD_tabulate hj _ 0).trans ?_)
  rw [Engine.lanes_getD hj, Engine.lanes_map_getD hj (fun x => convert _ (f32 x))]
  simp only [Bool.and_eq_true, decide_eq_true_eq, Bool.not_eq_true']
  rfl

/-- RSCALE puts one multiplier into every lane and latches its code. -/
theorem runRscale_effect (m : BitVec 6) :
    let code := rscaleCode (s.lane core a 0) m.toNat
    let t := runRscale core.toNat (s.work core.toNat).eng (insDA 0x2D d a m) s
    (∀ j < 64, t.lane core d j = multiplier code) ∧ (t.work core.toNat).eng.latch = .row code := by
  intro code t
  refine ⟨fun j hj => (putReg_lane ..).trans (List.getD_replicate _ hj), ?_⟩
  simp only [t, runRscale, putReg_eng, markNonfinite_work, State.updEng_eng]
  rfl

/-- BSCALE does so for each MX block. -/
theorem runBscale_effect :
    let block := fun b => blockScale ((List.range 32).map (fun k => f32 (s.lane core a (32 * b + k))))
    let t := runBscale core.toNat (s.work core.toNat).eng (insDA 0x2E d a 0) s
    (∀ j < 64, t.lane core d j = blockMultiplier (block (j / 32))) ∧ (t.work core.toNat).eng.latch = .blocks (block 0) (block 1) := by
  intro block t
  have code : ∀ b < 2, blockScale (((((s.work core.toNat).eng.lanes a.toNat).drop (32 * b)).take 32).map f32) = block b := fun b hb => by
    rw [Engine.lanes_block _ _ hb, List.map_map]; rfl
  have written : t = putReg core.toNat d.toNat (List.replicate 32 (blockMultiplier (block 0)) ++ List.replicate 32 (blockMultiplier (block 1)))
      (s.updEng core.toNat (fun e => { e with latch := .blocks (block 0) (block 1) })) := by
    rw [← code 0 (by decide), ← code 1 (by decide)]; rfl
  rw [written]
  refine ⟨fun j hj => (putReg_lane ..).trans (getD_blocks hj (fun b => blockMultiplier (block b))), ?_⟩
  rw [putReg_eng, State.updEng_eng]

end conversions

/-- Settles O19: the sources compute their D; CVT, RSCALE and BSCALE act as their own rows of Table 5-7. -/
theorem laneSourcesConversions : Obligations.LaneSourcesConversions := by
  unfold Obligations.LaneSourcesConversions
  constructor
  · intro core d m s hs e
    exact ⟨⟨_, rfl, fun _ => const_lane hs d m⟩, ⟨_, rfl, fun _ => laneIndex_lane hs d⟩, fun row => ⟨_, rfl, fun _ => rownum_lane hs d row⟩,
      fun row epilogue input => ⟨_, exec_lds_unfound hs d, fun j _ => ldsAcc_lane hs d row epilogue input j⟩⟩
  · intro core d a m s hs e x f row block
    refine ⟨fun hm => ⟨_, congrArg Host.Outcome.next (tileStep_cvt hs hm), fun _ => runCvt_lane core d a s m⟩, fun hm hrow => ?_,
      fun hrow => ⟨_, congrArg Host.Outcome.next (tileStep_bscale hs hrow), runBscale_effect core d a s⟩⟩
    obtain ⟨lanes, latch⟩ := runRscale_effect core d a s m
    exact ⟨_, _, congrArg Host.Outcome.next (tileStep_rscale hs hm hrow), lanes, latch, rscaleCode_eq (x 0) m.toNat⟩

end Sys2Proof.Machine
end

section
/-! O21: sends of tile programs (05_tile_programs R141), and which tile comes next (R127). -/

namespace Sys2Proof.Machine

/-! ## A send of a tile's rows (R141) -/

section send
variable (core seq : Nat) (e : Engine) (i : TIns) (s : State)

/-- A send that breaks no rule of R141 and reads no poisoned word hands the tile's rows to the sender. -/
theorem runSend_queues :
    let st := streamD e.args (i.m % 8)
    let x := sendEnt e.args (i.m / 8)
    let len := cdiv (e.tileRows * st.rowStride) 64 * 64
    let src := st.tile e.tile
    let dest := x.dest * 64 + e.tile * st.tileStride * 16
    let job : SendJob :=
      { seq := seq, remote := x.remote, sig := x.sig, ledger := false, data := s.sramRead core src len, dcore := x.core, dest := dest, flow := x.flow, sync := x.sync }
    0 < len → src + len ≤ sramBytes → dest + len ≤ sramBytes → (x.remote = false → s.sameStall core x.core = true) → (x.remote = true → dest % 64 = 0) →
    (x.sig = true → x.remote = false → s.coreObj core x.sync 0 = true) → s.sramPoison core src len = false →
    runSend core seq e i s = s.updWork core (fun w => { w with sendQ := w.sendQ ++ [job] }) := by
  intro st x len src dest job rows inside room near far signal sound
  refine (if_neg ?_).trans (if_neg (ne_true_of_eq_false sound))
  simp only [Bool.or_eq_true, Bool.and_eq_true, decide_eq_true_eq, Bool.not_eq_true', bne_iff_ne, not_or, not_and, Bool.not_eq_false, not_not, gt_iff_lt, not_lt, and_imp]
  exact ⟨⟨⟨⟨⟨rows.ne', inside⟩, room⟩, near⟩, far⟩, signal⟩

theorem runSend_faults :
    let st := streamD e.args (i.m % 8)
    let x := sendEnt e.args (i.m / 8)
    let len := cdiv (e.tileRows * st.rowStride) 64 * 64
    st.tile e.tile + len > sramBytes ∨ x.dest * 64 + e.tile * st.tileStride * 16 + len > sramBytes ∨ (x.remote = false ∧ s.sameStall core x.core = false) →
    runSend core seq e i s = descFaultAt core seq s := by
  intro st x len fault
  refine if_pos ?_
  simp only [Bool.or_eq_true, Bool.and_eq_true, decide_eq_true_eq, Bool.not_eq_true']
  rcases fault with out | out | away
  · exact .inl (.inl (.inl (.inl (.inr out))))
  · exact .inl (.inl (.inl (.inr out)))
  · exact .inl (.inl (.inr away))

end send

/-! ## The order of tiles (R127) -/

section order
variable {core : Nat} {s : State} {a : Att}

theorem nextTile_epilogue {q : EpiTile} {rest : List EpiTile} (front : (s.work core).epiQ = q :: rest) (held : attOf s core q.att = some a) (ready : s.streamsReady a.args = true) :
    nextTile core s = runTile core a q.acc q.acc.length (s.updWork core (fun w => { w with epiQ := rest })) := by
  simp only [nextTile, front, held, ready, if_true]

variable (clear : (s.work core).epiQ = [])
include clear

theorem nextTile_prologue (ready : prologueReady core s = some a) : nextTile core s = runTile core a [] (a.tileRows a.tilesDone) s := by
  simp only [nextTile, nextTile.afterEpilogue, clear, ready]

variable (blocked : prologueReady core s = none)
include blocked

theorem nextTile_run {id : Nat} (first : (s.work core).runReady = some id) (held : attOf (takeEffect core id s) core id = some a) (loaded : a.loaded = true)
    (ready : (takeEffect core id s).streamsReady a.args = true) : nextTile core s = runTile core a [] (a.tileRows a.tilesDone) (takeEffect core id s) := by
  simp only [nextTile, nextTile.afterEpilogue, clear, blocked, first, held, loaded, ready, Bool.and_self, if_true]

theorem nextTile_none (idle : (s.work core).runReady = none) : nextTile core s = s := by
  simp only [nextTile, nextTile.afterEpilogue, clear, blocked, idle]

end order

theorem exec_tileBegin {core : CoreId} {s t : State} (h : nextTile core.toNat s = t) : exec (.tileBegin core) s = .next (settle core.toNat (drainSends core.toNat t)) := by
  rw [← h]; rfl

/-- Settles O21: a send is queued or faults; the four outcomes of the engine's choice. -/
theorem tileSendsAndOrder : Obligations.TileSendsAndOrder := by
  unfold Obligations.TileSendsAndOrder
  constructor
  · intro core m s hs c w e st x len src dest tail entry stream
    have sends : exec (.tileSend core m) s = .next (runSend c w.seq e (insDA 0x30 0 0 m) s) := congrArg Host.Outcome.next (tileStep_tileSend hs tail entry stream)
    refine ⟨fun rows inside room near far signal sound => ?_, fun fault => sends.trans (congrArg Host.Outcome.next (runSend_faults c w.seq e (insDA 0x30 0 0 m) s fault))⟩
    rw [sends, runSend_queues c w.seq e (insDA 0x30 0 0 m) s rows inside room near far signal sound]
    refine ⟨_, rfl, ?_, (SameBytes.refl s).updWork c _⟩
    rw [State.work_updWork_self]
    rfl
  · intro core s c w after
    exact ⟨fun q rest a front held ready => exec_tileBegin (nextTile_epilogue front held ready), fun a clear ready => exec_tileBegin (nextTile_prologue clear ready),
      fun id a clear blocked first held loaded ready => exec_tileBegin (nextTile_run clear blocked first held loaded ready),
      fun clear blocked idle => exec_tileBegin (nextTile_none clear blocked idle)⟩

end Sys2Proof.Machine
end

section
/-! O33: the transit monitor and the levels of temperatures (08_almanac R212 to R216, 07_memory_protection R191). -/

namespace Sys2Proof.Machine

/-! ## The level of a temperature (R191, R215) -/

/-- A threshold holds its level: it has been reached, or it was reached before and is not yet left by more than 3 degrees. -/
def holdsLevel (l : List Nat) (old tenths i : Nat) : Bool :=
  decide (l.getD i 0 ≤ tenths) || (decide (i < old) && decide (l.getD i 0 < tenths + 30))

/-- One more than the last marked index of a range, or 0 where none is marked, exceeds just the indices up to a marked one. -/
theorem lt_foldl_lastMarked (mark : Nat → Bool) (m n : Nat) :
    n < (List.range m).foldl (fun lvl i => if mark i then i + 1 else lvl) 0 ↔ ∃ i, n ≤ i ∧ i < m ∧ mark i = true := by
  induction m with
  | zero => simp
  | succ m ih =>
    rw [List.range_succ, List.foldl_append, List.foldl_cons, List.foldl_nil]
    by_cases top : mark m = true
    · rw [if_pos top]
      exact ⟨fun h => ⟨m, by omega, by omega, top⟩, fun ⟨i, lo, hi, _⟩ => by omega⟩
    · rw [if_neg top, ih]
      refine ⟨fun ⟨i, lo, hi, marked⟩ => ⟨i, lo, by omega, marked⟩, fun ⟨i, lo, hi, marked⟩ => ⟨i, lo, ?_, marked⟩⟩
      have : i ≠ m := fun same => top (same ▸ marked)
      omega

theorem thermalLevel_eq (l : List Nat) (old tenths : Nat) :
    thermalLevel l old tenths = (List.range l.length).foldl (fun lvl i => if holdsLevel l old tenths i then i + 1 else lvl) 0 := by
  refine congrArg (fun f => (List.range l.length).foldl f 0) (funext fun lvl => funext fun i => ?_)
  by_cases reached : l.getD i 0 ≤ tenths
  · simp only [holdsLevel, reached, ge_iff_le, if_true, decide_true, Bool.true_or]
  · simp only [holdsLevel, reached, ge_iff_le, if_false, decide_false, Bool.false_or]
    rfl

theorem lt_thermalLevel_iff (l : List Nat) (old tenths n : Nat) :
    n < thermalLevel l old tenths ↔ ∃ i, n ≤ i ∧ i < l.length ∧ (l.getD i 0 ≤ tenths ∨ (i < old ∧ l.getD i 0 < tenths + 30)) := by
  rw [thermalLevel_eq, lt_foldl_lastMarked]
  simp only [holdsLevel, Bool.or_eq_true, Bool.and_eq_true, decide_eq_true_eq]

/-! ## The steps that cores count -/

section counts
variable (g rate : Nat) (s : State)

/-- What no count of steps shows in stays. -/
theorem countSteps_keeps {β : Type} (p : State → β) (h : ∀ (s : State) c, p (s.updCore c (fun x => { x with steps := x.steps + BitVec.ofNat 64 rate })) = p s) :
    p (countSteps g rate s) = p s := by
  unfold countSteps
  split
  · exact forEach_keeps p (fun k s => h s (g * 64 + k)) _ s
  · rfl

@[simp] theorem countSteps_group (k : Nat) : (countSteps g rate s).group k = s.group k := countSteps_keeps g rate s (·.group k) (fun _ _ => rfl)
@[simp] theorem countSteps_lines : (countSteps g rate s).lines = s.lines := countSteps_keeps g rate s State.lines (fun _ _ => rfl)
@[simp] theorem countSteps_out : (countSteps g rate s).out = s.out := countSteps_keeps g rate s State.out (fun _ _ => rfl)
@[simp] theorem countSteps_work (k : Nat) : (countSteps g rate s).work k = s.work k :=
  countSteps_keeps g rate s (·.work k) (fun s c => State.updCore_keeps Core.work (f := fun x => { x with steps := x.steps + BitVec.ofNat 64 rate }) (fun _ => rfl) s c k)
@[simp] theorem countSteps_busy (k : Nat) : groupBusy (countSteps g rate s) k = groupBusy s k := by simp [groupBusy]

end counts

/-! ## The supply that follows a measurement (R213) -/

section supply
variable (g rate : Nat) (busy : Bool) (x : Group)

@[simp] theorem adjustSupply_rate : (adjustSupply g rate busy x).rate = x.rate := by
  unfold adjustSupply; extract_lets; split_ifs <;> rfl
@[simp] theorem adjustSupply_low : (adjustSupply g rate busy x).low = x.low := by
  unfold adjustSupply; extract_lets; split_ifs <;> rfl

variable {rate}

/-- Below GUARD. -/
theorem adjustSupply_raises (below : rate < 2100) : (adjustSupply g rate busy x).vreq = some (BitVec.ofNat 10 (min 850 (x.vreqMv g + 10))) ∧
    (adjustSupply g rate busy x).mstate = if busy then 2 else 0 := by
  have guard : rate < guardRate := below
  rw [adjustSupply, if_pos guard]
  exact ⟨rfl, rfl⟩

/-- Below GUARD + 100, or less than a hundred times in a row above it. -/
theorem adjustSupply_holds (guard : 2100 ≤ rate) (short : rate < 2200 ∨ x.high + 1 < 100) : (adjustSupply g rate busy x).vreq = x.vreq := by
  rw [adjustSupply, if_neg (show ¬rate < guardRate from Nat.not_lt.mpr guard)]
  by_cases near : rate < guardRate + 100
  · rw [if_pos near]
  · have : ¬x.high + 1 ≥ 100 := by unfold guardRate at near; omega
    rw [if_neg near, if_neg this]

theorem adjustSupply_lowers (above : 2200 ≤ rate) (long : 100 ≤ x.high + 1) :
    (adjustSupply g rate busy x).vreq = some (BitVec.ofNat 10 (max (Config.vreqCal g) (x.vreqMv g - 5))) := by
  have guard : ¬rate < guardRate := by unfold guardRate; omega
  have near : ¬rate < guardRate + 100 := by unfold guardRate; omega
  rw [adjustSupply, if_neg guard, if_neg near, if_pos long]

end supply

/-! ## A measurement (R212, R214) -/

/-- A group with a measured RATE and the lowest of its RATEs. -/
def Group.measured (rate : BitVec 16) (x : Group) : Group := { x with rate := rate, low := if x.low = 0 ∨ rate.toNat < x.low.toNat then rate else x.low }

section measured
variable (g : Nat) (rate : BitVec 16) (s : State)

/-- The measurement with its RATE and LOW written first. -/
theorem measure_eq : measure g rate.toNat s =
    let s1 := s.updGroup g (Group.measured rate)
    if (s.group g).outOfService then s1
    else
      let s2 := countSteps g rate.toNat s1
      if rate.toNat < 2000 then speedFault g s2 else s2.updGroup g (adjustSupply g rate.toNat (groupBusy s2 g)) := by
  have record : Group.measured rate = fun x => { x with
      rate := BitVec.ofNat 16 rate.toNat, low := if x.low = 0 || rate.toNat < x.low.toNat then BitVec.ofNat 16 rate.toNat else x.low } := by
    funext x
    simp only [Group.measured, BitVec.ofNat_toNat, BitVec.setWidth_eq, Bool.or_eq_true, decide_eq_true_eq]
  rw [record]
  rfl

/-- In service and not below FLOOR, the supply follows, and nothing of the other groups. -/
theorem measure_adjusts (serves : (s.group g).outOfService = false) (floor : 2000 ≤ rate.toNat) :
    let t := measure g rate.toNat s
    t.group g = adjustSupply g rate.toNat (groupBusy s g) ((s.group g).measured rate) ∧ (∀ h, h ≠ g → t.group h = s.group h) ∧ t.lines = s.lines ∧ t.out = s.out := by
  intro t
  have written : t = (countSteps g rate.toNat (s.updGroup g (Group.measured rate))).updGroup g (adjustSupply g rate.toNat (groupBusy s g)) := by
    simp only [t, measure_eq, serves, Nat.not_lt.mpr floor, Bool.false_eq_true, if_false, countSteps_busy]
    rfl
  rw [written]
  refine ⟨?_, fun h other => ?_, ?_, ?_⟩
  · rw [State.group_updGroup_self, countSteps_group, State.group_updGroup_self]
  · rw [State.updGroup_group_ne _ _ _ _ other, countSteps_group, State.updGroup_group_ne _ _ _ _ other]
  · rw [State.updGroup_lines, countSteps_lines, State.updGroup_lines]
  · rw [State.updGroup_out, countSteps_out, State.updGroup_out]

end measured

/-- Settles O33: a measurement of a group out of service, below FLOOR, or with a supply to adjust; then temperatures, and the level each gives. -/
theorem thermalEvents : Obligations.ThermalEvents := by
  unfold Obligations.ThermalEvents
  refine ⟨?_, fun _ _ _ _ => ⟨rfl, rfl⟩, fun l old tenths n _ => lt_thermalLevel_iff l old tenths n⟩
  intro group rate s g x r s1
  refine ⟨fun out => ?_, fun serves slow => ?_, fun serves floor => ?_⟩
  · exact congrArg Host.Outcome.next ((measure_eq g rate s).trans (if_pos out))
  · exact congrArg Host.Outcome.next ((measure_eq g rate s).trans ((if_neg (ne_true_of_eq_false serves)).trans (if_pos slow)))
  · obtain ⟨adjusted, others, lines, out⟩ := measure_adjusts g rate s serves floor
    refine ⟨_, rfl, ?_, ?_, ?_, ?_, ?_, others, lines, out⟩ <;> rw [adjusted]
    · exact adjustSupply_rate ..
    · exact adjustSupply_low ..
    · exact adjustSupply_raises g _ _
    · exact adjustSupply_holds g _ (x.measured rate)
    · exact adjustSupply_lowers g _ (x.measured rate)

end Sys2Proof.Machine
end

section
/-! O36, O37: page moves, re-keying, scrub and repair (06_memory_tiers Table 6-5, 07_memory_protection R189 to R192, 14_isolation R391). -/

namespace Sys2Proof.Machine

/-! ## A page moves to the slow tier (Table 6-5 steps 1 and 2) -/

section move
variable {i page : Nat} {s : State}

/-- A page of the fast tier outside the base window goes to the slow set of its stall, PACKED where its region is for offload. -/
theorem moveTarget_slow {la : Nat} {e : Pte} {st : Stall} (stall : s.stall i = some st) (home : e.home = .fast) (priv : e.base = false) :
    moveTarget s i la e .slow = some (.slow, st.slowSet, match regionOf s i la with | some r => r.offload | none => false) := by
  simp only [moveTarget, stall, home, priv, Bool.false_or]
  rfl

/-- The move of a page begins: MOVING in its entry, a record, its activity running on the page and the parts of both sets. -/
def beginMove (i page : Nat) (key : Nat) (e : Pte) (home : Home) (set f : Nat) (done : Option Nat) (a : Act) (s : State) : State :=
  { s.setPte key { e with moving := true, moveId := freeMoveId s } with
    acts := s.acts.map (fun x => if x.id == a.id then { a with res := Res.page key :: (partsOf s e.set ++ partsOf s set).map Res.part, running := true } else x)
    moves := s.moves ++ [{ id := freeMoveId s, inst := i, page := page, home := home, set := set, frame := f, done := done }] }

/-- A declared move that the arbiter lets start and that finds a frame begins. -/
theorem pageMove_begins {dest : MoveTo} {key : Nat} {e : Pte} {home : Home} {set f : Nat} {packed : Bool} {a : Act} (entry : s.pageOf i (page * 65536) = (key, e))
    (target : moveTarget s i (page * 65536) e dest = some (home, set, packed)) (valid : e.valid = true) (still : e.moving = false) (held : e.home ≠ .store)
    (noSlot : (e.rt && s.rtRunning i) = false) (declared : actFor s .mv (.page key) = some a)
    (room : freeFrame s set ({ e with packed := packed } : Pte).frames (if e.big && !packed then 32 else 1) = some f)
    (free : mayStart s.acts { a with res := Res.page key :: (partsOf s e.set ++ partsOf s set).map Res.part } = true) :
    pageMove i page dest s = beginMove i page key e home set f (moveDone s i (page * 65536) dest) a s := by
  have moves : (!e.valid || e.moving || e.home == .store || (e.rt && s.rtRunning i)) = false := by
    rw [valid, still, noSlot, beq_false_of_ne held]; rfl
  simp only [pageMove, entry, target, moves, declared, room, free, Bool.not_true, Option.isNone_some, Bool.false_and, Bool.false_eq_true, if_false]
  rfl

end move

/-! ## A page move ends (Table 6-5 steps 3 to 5) -/

/-- An unpacked page that moves to the fast tier is copied line by line. -/
theorem pageMoveComplete_fast {id : Nat} {finds : List LineFind} {m : MoveRec} {s : State} {key : Nat} {e : Pte} (record : s.moves.find? (fun m => m.id == id) = some m)
    (entry : s.pageOf m.inst (m.page * 65536) = (key, e)) (valid : e.valid = true) (moving : e.moving = true) (own : e.moveId = id) (plain : e.packed = false)
    (fast : m.home = .fast) (silent : m.done = none) :
    pageMoveComplete id finds s =
      let e' := { e with home := m.home, set := m.set, frame := m.frame, moving := false, moveId := 0, packed := false }
      let s2 := zeroPage e e.frames ((copyLines m.inst key e e' (pageFirstLine (m.page * 65536) e) finds s).setPte key e')
      let s3 := { s2 with moves := s2.moves.filter (fun x => x.id != id) }
      match actFor s3 .mv (.page key) with | some a => endAct a.id s3 | none => s3 := by
  have acts : (!e.valid || !e.moving || e.moveId != id) = false := by
    rw [valid, moving, own, bne_self_eq_false]; rfl
  have notSlow : (m.home == .slow) = false := by rw [fast]; rfl
  have fits : (false != e.packed) = false := by rw [plain]; rfl
  have same : (false = e.packed) = True := eq_true plain.symm
  simp only [pageMoveComplete, record, entry, acts, notSlow, fits, same, silent, Bool.false_and, Bool.or_self, Bool.false_eq_true, if_false, if_true] <;> rfl

/-- Settles O36: a move to the slow tier begins, and a move to the fast tier ends. -/
theorem pageMoves : Obligations.PageMoves := by
  unfold Obligations.PageMoves
  constructor
  · intro inst page f a st s i la key e packed run stall valid still home priv noSlot declared room free
    have held : e.home ≠ .store := by rw [home]; decide
    have begins := pageMove_begins rfl (moveTarget_slow stall home priv) valid still held noSlot declared room free
    refine ⟨_, congrArg Host.Outcome.next begins, ?_, rfl, rfl, rfl⟩
    exact Tbl.get_set_self ..
  · intro id finds m s la key e e' s2 s3 record valid moving own plain fast silent
    exact congrArg Host.Outcome.next (pageMoveComplete_fast record rfl valid moving own plain fast silent)

/-! ## Re-keying (Table 7-4) -/

section rekey
variable {i page : Nat} {s : State}

/-- A page that is marked takes its record once its activity runs. -/
theorem rekeyPage_marked {key : Nat} {e : Pte} {a : Act} (entry : s.pageOf i (page * 65536) = (key, e)) (valid : e.valid = true) (priv : e.base = false)
    (marked : actFor s .rk (.page key) = some a) :
    rekeyPage i page s = if a.running then ensureRekey i key s else if mayStart s.acts a then ensureRekey i key (startAct a.id none s) else s := by
  simp only [rekeyPage, entry, valid, priv, marked, Bool.not_true, Bool.or_self, Option.isNone_some, Bool.false_and, Bool.false_eq_true, if_false]

theorem rekeyComplete_running {finds : List LineFind} {key : Nat} {e : Pte} {r : RekeyRec} {a : Act} (entry : s.pageOf i (page * 65536) = (key, e))
    (record : s.rekeyOf e key = some r) (marked : actFor s .rk (.page key) = some a) (running : a.running = true) :
    rekeyComplete i page finds s =
      let s1 := forEach (fun k s => rekeyLine i key e r (128 * k) (pageFirstLine (page * 65536) e + k) (findAt finds k) s) (List.range (e.frames * 512)) s
      let s2 := s1.setPte key { e with epoch := r.epoch, map := r.map }
      endAct a.id { s2 with rekeys := s2.rekeys.filter (fun x => x != r) } := by
  simp only [rekeyComplete, entry, record, marked, running, Bool.not_true, Bool.false_eq_true, if_false]

theorem lineRekey_recorded {line key : Nat} {e : Pte} {r : RekeyRec} (entry : s.pageOf i (line * 128) = (key, e)) (record : s.rekeyOf e key = some r) :
    lineRekey i line s = retryIngests i (rekeyLine i key e r (line * 128 % e.bytes) line goodFind s) := by
  simp only [lineRekey, entry, record]

end rekey

/-! ## Scrub (R189, R391) -/

section scrub
variable {part : Nat} {s : State}

theorem scrubVisit_heldOff (f : LineFind) (busy : scrubFree s part = false) : scrubVisit part f s = s := by
  rw [scrubVisit, busy]; rfl

/-- A line of no page whose errors are all corrected is counted against the device. -/
theorem scrubVisit_unowned {f : LineFind} (free : scrubFree s part = true) (nobody : ownerOfLine s part f.line = none) (corrected : findCorrected f = true)
    (words : findBadWords f = 0) (mdata : f.mdata ≠ .bad) : scrubVisit part f s = raiseDev 8 0 (frameDetail part (frameOfLine f.line)) (noteCorrections part f.line f s) := by
  have metadata : (f.mdata == .bad) = false := beq_false_of_ne mdata
  simp only [scrubVisit, free, nobody, corrected, words, metadata, Bool.not_true, bne_self_eq_false, Bool.or_self, Bool.false_eq_true, if_false, if_true]

end scrub

/-! ## Visits within a part's capacity -/

section capacity
variable {part : Fin 28} {s : State}

theorem execPatrolScrubVisit_within {find : LineFind} (inside : find.line < partLines part) : exec (.patrolScrubVisit part find) s = .next (scrubVisit part find s) :=
  if_neg (Nat.not_le.mpr inside)

theorem execFrameRetirement_within {frame : Nat} (row : Option Nat) (inside : frame * 512 < partLines part) :
    exec (.frameRetirement part frame row) s = .next (retireFrame part frame row s) :=
  if_neg (Nat.not_le.mpr inside)

theorem execTenantScrub_run {frame : Nat} {r : ScrubRun} (inside : frame * 512 < partLines part) (waits : scrubRun s part frame = some r) :
    exec (.tenantScrub part frame) s = .next (zeroPage { set := r.set, frame := r.frame } r.count { s with scrub := s.scrub.filter (fun x => x != r) }) := by
  refine (if_neg (Nat.not_le.mpr inside)).trans ?_
  rw [waits]

end capacity

/-! ## Repair (R190, R192) -/

/-- A frame that holds no page is retired as soon as its activity may run. -/
theorem retireFrame_empty {part frame : Nat} {a : Act} {s : State} (row : Option Nat) (declared : actFor s .fr (.frame part frame) = some a)
    (goes : a.running = true ∨ mayStart s.acts a = true) (empty : pagesOnFrame s part frame = []) :
    retireFrame part frame row s =
      let s2 := endAct a.id (raiseDev 8 2 (frameDetail part frame) { s with retired := s.retired ++ [(part, frame)] })
      row.elim s2 (fun r => spareRow part r s2) := by
  have started : (a.running || mayStart s.acts a) = true := Bool.or_eq_true_iff.mpr goes
  simp only [retireFrame, declared, started, empty, List.any_nil, Bool.not_true, Bool.or_self, Bool.false_eq_true, if_false, relocateAll]
  cases row <;> rfl

theorem execChannelRecal_declared {part : Fin 28} {channel : BitVec 7} {a : Act} {s : State} :
    let s1 := declareAct .pc [.channel part channel.toNat] none (part + channel.toNat <<< 5) (raiseDev 8 5 (part + channel.toNat <<< 5) s)
    findAct s1 s.nextAct = some a → exec (.channelRecal part channel) s = .next (if mayStart s1.acts a then startAct a.id none s1 else s1) := by
  intro s1 declared
  change Host.Outcome.next (match findAct s1 s.nextAct with | some a => if mayStart s1.acts a then startAct a.id none s1 else s1 | none => s1) = _
  rw [declared]

/-- Settles O37: the three steps of a re-keying, then each visit and repair. -/
theorem rekeyScrubRepair : Obligations.RekeyScrubRepair := by
  unfold Obligations.RekeyScrubRepair
  constructor
  · intro inst page line finds r r' a s i key e lkey le
    refine ⟨fun valid priv marked => ?_, fun record marked running => ?_, fun record => ?_⟩
    · exact congrArg Host.Outcome.next (rekeyPage_marked rfl valid priv marked)
    · exact congrArg Host.Outcome.next (rekeyComplete_running rfl record marked running)
    · exact congrArg Host.Outcome.next (lineRekey_recorded rfl record)
  · intro part channel frame row find a r s
    refine ⟨fun beyond => if_pos beyond, fun beyond => ⟨if_pos beyond, fun _ => if_pos beyond⟩, fun inside free nobody corrected words mdata => ?_,
      fun inside busy => ?_, fun inside declared goes empty => ⟨?_, ?_⟩, execChannelRecal_declared, execTenantScrub_run⟩
    · rw [execPatrolScrubVisit_within inside, scrubVisit_unowned free nobody corrected words mdata]
    · rw [execPatrolScrubVisit_within inside, scrubVisit_heldOff find busy]
    · exact (execFrameRetirement_within none inside).trans (congrArg Host.Outcome.next (retireFrame_empty none declared goes empty))
    · exact (execFrameRetirement_within (some row) inside).trans (congrArg Host.Outcome.next (retireFrame_empty (some row) declared goes empty))

end Sys2Proof.Machine
end

section
/-! O35, O17: activities of the maintenance arbiter (07_memory_protection R192 to R194, 16_power_reset R433), and the MAINT commands (13_command_set R346). -/

namespace Sys2Proof.Machine

/-! ## Activities start and end: O35 -/

section activities
variable {id tag : Nat} {a : Act} {s : State} (found : findAct s id = some a)
include found

/-- What the arbiter lets start starts; a hold gets the time at which it must end. -/
theorem execMaintActivityStart_starts (queued : a.running = false) (free : mayStart s.acts a = true) :
    exec (.maintActivityStart id) s = .next (startAct id (if a.kind = .mh then some (s.now.toNat + min a.arg 60 * 1000000000) else none) s) := by
  change execMaintActivityStart id s = _
  simp only [execMaintActivityStart, found, queued, free, Bool.not_false, Bool.and_self, if_true]

variable (result : BitVec 128) (running : a.running = true)
include running

theorem execMaintActivityEnd_groupTest (kind : a.kind = .cg) (asked : a.tag = some tag) :
    exec (.maintActivityEnd id result) s = .next (finishMaint tag St.done (result.toNat % 4) (endGroupTest a.arg (bit result 0) (bit result 1) (endAct id s))) := by
  change execMaintActivityEnd id result s = _
  simp only [execMaintActivityEnd, found, running, kind, asked, Bool.not_true, Bool.false_eq_true, if_false]

theorem execMaintActivityEnd_update (kind : a.kind = .fw) : exec (.maintActivityEnd id result) s = .next (endUpdate a s) := by
  change execMaintActivityEnd id result s = _
  simp only [execMaintActivityEnd, found, running, kind, Bool.not_true, Bool.false_eq_true, if_false]

/-- A recalibration that no command asked for leaves nothing but its end. -/
theorem execMaintActivityEnd_recal (kind : a.kind = .pc) (unasked : a.tag = none) : exec (.maintActivityEnd id result) s = .next (endAct id s) := by
  change execMaintActivityEnd id result s = _
  simp only [execMaintActivityEnd, found, running, kind, unasked, Bool.not_true, Bool.false_eq_true, if_false]

theorem execMeasurementHoldEnd_due {limit : Nat} (kind : a.kind = .mh) (ends : a.endBy = some limit) (due : limit ≤ s.now.toNat) (asked : a.tag = some tag) :
    exec (.measurementHoldEnd id) s = .next (finishMaint tag St.done 0 (endAct id s)) := by
  change execMeasurementHoldEnd id s = _
  simp only [execMeasurementHoldEnd, found, running, kind, ends, due, asked, decide_true, Bool.and_self, if_true]

end activities

/-- An update whose two Clerks run the patch set completes with the version that runs then (Table 16-4). -/
theorem endUpdate_done {tag : Nat} {a : Act} {s : State} (stage : s.sys.fwStage = 3) (asked : a.tag = some tag) :
    let s1 := (endAct a.id s).updSys (fun y => { y with fwStage := 0 })
    endUpdate a s = finishMaint tag St.done s1.fwVersion s1 := by
  have both : (s.sys.fwStage != 3) = false := bne_eq_false_iff_eq.mpr stage
  simp only [endUpdate, both, asked, Bool.false_eq_true, if_false]

/-- Settles O35: an activity starts; each kind that ends. -/
theorem activitiesRun : Obligations.ActivitiesRun := by
  unfold Obligations.ActivitiesRun
  intro id tag limit result a s found off
  refine ⟨fun queued free kind => ?_, fun queued free kind => ?_, execMaintActivityEnd_groupTest found result, execMaintActivityEnd_recal found result,
    fun running kind asked stage => ?_, fun kind running ends due asked => execMeasurementHoldEnd_due found running kind ends due asked⟩
  · rw [execMaintActivityStart_starts found queued free, if_neg kind]
  · rw [execMaintActivityStart_starts found queued free, if_pos kind]
  · exact (execMaintActivityEnd_update found result running kind).trans (congrArg Host.Outcome.next (endUpdate_done stage asked))

/-! ## MAINT commands: O17 -/

/-- A command that is accepted and whose own checks let it act. -/
theorem next_runCmd {fn : FnId} {e : Entry} {s : State} {r : Rules} {act : State → State} {t : State} (ok : Accepted fn e r s) (acts : act (takeOff fn.toNat e s) = t) :
    (Host.Outcome.next (runCmd fn.toNat e r act s) : Host.Outcome State Fault Refusal) = .next t :=
  congrArg Host.Outcome.next ((runCmd_accepted ok).trans acts)

/-- Settles O17: each command is accepted, and none of its own refusals applies. -/
theorem maintCommands : Obligations.MaintCommands := by
  unfold Obligations.MaintCommands
  constructor
  · intro fn e s i o s0 port m
    refine ⟨fun ok single fresh unused room => ?_, fun ok refused => ?_, fun ok noSrc noDst => ?_, fun ok storage room => ?_, fun ok idle => ?_, fun ok => ?_⟩
    · have full : (m == .storage && decide (storagePorts s0 port ≥ 8)) = false := by
        rcases room with other | few
        · rw [beq_false_of_ne other, Bool.false_and]
        · rw [decide_eq_false (Nat.not_le.mpr few), Bool.and_false]
      have blocked : (portInUse s0 port || (m == .storage && decide (storagePorts s0 port ≥ 8))) = false := by rw [unused, full]; rfl
      exact next_runCmd ok ((if_neg (ne_true_of_eq_false single)).trans ((if_neg fresh).trans (if_neg (ne_true_of_eq_false blocked))))
    · exact next_runCmd ok (if_pos refused)
    · have opened : (s0.flowSrc.any (fun f => f.2.opened) || s0.flowDst.any (fun f => f.2.opened)) = false := by rw [noSrc, noDst]; rfl
      exact next_runCmd ok (if_neg (ne_true_of_eq_false opened))
    · have mode : ((s0.port port).mode != .storage) = false := bne_eq_false_iff_eq.mpr storage
      exact next_runCmd ok ((if_neg (ne_true_of_eq_false mode)).trans (if_neg (Nat.not_le.mpr room)))
    · exact next_runCmd ok (if_neg (ne_true_of_eq_false idle))
    · exact next_runCmd ok rfl
  · intro fn e bs patch s i s0 part
    refine ⟨fun ok free => ?_, fun ok => next_runCmd ok rfl, fun ok => next_runCmd ok rfl, fun ok here signed => ?_, fun ok here unsigned => ?_⟩
    · refine next_runCmd ok (if_pos ?_)
      rw [free]
      rfl
    · refine next_runCmd ok ((withBuf_some _ _ _ _ here).trans (if_neg ?_))
      rw [signed]; decide
    · refine next_runCmd ok ((withBuf_some _ _ _ _ here).trans (if_pos ?_))
      rw [unsigned]; rfl

end Sys2Proof.Machine
end

section
/-! O57, O31: barriers, and the spilled copy of a core (08_almanac R218, R219, R223). -/

namespace Sys2Proof.Machine

/-! ## Barriers (R223): O57 -/

theorem SyncObj.arrive_counts {o : SyncObj} (others : o.count + 1 ≠ o.members) : o.arrive = { o with count := o.count + 1 } := if_neg others
theorem SyncObj.arrive_opens {o : SyncObj} (last : o.count + 1 = o.members) : o.arrive = { o with count := 0, phase := o.phase + 1 } := if_pos last

section barrier
variable {c k : Nat} {s : State}

/-- The front signal of a barrier arrives, and the core remembers the phase in which it did. -/
theorem signalActs_arrives {g : SigJob} {gs : List SigJob} (front : (s.work c).sigQ = g :: gs) (done : s.doneBefore c g.seq = true) (arrives : g.kind = 1) :
    signalActs c s = settle c ((s.updWork c (fun w => { w with sigQ := gs, lastBarrier := some (g.obj, (s.obj g.obj).phase.toNat) })).updObj g.obj SyncObj.arrive) := by
  simp only [signalActs, front, done, arrives, Bool.not_true, Bool.false_eq_true, if_false, if_true]
  rfl

variable (barrier : (s.obj k).kind = 1)
include barrier

/-- The core has arrived at this barrier: its WAIT is for the phase after the one of the arrival. -/
theorem satisfied_arrived {ph : Nat} (at_ : Nat) (arrived : (s.work c).lastBarrier = some (k, ph)) : s.satisfied c k at_ = true ↔ (s.obj k).phase.toNat ≠ ph := by
  simp [State.satisfied, barrier, arrived]

/-- The core's last arrival, if any, was elsewhere: its WAIT is for the phase after the one in which it began. -/
theorem satisfied_notArrived (at_ : Nat) (elsewhere : ∀ ph, (s.work c).lastBarrier ≠ some (k, ph)) : s.satisfied c k at_ = true ↔ (s.obj k).phase.toNat ≠ at_ := by
  match last : (s.work c).lastBarrier with
  | none => simp [State.satisfied, barrier, last]
  | some (b, ph) =>
    have other : b ≠ k := fun same => elsewhere ph (same ▸ last)
    simp [State.satisfied, barrier, last, other]

end barrier

/-- Settles O57: an arrival that does not open the barrier and one that does; a core's arrival; its WAIT. -/
theorem barriers : Obligations.Barriers := by
  unfold Obligations.Barriers
  intro core o g gs k at_ s c w b
  refine ⟨fun others => ?_, fun last => ?_, fun front done arrives => ?_, fun barrier => ⟨fun ph arrived => ?_, fun elsewhere => ?_⟩⟩
  · rw [SyncObj.arrive_counts others]
    exact ⟨rfl, rfl⟩
  · rw [SyncObj.arrive_opens last]
    exact ⟨rfl, rfl⟩
  · exact congrArg Host.Outcome.next (signalActs_arrives front done arrives)
  · exact satisfied_arrived barrier at_ arrived
  · exact satisfied_notArrived barrier at_ elsewhere

/-! ## The spilled copy of a core (R218, R219): O31 -/

/-- The keys of a canonical table are at or above its bound. -/
theorem Tbl.le_of_mem_wfFrom {α : Type} [DecidableEq α] {d : α} {t : Tbl α} {lo : Nat} (canonical : Tbl.wfFrom d lo t = true) : ∀ x ∈ t, lo ≤ x.1 := by
  induction t generalizing lo with
  | nil => simp
  | cons y t ih =>
    obtain ⟨k, v⟩ := y
    simp only [Tbl.wfFrom, Bool.and_eq_true, decide_eq_true_eq] at canonical
    obtain ⟨⟨low, _⟩, rest⟩ := canonical
    intro x hx
    rcases List.mem_cons.mp hx with rfl | later
    · exact low
    · have := ih rest x later
      omega

/-- A canonical table is its part below a key followed by its part from the key on. -/
theorem Tbl.filter_below_append_above {α : Type} [DecidableEq α] {d : α} {t : Tbl α} {lo : Nat} (a : Nat) (canonical : Tbl.wfFrom d lo t = true) :
    t.filter (fun x => decide (x.1 < a)) ++ t.filter (fun x => decide (a ≤ x.1)) = t := by
  induction t generalizing lo with
  | nil => rfl
  | cons y t ih =>
    have rest : Tbl.wfFrom d (y.1 + 1) t = true := (Bool.and_eq_true_iff.mp canonical).2
    by_cases below : y.1 < a
    · simp [below, ih rest]
    · have above : ∀ x ∈ y :: t, a ≤ x.1 := by
        intro x hx
        rcases List.mem_cons.mp hx with rfl | later
        · exact Nat.not_lt.mp below
        · have := Tbl.le_of_mem_wfFrom rest x later
          omega
      rw [List.filter_eq_nil_iff.mpr (fun x hx => by simpa using above x hx), List.filter_eq_self.mpr (fun x hx => by simpa using above x hx), List.nil_append]

section spill
variable (area core : Nat) (s : State)

/-- The copy that a core's bubble work leaves behind (log entry 22). -/
def Core.copyBelow (area : Nat) (c : Core) : Spilled :=
  { mem := c.sram.filter (fun x => decide (x.1 < area)), poison := c.poison.filter (fun w => decide (8 * w < area)), work := c.work }

@[simp] theorem core_spillCore : (spillCore area core s).core core = { s.core core with spilled := some ((s.core core).copyBelow area), work := (s.core core).work.emptied } :=
  State.core_updCore_self core _

/-- What comes back is the core as it was before; of its poison marks those below the area come first. -/
theorem core_restoreCore_spillCore (canonical : Mem.wf (s.core core).sram = true) :
    (restoreCore area core (spillCore area core s)).core core = { s.core core with
      spilled := none, poison := (s.core core).poison.filter (fun w => decide (8 * w < area)) ++ (s.core core).poison.filter (fun w => decide (area ≤ 8 * w)) } := by
  have whole := Tbl.filter_below_append_above area canonical
  simp only [restoreCore, State.core_updCore_self, core_spillCore, Core.copyBelow, List.filter_filter, Bool.and_self, whole]

end spill

/-- Settles O31: the restored core is the core of before, up to the order of its poison marks. -/
theorem spillRoundTrip : Obligations.SpillRoundTrip := by
  unfold Obligations.SpillRoundTrip
  intro area core s canonical a t
  have spilled : a.core core = _ := core_spillCore area core s
  have restored : t.core core = _ := core_restoreCore_spillCore area core s canonical
  have sram : (t.core core).sram = (s.core core).sram := by rw [restored]
  have kept : (t.core core).sram = (a.core core).sram := by rw [sram, spilled]
  refine ⟨?_, ?_, ?_, ?_, fun x _ => ?_, fun x _ => ?_, sram, fun w => ?_⟩
  · rw [spilled]; rfl
  · rw [State.work, spilled]; rfl
  · rw [restored]
  · rw [State.work, restored]; rfl
  · rw [State.sramRead, Core.bytes, sram]; rfl
  · rw [State.sramRead, Core.bytes, kept]; rfl
  · rw [restored]
    simp only [List.mem_append, List.mem_filter, decide_eq_true_eq, ← and_or_left, Nat.lt_or_ge, and_true]

end Sys2Proof.Machine
end

section
/-! O30, O32: bubble work, occurrences and new tables (08_almanac R198, R202, R206 to R210, R216 to R219, R225, R245). -/

namespace Sys2Proof.Machine

/-- Rounds that each leave the state as it is leave it so together. -/
theorem forEach_fixed {α : Type} {f : α → State → State} {l : List α} {s : State} (h : ∀ x ∈ l, f x s = s) : forEach f l s = s := by
  induction l with
  | nil => rfl
  | cons x l ih =>
    change forEach f l (f x s) = s
    rw [h x List.mem_cons_self]
    exact ih fun y hy => h y (List.mem_cons_of_mem x hy)

/-! ## Bubble work is suspended and restored (R216 to R219) -/

section bubble
variable {i : Nat} {st : Stall} {s : State} (held : s.stall i = some st)
include held

/-- Work with no transfer outstanding is spilled core by core. -/
theorem suspend_spills (active : st.suspended = false) (inProgress : bubbleInProgress (s.inst i) = true) (noMoves : st.cores.all (fun c => (s.work c).moveQ.isEmpty) = true) :
    suspend i s = forEach (spillCore (s.areaStart i)) st.cores (s.updStall i (fun st => { st with suspended := true })) := by
  have finished : forEach (fun c s => finishMoves c ((s.work c).moveQ.length) s) st.cores s = s := forEach_fixed fun c hc => by
    have noMove : (s.work c).moveQ = [] := List.isEmpty_iff.mp (List.all_eq_true.mp noMoves c hc)
    rw [noMove]
    rfl
  simp only [suspend, held, active, inProgress, finished, Bool.not_true, Bool.or_self, Bool.false_eq_true, if_false]

theorem resume_restores (suspended : st.suspended = true) (inTime : s.bubbleTime i st = true) (serves : s.serves st = true) (thawed : (s.inst i).frozen = false) :
    resume i s = forEach (restoreCore (s.areaStart i)) st.cores (s.updStall i (fun st => { st with suspended := false })) := by
  simp only [resume, held, suspended, inTime, serves, thawed, Bool.not_false, Bool.and_self, if_true]

/-! ## Sub-steps (R217, R245) -/

/-- Where bubble work may issue, the step in progress comes before the first that waits. -/
theorem substepStart_open {im : Image} (image : (s.inst i).image = some im) (active : st.suspended = false) (inTime : s.bubbleTime i st = true) (serves : s.serves st = true)
    (thawed : (s.inst i).frozen = false) (safe : s.sys.forceSafeN = true) :
    (∀ {p : Step} {k : Nat} {pr : Program}, (s.inst i).steps.find? (fun q => q.runsBubble) = some p → p.at_ = .bubble k → im.program p.program = some pr → p.cores = [] →
      k < im.lastSub pr → substepStart i s = startSubstep i im pr p.tag (k + 1) s) ∧
    (∀ {p : Step}, (s.inst i).steps.find? (fun q => q.runsBubble) = none → (s.inst i).steps.find? (fun q => q.kind != 0 && q.waits) = some p → p.at_ = .queued →
      substepStart i s = startBubble i st im p s) := by
  have free : (st.suspended || !s.bubbleTime i st || !s.serves st || (s.inst i).frozen || !s.sys.forceSafeN) = false := by
    rw [active, inTime, serves, thawed, safe]; rfl
  refine ⟨fun runs at_ program ended more => ?_, fun idle first queued => ?_⟩
  · simp only [substepStart, held, image, free, runs, at_, program, ended, more, List.isEmpty_nil, decide_true, Bool.and_self, Bool.false_eq_true, if_false, if_true]
  · simp only [substepStart, held, image, free, idle, first, queued, beq_self_eq_true, Bool.false_eq_true, if_false, if_true]

end bubble

theorem execBubbleSuspend_of_stall {fn : FnId} {st : Stall} {s : State} (held : s.stall fn.toNat = some st) :
    execBubbleSuspend fn s = .next (if s.bubbleTime fn.toNat st then s else suspend fn.toNat s) := by
  simp only [execBubbleSuspend, held]

/-- Settles O30: the end of the work's time, its next time, and the two ways in which a sub-step starts. -/
theorem bubbleWork : Obligations.BubbleWork := by
  unfold Obligations.BubbleWork
  intro fn st im pr p k s i u
  refine ⟨fun held late active inProgress noMoves => ?_, fun held inTime => ?_, fun held suspended inTime serves thawed => ?_,
    fun held image active inTime serves thawed safe => ?_⟩
  · refine (execBubbleSuspend_of_stall held).trans (congrArg Host.Outcome.next ?_)
    rw [if_neg (ne_true_of_eq_false late), suspend_spills held active inProgress noMoves]
  · exact (execBubbleSuspend_of_stall held).trans (congrArg Host.Outcome.next (if_pos inTime))
  · exact congrArg Host.Outcome.next (resume_restores held suspended inTime serves thawed)
  · obtain ⟨next, first⟩ := substepStart_open held image active inTime serves thawed safe
    exact ⟨fun runs at_ program ended more => congrArg Host.Outcome.next (next runs at_ program ended more),
      fun idle waits queued => congrArg Host.Outcome.next (first idle waits queued)⟩

/-! ## Occurrences run (R198, R206, R208, R225) -/

section occurrence
variable {i slot occ : Nat} {s : State}

theorem occurrenceAt_accepted {im : Image} {pr : Program} {p : Step} (accepted : acceptedStep (s.inst i) slot occ = some p) (image : (s.inst i).image = some im)
    (program : im.program p.program = some pr) :
    occurrenceAt i slot occ s = if s.now.toNat < p.begins then s else
      askRows i p.tag (startTasks i p.tag false (im.tasksOf pr 0)
        ((clearClips i false (renewRealTime i s)).updStep i p.tag (fun p => { p with at_ := .running slot occ p.begins }))) := by
  have known : s.progOf i p.program = some pr := by simp only [State.progOf, image, program]
  simp only [occurrenceAt, accepted, known, image]

/-- The occurrence is lent no longer, where it was (R208). -/
def unlend (i slot occ : Nat) (s : State) : State := s.updStall i (fun st => if st.lent == some (slot, occ) then { st with lent := none } else st)

section inTable
variable {tbl : Almanac} {sl : Slot} {start : Nat} (table : (s.inst i).almanac = some tbl) (begins : tbl.startOf slot occ = some (sl, start))
include table begins

/-- Until the end of LENGTH nothing happens. -/
theorem slotEnd_early (early : s.now.toNat < start + sl.length) : slotEnd i slot occ s = s := by
  simp only [slotEnd, table, Option.bind_some, begins, early, if_true]

variable (past : start + sl.length ≤ s.now.toNat)
include past

theorem slotEnd_noStep (idle : ((unlend i slot occ s).inst i).steps.find? (Step.inOccurrence slot occ) = none) : slotEnd i slot occ s = unlend i slot occ s := by
  unfold unlend at idle
  simp only [slotEnd, table, Option.bind_some, begins, Nat.not_lt.mpr past, if_false, idle]
  rfl

theorem slotEnd_stops {p : Step} (runs : ((unlend i slot occ s).inst i).steps.find? (Step.inOccurrence slot occ) = some p) :
    let ended := unlend i slot occ s
    slotEnd i slot occ s = stepBoundary i (failStep i p.tag (stopCause ended i) (raise i 1 8 (p.tag % 2 ^ 32) ended)) := by
  unfold unlend at runs
  simp only [slotEnd, table, Option.bind_some, begins, Nat.not_lt.mpr past, if_false, runs]
  rfl

end inTable
end occurrence

/-! ## A new table (R202, R210) -/

/-- A condition of R202 that holds a new table back. -/
def switchHeld (i : Nat) (tbl : Almanac) (s : State) : Prop :=
  occurrencesOpen (s.inst i) = true ∨ s.now.toNat < tbl.start ∨ (s.now.toNat - tbl.start) % tbl.cycle ≠ 0 ∨ s.now.toNat < lastEnd s i

theorem switchHeld_iff {i : Nat} {tbl : Almanac} {s : State} : switchHeld i tbl s ↔
    (occurrencesOpen (s.inst i) || decide (s.now.toNat < tbl.start) || (s.now.toNat - tbl.start) % tbl.cycle != 0 || decide (s.now.toNat < lastEnd s i)) = true := by
  simp only [switchHeld, Bool.or_eq_true, decide_eq_true_eq, bne_iff_ne, or_assoc]

section newTable
variable {i : Nat} {tbl : Almanac} {s : State} (waits : (s.inst i).nextAlmanac = some tbl)
include waits

theorem almanacSwitch_held (held : switchHeld i tbl s) : almanacSwitch i s = s := by
  simp only [almanacSwitch, waits, switchHeld_iff.mp held, if_true]

/-- Held back by nothing, the table takes effect, and the command that set it completes. -/
theorem almanacSwitch_free {tag : Nat} (free : ¬switchHeld i tbl s) (tagged : tbl.tag = some tag) :
    almanacSwitch i s = refitWaiting i (finish i tag St.done 0
      ((s.updInst i (fun n => { n with almanac := some { tbl with tag := none }, nextAlmanac := none })).updStall i (fun st => { st with lent := none }))) := by
  have gate := Bool.eq_false_of_not_eq_true (mt switchHeld_iff.mpr free)
  simp only [almanacSwitch, waits, gate, tagged, Bool.false_eq_true, if_false]

end newTable

/-- Settles O32: an occurrence starts, ends before its time, ends with no step or with one to stop; a new table waits or takes effect. -/
theorem occurrencesRun : Obligations.OccurrencesRun := by
  unfold Obligations.OccurrencesRun
  constructor
  · intro fn slot occ start tbl sl im pr p s i n ended front
    refine ⟨fun accepted image program => ?_, fun table begins early => ?_, fun table begins past idle => ?_, fun table begins past runs => ?_⟩
    · exact congrArg Host.Outcome.next (occurrenceAt_accepted accepted image program)
    · exact congrArg Host.Outcome.next (slotEnd_early table begins early)
    · exact congrArg Host.Outcome.next (slotEnd_noStep table begins past idle)
    · exact congrArg Host.Outcome.next (slotEnd_stops table begins past runs)
  · intro fn tbl tag s i waits
    refine ⟨fun held => congrArg Host.Outcome.next (almanacSwitch_held waits held), fun closed begun atCycle last tagged => ?_⟩
    have free : ¬switchHeld i tbl s := by
      rintro (opened | early | between | busy)
      · exact absurd opened (ne_true_of_eq_false closed)
      · exact absurd begun (Nat.not_le.mpr early)
      · exact between atCycle
      · exact absurd last (Nat.not_le.mpr busy)
    exact congrArg Host.Outcome.next (almanacSwitch_free waits free tagged)

end Sys2Proof.Machine
end

section
/-! O29: decision points of real-time slots (08_almanac R202, R203, R207, R208, R210, R214, R216). -/

namespace Sys2Proof.Machine

/-! ## What a decision point decides -/

section decides
variable {i slot occ start : Nat} {sl : Slot} {st : Stall} {im : Image} {pr : Program} {s : State}

/-- At heat level 2, and while FORCE_SAFE_N is low, every waiting step of the program is refused (R216, R423). -/
theorem decide_hot (hot : (s.heat st).1 ≥ 2 ∨ s.sys.forceSafeN = false) : decide_ i slot occ start sl st im pr s = refuseWaiting i sl.program true s := by
  have refuses : (decide ((s.heat st).1 ≥ 2) || !s.sys.forceSafeN) = true := by simpa using hot
  exact if_pos refuses

/-- Neither heat nor FORCE_SAFE_N refuses a step. -/
theorem refusesHot_eq_false (cool : ¬((s.heat st).1 ≥ 2 ∨ s.sys.forceSafeN = false)) : (decide ((s.heat st).1 ≥ 2) || !s.sys.forceSafeN) = false := by
  simpa using cool

section cool
variable (cool : ¬((s.heat st).1 ≥ 2 ∨ s.sys.forceSafeN = false)) (whole : s.sys.stoppedHalf = none)
include cool whole

theorem decide_faulted (faulted : s.stallFaulted st = true) : decide_ i slot occ start sl st im pr s = lend i slot occ sl.length st (refuseWaiting i sl.program false s) := by
  simp only [decide_, refusesHot_eq_false cool, whole, faulted, Option.isSome_none, Bool.or_true, Bool.false_eq_true, if_false, if_true]

variable (sound : s.stallFaulted st = false)
include sound

theorem decide_idle (idle : (s.inst i).steps.find? (fun p => p.kind == 0 && p.waits) = none) : decide_ i slot occ start sl st im pr s = lend i slot occ sl.length st s := by
  simp only [decide_, refusesHot_eq_false cool, whole, sound, Option.isSome_none, Bool.or_self, idle, Bool.false_eq_true, if_false]

variable {p : Step} (first : (s.inst i).steps.find? (fun p => p.kind == 0 && p.waits) = some p)
include first

theorem decide_otherProgram (other : p.program ≠ sl.program) : decide_ i slot occ start sl st im pr s = lend i slot occ sl.length st s := by
  simp only [decide_, refusesHot_eq_false cool, whole, sound, Option.isSome_none, Bool.or_self, first, bne_iff_ne.mpr other, Bool.false_eq_true, if_false, if_true]

variable (program : p.program = sl.program)
include program

theorem decide_parks (missing : s.allResident i p = false) : decide_ i slot occ start sl st im pr s = lend i slot occ sl.length st (park i p.tag s) := by
  simp only [decide_, refusesHot_eq_false cool, whole, sound, Option.isSome_none, Bool.or_self, first, program, missing, bne_self_eq_false,
    Bool.not_false, Bool.false_eq_true, if_false, if_true]

variable (resident : s.allResident i p = true)
include resident

theorem decide_noFit (noFit : s.fits i st im pr p sl = false) : decide_ i slot occ start sl st im pr s = lend i slot occ sl.length st s := by
  simp only [decide_, refusesHot_eq_false cool, whole, sound, Option.isSome_none, Bool.or_self, first, program, resident, noFit,
    bne_self_eq_false, Bool.not_true, Bool.not_false, Bool.or_true, Bool.true_or, Bool.false_eq_true, if_false, if_true]

theorem decide_accepts (serves : s.serves st = true) (fits : s.fits i st im pr p sl = true) (rows : s.rowsHere p = true) :
    decide_ i slot occ start sl st im pr s = startFetches i (writeTickets i p.tag false st im pr
      ((s.updStall i (fun st => { st with busyUntil := start + sl.length })).updStep i p.tag
        (fun p => { p with at_ := .accepted slot occ start, begins := start, bound := some (start + sl.bound) }))) := by
  simp only [decide_, accept, refusesHot_eq_false cool, whole, sound, Option.isSome_none, Bool.or_self, first, program, resident, serves, fits, rows,
    bne_self_eq_false, Bool.not_true, Bool.false_eq_true, if_false]

end cool
end decides

/-- The decision point of an occurrence that is due and free: while a new table waits the occurrence is lent, and else the boundary's work and the gap check come first. -/
theorem decisionAt_due {i slot occ start : Nat} {tbl : Almanac} {sl : Slot} {st : Stall} {im : Image} {pr : Program} {s : State}
    (held : (s.inst i).stall = some st) (image : (s.inst i).image = some im) (table : (s.inst i).almanac = some tbl) (begins : tbl.startOf slot occ = some (sl, start))
    (program : im.program sl.program = some pr) (realTime : sl.bubble = false) (thawed : (s.inst i).frozen = false) (alive : s.sys.fatal = false) (kept : st.lent ≠ some (slot, occ))
    (near : start ≤ s.now.toNat + 20000) (ahead : s.now.toNat < start) (unbound : (s.inst i).steps.any (fun q => q.begins == start && !q.waits) = false) :
    decisionAt i slot occ s = if (s.inst i).nextAlmanac.isSome = true then lend i slot occ sl.length st s
      else decide_ i slot occ start sl st im pr (gapCheck i (stepBoundary i s)) := by
  have notLent : (st.lent == some (slot, occ)) = false := beq_false_of_ne kept
  have due : (sl.bubble || (s.inst i).frozen || s.sys.fatal || st.lent == some (slot, occ) || decide (s.now.toNat + 20000 < start) || decide (s.now.toNat ≥ start)
      || (s.inst i).steps.any (fun q => q.begins == start && !q.waits)) = false := by
    rw [realTime, thawed, alive, notLent, unbound, decide_eq_false (Nat.not_lt.mpr near), decide_eq_false (Nat.not_le.mpr ahead)]
    rfl
  simp only [decisionAt, held, image, table, begins, program, due, Bool.false_eq_true, if_false]

/-- Settles O29: a table that waits, then the answers of the decision in its order. -/
theorem decisionPoints : Obligations.DecisionPoints := by
  unfold Obligations.DecisionPoints
  intro fn slot occ start tbl sl st im pr p s i n u hot waiting answers held image table begins program realTime thawed alive kept near ahead unbound
  have point := decisionAt_due held image table begins program realTime thawed alive kept near ahead unbound
  refine ⟨fun newTable => congrArg Host.Outcome.next (point.trans (if_pos newTable)), fun noTable => ?_⟩
  have decides : ∀ {t}, decide_ i slot occ start sl st im pr u = t → answers t := fun h =>
    congrArg Host.Outcome.next ((point.trans (if_neg (by rw [show (s.inst i).nextAlmanac = none from noTable]; decide))).trans h)
  refine ⟨fun heat => decides (decide_hot heat), fun cool whole => ⟨fun faulted => decides (decide_faulted cool whole faulted), fun sound =>
    ⟨fun idle => decides (decide_idle cool whole sound idle), fun first =>
      ⟨fun other => decides (decide_otherProgram cool whole sound first other), fun same => ⟨?_, ?_, ?_⟩⟩⟩⟩⟩
  · exact fun missing => decides (decide_parks cool whole sound first same missing)
  · exact fun resident noFit => decides (decide_noFit cool whole sound first same resident noFit)
  · exact fun resident serves fits rows => decides (decide_accepts cool whole sound first same resident serves fits rows)

end Sys2Proof.Machine
end

section
/-! O38, O39: the sweep and the commit of a fine-tuning step, and the rows of a job (09_fine_tuning R236 to R242, R251 to R254). -/

namespace Sys2Proof.Machine

/-! ## The sweep (R236 to R241, R254) -/

/-- A sweep begins when every sub-step has ended and no snapshot is being read, whatever bank one would read. -/
theorem execSweepStart_noSnapshot {fn : FnId} {p : Step} {j : Job} {s : State} (finds : List LineFind) (ready : sweepReady s fn.toNat = some (p, j)) (unread : j.snapshot = none) :
    let swept := sweepAll fn.toNat j p finds j.tensors 0 ({ crc := crc64Go 0xFFFFFFFFFFFFFFFF (digestHead j p) }, s)
    exec (.sweepStart fn finds) s =
      .next ((swept.2.updJob fn.toNat j.id (fun j => { j with sweep := swept.1.res, digest := BitVec.ofNat 64 (swept.1.crc ^^^ 0xFFFFFFFFFFFFFFFF) })).updStep fn.toNat p.tag
        (fun p => { p with
          at_ := .sweeping, nonfinite := p.nonfinite || swept.1.wild, failed := p.failed || swept.1.poisoned
          cause := if swept.1.poisoned then some (p.cause.getD .memory) else p.cause })) := by
  change execSweepStart fn finds s = _
  simp only [execSweepStart, ready, unread, Bool.false_eq_true, if_false]

/-- A sweep that is not paused ends with the device's contribution. -/
theorem execSweepEnd_contributes {fn : FnId} {p : Step} {j : Job} {s : State} (sweeping : (s.inst fn.toNat).steps.find? (fun p => p.at_ == .sweeping) = some p)
    (unpaused : sweepPaused s fn.toNat = false) (held : s.jobOf fn.toNat p.job = some j) :
    exec (.sweepEnd fn) s = .next (contribute fn.toNat p.job p.contribution j.digest (s.updStep fn.toNat p.tag (fun p => { p with at_ := .verdict }))) := by
  change execSweepEnd fn s = _
  simp only [execSweepEnd, sweeping, unpaused, held, Bool.false_eq_true, if_false]

/-! ## The commit, from its third step on (R252, Table 9-5) -/

section commit
variable {fn : FnId} {job : BitVec 32} {p : Step} {s : State} (found : s.jobStep fn.toNat job.toNat = some p)
include found

theorem execWorkingCopyConverted_converts (committing : p.at_ = .committing false) :
    exec (.workingCopyConverted fn job) s = .next (stepBoundary fn.toNat (completeCommit fn.toNat job.toNat
      ((convertWorking fn.toNat job.toNat s).updStep fn.toNat p.tag (fun p => { p with at_ := .committing true })))) := by
  change execWorkingCopyConverted fn job s = _
  simp only [execWorkingCopyConverted, found, committing]

theorem execExportWindowResume_converted (committing : p.at_ = .committing true) :
    exec (.exportWindowResume fn job) s = .next (stepBoundary fn.toNat (completeCommit fn.toNat job.toNat s)) := by
  change execExportWindowResume fn job s = _
  simp only [execExportWindowResume, found, committing]

end commit

/-- Settles O38: the sweep's two rows, then the commit's two. -/
theorem sweepAndCommit : Obligations.SweepAndCommit := by
  unfold Obligations.SweepAndCommit
  intro fn job finds p j s i swept acc
  exact ⟨execSweepStart_noSnapshot finds, execSweepEnd_contributes, execWorkingCopyConverted_converts, execExportWindowResume_converted⟩

/-! ## Rows of a job (R242, R254, R316, R345) -/

section job
variable {fn : FnId} {job : BitVec 32} {j : Job} {s : State} (held : s.jobOf fn.toNat job.toNat = some j)
include held

/-- Before the verdict's time is out VERDICT_TIMEOUT has no effect. -/
theorem execVerdictTimeout_early (early : s.now.toNat < j.contribAt + j.timeoutUs * 1000) : exec (.verdictTimeout fn job) s = .next s := by
  have waits : (!j.contributed || decide (s.now.toNat < j.contribAt + j.timeoutUs * 1000)) = true := by rw [decide_eq_true early, Bool.or_true]
  change execVerdictTimeout fn job s = _
  simp only [execVerdictTimeout, held, waits, if_true]

/-- A verdict that has not come in time: the device leaves the job, and the job's step ends with the last COMMITTED (R242). -/
theorem execVerdictTimeout_due {p : Step} (contributed : j.contributed = true) (due : j.contribAt + j.timeoutUs * 1000 ≤ s.now.toNat) (plain : j.reshard = none) :
    let left := (raise fn.toNat 3 7 job.toNat (clearVotes fn.toNat job.toNat s)).updJob fn.toNat job.toNat
      (fun j => { j with sweep := [], pendClips := [], st := .jLost, lost := j.lost ++ [s.sys.devId.toNat] })
    left.jobStep fn.toNat job.toNat = some p → exec (.verdictTimeout fn job) s = .next (endStep fn.toNat p.tag St.timeoutFabric j.committed left) := by
  intro left stepped
  have late : (!j.contributed || decide (s.now.toNat < j.contribAt + j.timeoutUs * 1000)) = false := by
    rw [contributed, decide_eq_false (Nat.not_lt.mpr due)]
    rfl
  change execVerdictTimeout fn job s = _
  simp only [execVerdictTimeout, held, late, plain, Bool.false_eq_true, if_false]
  rw [stepped]

/-- The set at the head of the queue is visible once all its writes are done: the notify word follows it, and the next set goes (R316, R345). -/
theorem execRecordSetDelivered_visible {x : Export} {c : Nat} {bs : Bytes} {rest : List (Nat × Bytes)} (exporting : j.exp = some x) (head : x.queue = (c, bs) :: rest)
    (written : x.delivered = c) (done : s.rdmaOpen fn.toNat (.recordSet job.toNat) = false) (reachable : (s.fn fn.toNat).mayWrite = true) :
    exec (.recordSetDelivered fn job) s = .next (exportPump fn.toNat job.toNat (replaceExport fn.toNat job.toNat
      ((setExportBit fn.toNat (s.emit (.notify fn.toNat x.spec.notify (BitVec.ofNat 64 c)))).updJob fn.toNat job.toNat (fun j => { j with exp := some { x with queue := rest } })))) := by
  have whole : (x.delivered != c || s.rdmaOpen fn.toNat (.recordSet job.toNat) || !(s.fn fn.toNat).mayWrite) = false := by
    rw [bne_eq_false_iff_eq.mpr written, done, reachable]
    rfl
  change execRecordSetDelivered fn job s = _
  simp only [execRecordSetDelivered, held, Option.bind_some, exporting, head, whole, Bool.false_eq_true, if_false]

/-- A snapshot for the host is written there, and its command completes with length and step (R254). -/
theorem execShardSnapshotComplete_toHost {x : Snapshot} (taken : j.snapshot = some x) (host : x.storage = false) :
    exec (.shardSnapshotComplete fn job) s = .next (finish fn.toNat x.tag St.done (x.shard.length + x.step <<< 64)
      (hostWrite fn.toNat x.addr x.shard (s.updJob fn.toNat job.toNat (fun j => { j with snapshot := none })))) := by
  change execShardSnapshotComplete fn job s = _
  simp only [execShardSnapshotComplete, held, Option.bind_some, taken, host, Bool.not_false, if_true]

end job

/-- Settles O39: the verdict's time is out, or not yet; a record set is delivered; a snapshot goes to the host. -/
theorem jobEvents : Obligations.JobEvents := by
  unfold Obligations.JobEvents
  intro fn job c bs rest x sh p j s i id held
  exact ⟨execVerdictTimeout_due held, execVerdictTimeout_early held, execRecordSetDelivered_visible held, execShardSnapshotComplete_toHost held⟩

end Sys2Proof.Machine
end

section
/-! O40, O41: the frames that a link has taken, and DATA frames of an open flow (10_fabric R257 to R264, R272, R274). -/

namespace Sys2Proof.Machine

/-! ## Frames that a link has taken (R257 to R264): O40 -/

section received
variable {port typ : Nat} {f : RxFrame} {s s1 : State}

/-- A frame that the link has taken, that has no fault and that is for this device acts. -/
theorem onFrame_received (act : Hdr → State → State) (received : Received port typ f s s1) : onFrame port typ f act s = act (Hdr.parse f.hdr) s1 := by
  obtain ⟨own, sound, s0, link, inService, here, rfl⟩ := received
  have passes : ((s0.port port).st != .up && !(typ == 8 || typ == 9 || typ == 0xB)) = false := by
    rcases inService with up | rfl | rfl | rfl
    · rw [up]; rfl
    all_goals exact Bool.and_false _
  have local_ : (decide ((Hdr.parse f.hdr).vc = 0) || decide ((Hdr.parse f.hdr).dest = s0.sys.devId.toNat)) = true := by
    simpa only [Bool.or_eq_true, decide_eq_true_eq] using here
  simp only [onFrame, link, sound, own, passes, local_, bne_self_eq_false, Bool.false_and, Bool.not_true, Bool.or_self, Bool.false_eq_true, if_false, if_true]

theorem onFrame_otherType (act : Hdr → State → State) (other : (Hdr.parse f.hdr).typ ≠ typ) (known : knownTypes.contains (Hdr.parse f.hdr).typ = true) :
    onFrame port typ f act s = s :=
  if_pos (Bool.and_eq_true_iff.mpr ⟨bne_iff_ne.mpr other, known⟩)

/-- The row of a frame TYPE: a frame of the TYPE acts once it is received, and one of another row's TYPE has no effect. -/
theorem exec_frameRow {i : Instr} {act : Hdr → State → State} {u : State} (row : exec i s = .next (onFrame port typ f act s)) (acts : act (Hdr.parse f.hdr) s1 = u) :
    (Received port typ f s s1 → exec i s = .next u) ∧ ((Hdr.parse f.hdr).typ ≠ typ → knownTypes.contains (Hdr.parse f.hdr).typ = true → exec i s = .next s) := by
  rw [row]
  exact ⟨fun received => by rw [onFrame_received act received, acts], fun other known => by rw [onFrame_otherType act other known]⟩

end received

/-- Settles O40: each row is `onFrame` with what its frame does. -/
theorem framesReceived : Obligations.FramesReceived := by
  unfold Obligations.FramesReceived
  intro port f rtt s s1 h p bs got
  exact ⟨exec_frameRow rfl rfl, exec_frameRow rfl rfl, exec_frameRow rfl rfl, exec_frameRow rfl rfl, exec_frameRow rfl rfl, exec_frameRow rfl rfl, exec_frameRow rfl rfl,
    exec_frameRow rfl rfl, exec_frameRow rfl rfl, exec_frameRow rfl rfl, exec_frameRow rfl rfl⟩

/-! ## Byte memories: a read after a write -/

section bytes
variable {α : Type} {d : α} {t u : Tbl α} {lo lo' i : Nat}

theorem Tbl.get_of_mem [DecidableEq α] (canonical : Tbl.wfFrom d lo t = true) {v : α} (listed : (i, v) ∈ t) : Tbl.get d t i = v := by
  induction t generalizing lo with
  | nil => exact absurd listed List.not_mem_nil
  | cons x t ih =>
    have rest : Tbl.wfFrom d (x.1 + 1) t = true := (Bool.and_eq_true_iff.mp canonical).2
    rcases List.mem_cons.mp listed with rfl | later
    · simp [Tbl.get]
    · have above : x.1 + 1 ≤ i := Tbl.le_of_mem_wfFrom rest _ later
      simp only [Tbl.get, show ¬i < x.1 by omega, show i ≠ x.1 by omega, if_false]
      exact ih rest later

theorem Tbl.get_of_absent (absent : ∀ v, (i, v) ∉ t) : Tbl.get d t i = d := by
  induction t with
  | nil => rfl
  | cons x t ih =>
    obtain ⟨k, w⟩ := x
    have other : i ≠ k := fun same => absent w (same ▸ List.mem_cons_self)
    simp only [Tbl.get, other, if_false, ih fun v later => absent v (List.mem_cons_of_mem _ later), ite_self]

/-- Canonical tables that list the same at a key hold the same there. -/
theorem Tbl.get_congr [DecidableEq α] (ht : Tbl.wfFrom d lo t = true) (hu : Tbl.wfFrom d lo' u = true) (same : ∀ v, (i, v) ∈ t ↔ (i, v) ∈ u) : Tbl.get d t i = Tbl.get d u i := by
  by_cases listed : ∃ v, (i, v) ∈ t
  · obtain ⟨v, mem⟩ := listed
    rw [Tbl.get_of_mem ht mem, Tbl.get_of_mem hu ((same v).mp mem)]
  · have absent : ∀ v, (i, v) ∉ t := not_exists.mp listed
    rw [Tbl.get_of_absent absent, Tbl.get_of_absent fun v mem => absent v ((same v).mpr mem)]

end bytes

theorem Mem.read1_cells (a : Nat) (bs : Bytes) (i : Nat) : Mem.read1 (Mem.cells a bs) (a + i) = bs.getD i 0 := by
  induction bs generalizing a i with
  | nil => rfl
  | cons b bs ih =>
    have later : ∀ k, Mem.read1 (Mem.cells (a + 1) bs) (a + (k + 1)) = bs.getD k 0 := fun k => by rw [← ih (a + 1) k, Nat.add_right_comm, Nat.add_assoc]
    have below : Mem.read1 (Mem.cells (a + 1) bs) a = 0 := Tbl.get_below _ _ _ _ (Mem.wfFrom_cells (a + 1) bs) (Nat.lt_succ_self a)
    by_cases zero : b = 0
    · rw [Mem.cells, if_pos zero, zero]
      cases i with
      | zero => exact below
      | succ i => exact later i
    · rw [Mem.cells, if_neg zero]
      cases i with
      | zero => simp [Mem.read1, Tbl.get]
      | succ i => simpa [Mem.read1, Tbl.get] using later i

section memory
variable {m : Mem} (canonical : Mem.wf m = true)
include canonical

theorem Mem.read_eq_map (a n : Nat) : Mem.read m a n = (List.range n).map (fun i => Mem.read1 m (a + i)) := by
  refine List.map_congr_left fun i inside => Tbl.get_congr (Mem.wf_filter m _ canonical) canonical fun v => ?_
  have := List.mem_range.mp inside
  simp [this]

variable (a : Nat) (bs : Bytes)

theorem Mem.read1_write_inside {i : Nat} (inside : i < bs.length) : Mem.read1 (Mem.write m a bs) (a + i) = bs.getD i 0 := by
  rw [← Mem.read1_cells a bs i]
  refine Tbl.get_congr (Mem.wf_write m a bs canonical) (Mem.wfFrom_cells a bs) fun v => ?_
  simp [Mem.write, inside]

theorem Mem.read1_write_outside {x : Nat} (outside : x < a ∨ a + bs.length ≤ x) : Mem.read1 (Mem.write m a bs) x = Mem.read1 m x := by
  refine Tbl.get_congr (Mem.wf_write m a bs canonical) canonical fun v => ?_
  have apart : (x, v) ∉ Mem.cells a bs := fun listed => by
    have above : a ≤ x := Tbl.le_of_mem_wfFrom (Mem.wfFrom_cells a bs) _ listed
    have below : x < a + bs.length := Mem.cells_lt a bs _ listed
    omega
  simp only [Mem.write, List.mem_append, List.mem_filter, decide_eq_true_eq, apart, or_false, ← and_or_left, outside, and_true]

/-- A byte string that is written reads back. -/
theorem Mem.read_write_same : Mem.read (Mem.write m a bs) a bs.length = bs := by
  rw [Mem.read_eq_map (Mem.wf_write m a bs canonical)]
  refine List.ext_getElem (by simp) fun i _ inside => ?_
  simp [Mem.read1_write_inside canonical a bs inside, inside]

theorem Mem.read_write_outside {x n : Nat} (outside : x + n ≤ a ∨ a + bs.length ≤ x) : Mem.read (Mem.write m a bs) x n = Mem.read m x n := by
  rw [Mem.read_eq_map (Mem.wf_write m a bs canonical), Mem.read_eq_map canonical]
  refine List.map_congr_left fun i inside => Mem.read1_write_outside canonical a bs ?_
  have := List.mem_range.mp inside
  omega

end memory

/-! ## Writes of a core's SRAM -/

section sram
variable {s : State} {core : Nat}

theorem State.sram_canonical (canonical : s.memWf = true) (k : Nat) : Mem.wf (s.core k).sram = true :=
  Core.memWf_sram (Intact.core (p := s.pending) ⟨rfl, canonical⟩ k)

/-- While bubble work is not spilled, its writes too go to SRAM itself. -/
theorem writeFor_unspilled (bubble : Bool) (a : Nat) (bs : Bytes) (here : (s.core core).spilled = none) : writeFor bubble core a bs false s = sramWrite core a bs s := by
  simp only [writeFor, sramWrite, State.updCore, Tbl.upd]
  rw [State.core] at here
  rw [here]

variable (core) (a : Nat) (bs : Bytes)

theorem sramWrite_sram (s : State) : ((sramWrite core a bs s).core core).sram = Mem.write (s.core core).sram a bs :=
  congrArg Core.sram (State.core_updCore_self core _)

variable (canonical : s.memWf = true)
include canonical

theorem sramWrite_read_same : (sramWrite core a bs s).sramRead core a bs.length = bs := by
  rw [State.sramRead, Core.bytes, sramWrite_sram, Mem.read_write_same (s.sram_canonical canonical core)]

theorem sramWrite_read_outside {x n : Nat} (outside : x + n ≤ a ∨ a + bs.length ≤ x) : (sramWrite core a bs s).sramRead core x n = s.sramRead core x n := by
  rw [State.sramRead, Core.bytes, sramWrite_sram, Mem.read_write_outside (s.sram_canonical canonical core) a bs outside]
  rfl

end sram

/-! ## The destination of a flow (R272) -/

/-- The entry of a frame's flow follows the frame's EPOCH and the port it came by (R272, R273). -/
def followFrame (port : Nat) (h : Hdr) (s : State) : State := updDst h.flow (fun d => { d with epoch := h.epoch, port := port }) s

/-- The next SEQ of a flow is expected, and one frame more is to be acknowledged. -/
def expectNext (flow : Nat) (s : State) : State := updDst flow (fun d => { d with expSeq := d.expSeq + 1, unacked := d.unacked + 1 }) s

/-- How far a frame's SEQ is ahead of the expected one, in 24 bits. -/
def seqAhead (h : Hdr) (d : FlowDst) : Nat := (h.seq + 2 ^ 24 - d.expSeq % 2 ^ 24) % 2 ^ 24

@[simp] theorem dstOf_updDst (k : Nat) (g : FlowDst → FlowDst) (s : State) : (updDst k g s).dstOf k = (s.dstOf k).map g := by
  have key : ((fun p : Nat × FlowDst => p.1 == k) ∘ fun p => if p.1 == k then (p.1, g p.2) else p) = fun p => p.1 == k := by
    funext p
    simp only [Function.comp]
    split <;> rfl
  simp only [State.dstOf, updDst, List.find?_map, key]
  match found : s.flowDst.find? (fun p => p.1 == k) with
  | none => rw [found]; rfl
  | some p =>
    have own : (p.1 == k) = true := by simpa using List.find?_some found
    rw [found, Option.map_some, if_pos own]
    rfl

section flow
variable {port : Nat} {h : Hdr} {d : FlowDst} {s : State} (act : FlowDst → State → Nat × State)
variable (entry : s.dstOf h.flow = some d) (opened : d.opened = true) (source : d.src = h.src) (epoch : d.epoch = h.epoch)
include entry opened source epoch

/-- A frame of an open flow, from its source and under its EPOCH, is judged by its SEQ. -/
theorem flowFrame_open : flowFrame port h act s =
    let s1 := followFrame port h s
    if seqAhead h d = 0 then
      let (status, s2) := act d (expectNext h.flow s1)
      if status != 0 then answer h.flow status s2
      else match s2.dstOf h.flow with
        | some d2 => if d2.unacked ≥ 16 then answer h.flow 0 s2 else s2
        | none => s2
    else if seqAhead h d < 2 ^ 23 then answer h.flow 1 (dropOther port s1)
    else answer h.flow 0 (dropOther port s1) := by
  have ours : (!d.opened || d.src != h.src) = false := by rw [opened, source, bne_self_eq_false]; rfl
  have current : ¬(h.epoch + 16 - d.epoch) % 16 > 7 := by rw [epoch, Nat.add_sub_cancel_left]; decide
  simp only [flowFrame, entry, ours, current, Bool.false_eq_true, if_false]
  rfl

theorem flowFrame_expected {t : State} {d2 : FlowDst} (expected : seqAhead h d = 0) (acts : act d (expectNext h.flow (followFrame port h s)) = (0, t))
    (held : t.dstOf h.flow = some d2) (few : d2.unacked < 16) : flowFrame port h act s = t := by
  rw [flowFrame_open act entry opened source epoch]
  simp only [expected, acts, held, ge_iff_le, Nat.not_le.mpr few, bne_self_eq_false, Bool.false_eq_true, if_true, if_false]

/-- A frame that has been taken before. -/
theorem flowFrame_repeated (behind : 0 < seqAhead h d) (near : seqAhead h d < 2 ^ 23) : flowFrame port h act s = answer h.flow 1 (dropOther port (followFrame port h s)) := by
  rw [flowFrame_open act entry opened source epoch]
  simp only [behind.ne', near, if_true, if_false]

theorem flowFrame_far (far : 2 ^ 23 ≤ seqAhead h d) : flowFrame port h act s = answer h.flow 0 (dropOther port (followFrame port h s)) := by
  have notExpected : seqAhead h d ≠ 0 := by omega
  rw [flowFrame_open act entry opened source epoch]
  simp only [notExpected, Nat.not_lt.mpr far, if_false]

end flow

/-! ## DATA (R274): O41 -/

/-- Plain DATA for a core of the stall is written whole. -/
theorem dataLands_writes {port : Nat} {h : Hdr} {bs : Bytes} {d : FlowDst} {st : Stall} {s : State} (inst : h.inst = d.fn) (gen : h.gen = (s.inst d.fn).gen.toNat)
    (entryGen : d.gen = h.gen) (cls : (h.cls == 1) = d.bubble) (noReshard : reshardFrom s d.fn h.src d.bubble = none) (area : areaOk d (h.dst * 64) bs.length s = true)
    (stall : s.stall d.fn = some st) (holds : st.holds h.core = true) (here : (s.core h.core).spilled = none) (plain : h.oper = 0) (noSig : h.sig = false)
    (sound : h.poison = false) (noOvf : h.lovf = false) (noNf : h.lnf = false) : dataLands port h bs d s = (0, sramWrite h.core (h.dst * 64) bs s) := by
  have accepted : entryStatus d h s = 0 := by
    simp only [entryStatus, inst, entryGen, ← gen, cls, noSig, bne_self_eq_false, Bool.or_self, Bool.false_and, Bool.false_eq_true, if_false]
  simp only [dataLands, accepted, noReshard, area, stall, holds, plain, noSig, sound, noOvf, noNf, markArrival, writeFor_unspilled d.bubble (h.dst * 64) bs here,
    bne_self_eq_false, Option.isSome_none, Bool.not_true, Bool.or_self, Nat.zero_ne_one, Bool.false_eq_true, if_false]

/-- Settles O41: the expected SEQ writes the payload, and the others are answered. -/
theorem dataFramesOfOpenFlow : Obligations.DataFrames := by
  unfold Obligations.DataFrames
  intro port f d st s s1 h a bs n diff s2 canonical received entry opened source epoch
  have row : exec (.dataFrame port f) s = .next (flowFrame port.val h (dataLands port.val h bs) s1) :=
    congrArg Host.Outcome.next (onFrame_received (fun h => flowFrame port.val h (dataLands port.val h bs)) received)
  refine ⟨fun expected inst gen entryGen cls noReshard area stall holds here plain noSig sound noOvf noNf few => ?_, fun behind near => ?_, fun far => ?_⟩
  · let u := expectNext h.flow (followFrame port.val h s1)
    have lands : dataLands port.val h bs d u = (0, sramWrite h.core a bs u) :=
      dataLands_writes inst gen entryGen cls noReshard area stall holds here plain noSig sound noOvf noNf
    have next : (sramWrite h.core a bs u).dstOf h.flow = some { d with epoch := h.epoch, port := port.val, expSeq := d.expSeq + 1, unacked := d.unacked + 1 } := by
      change u.dstOf h.flow = _
      simp only [u, expectNext, followFrame, dstOf_updDst, entry, Option.map_some]
    have taken : flowFrame port.val h (dataLands port.val h bs) s1 = sramWrite h.core a bs u :=
      flowFrame_expected _ entry opened source epoch expected lands next (Nat.succ_lt_succ few)
    exact ⟨_, row.trans (congrArg Host.Outcome.next taken), sramWrite_read_same h.core a bs canonical, fun x outside => sramWrite_read_outside h.core a bs canonical outside,
      fun k other => State.core_updCore_ne _ other, rfl, next⟩
  · rw [row, flowFrame_repeated _ entry opened source epoch behind near]
    rfl
  · rw [row, flowFrame_far _ entry opened source epoch far]
    rfl

end Sys2Proof.Machine
end

section
/-! O43: lost members, flow matches, the timers of flows, and collectives (10_fabric R272, R273, R275, R278; 11_mapping R286). -/

namespace Sys2Proof.Machine

/-! ## Loss of a member (R275) -/

section loss
variable {dev : BitVec 14} {s : State}

theorem execMemberLossTimeout_unreached (noPath : routeTo s dev.toNat = none) (other : dev ≠ s.sys.devId) : exec (.memberLossTimeout dev) s = .next (reportLoss dev.toNat s) := by
  have lost : ((routeTo s dev.toNat).isSome || dev == s.sys.devId) = false := by rw [noPath, beq_false_of_ne other]; rfl
  exact congrArg Host.Outcome.next (if_neg (ne_true_of_eq_false lost))

theorem execMemberLossTimeout_reached (path : (routeTo s dev.toNat).isSome = true) : exec (.memberLossTimeout dev) s = .next s :=
  congrArg Host.Outcome.next (if_pos (Bool.or_eq_true_iff.mpr (.inl path)))

end loss

/-! ## Flow matches (R286) -/

section flowMatch
variable {i flow rate tag k : Nat} {cls : Bool} {im : Image} {left : List Nat} {st : Stall} {fd : FlowDecl} {s s1 : State}

section declared
variable (loading : (s.inst i).loading = some (tag, im, left, false)) (stall : s.stall i = some st) (declared : matching im left flow cls rate = some k)
include loading stall declared

theorem flowMatches_refused : flowMatches i flow cls rate true s = failLoad i tag St.refusedFit s := by
  simp only [flowMatches, loading, stall, declared, if_true]

/-- A declaration that the peer matches is open; with the last one open the image is installed. -/
theorem flowMatches_opens (names : im.flows[k]? = some fd) (opens : openFlow i st im fd s = .opened s1) :
    flowMatches i flow cls rate false s = if (left.filter (· != k)).isEmpty then installImage i tag st im s1
      else s1.updInst i (fun n => { n with loading := some (tag, im, left.filter (· != k), false) }) := by
  simp only [flowMatches, loading, stall, declared, names, opens, Option.map_some, Bool.false_eq_true, if_false]

end declared

theorem execFlowMatchTimeout_unmatched {fn : FnId} {flow : BitVec 20} (loading : (s.inst fn.toNat).loading = some (tag, im, left, false)) (waits : k ∈ left)
    (names : im.flows[k]? = some fd) (own : fd.flow = flow.toNat) : exec (.flowMatchTimeout fn flow) s = .next (failLoad fn.toNat tag St.timeoutFabric s) := by
  have unmatched : left.any (fun k => match im.flows[k]? with | some f => f.flow == flow.toNat | none => false) = true :=
    List.any_eq_true.mpr ⟨k, waits, by rw [names]; exact beq_iff_eq.mpr own⟩
  change execFlowMatchTimeout fn flow s = _
  simp only [execFlowMatchTimeout, loading]
  exact congrArg Host.Outcome.next (if_pos unmatched)

end flowMatch

/-! ## The timers of a flow (R272, R273) -/

section timers
variable {dest : BitVec 14} {flow : BitVec 20} {s : State}

/-- The destination acknowledges what is unacknowledged. -/
theorem execE2eAckTimer_held {d : FlowDst} (held : s.dstOf flow.toNat = some d) :
    exec (.e2eAckTimer flow) s = .next (if d.unacked = 0 then s else
      sendE2eAck d.src flow.toNat (b2n d.bubble) (d.expSeq % 2 ^ 24) d.epoch 0 (updDst flow.toNat (fun d => { d with unacked := 0 }) s)) := by
  change execE2eAckTimer flow s = _
  simp only [execE2eAckTimer, answer, held, gt_iff_lt, Nat.pos_iff_ne_zero, ne_eq, ite_not]

/-- Frames without progress go out once more on the same path; then the path has failed. -/
theorem execFlowResendTimeout_retained :
    let key := flowKey dest.toNat flow.toNat
    let f := s.src key
    f.opened = true → f.broken = false → f.fenced = false → f.retained ≠ [] → exec (.flowResendTimeout dest flow) s =
      .next (if f.timeouts = 0 then resendAll key (s.updSrc key (fun f => { f with timeouts := f.timeouts + 1 })) else reroute key s) := by
  intro key f opened whole unfenced kept
  have waits : (!f.opened || f.broken || f.fenced || f.retained.isEmpty) = false := by
    rw [opened, whole, unfenced, List.isEmpty_eq_false_iff.mpr kept]
    rfl
  refine congrArg Host.Outcome.next ((if_neg (ne_true_of_eq_false waits)).trans ?_)
  simp only [ge_iff_le, Nat.one_le_iff_ne_zero, ne_eq, ite_not, f, key]

theorem execFlowNoPathTimeout_fenced :
    let key := flowKey dest.toNat flow.toNat
    let f := s.src key
    f.opened = true → f.broken = false → f.fenced = true → exec (.flowNoPathTimeout dest flow) s = .next (breakFlow key s) := by
  intro key f opened whole fenced
  have pathless : (f.opened && !f.broken && f.fenced) = true := by rw [opened, whole, fenced]; rfl
  exact congrArg Host.Outcome.next (if_pos pathless)

end timers

/-! ## Collectives (R278) -/

section collective
variable {fn : FnId} {coll : BitVec 16} {c : Coll} {r : CollRun} {s : State} (held : collOf s fn.toNat coll.toNat = some c) (runs : runOf s fn.toNat coll.toNat = some r)
include held runs

theorem execCollectiveComplete_full (full : collFull c r = true) :
    let ended := addObj fn.toNat c.done 1 { s with colls := s.colls.filter (fun x => !(x.fn == fn.toNat && x.coll == c.coll)) }
    exec (.collectiveComplete fn coll) s = .next (if ended.2 then failRunning fn.toNat c.bubble .device ended.1 else ended.1) := by
  change execCollectiveComplete fn coll s = _
  simp only [execCollectiveComplete, held, runs, full, Bool.not_true, Bool.false_eq_true, if_false]

theorem execCollectiveComplete_partial (missing : collFull c r = false) : exec (.collectiveComplete fn coll) s = .next s := by
  change execCollectiveComplete fn coll s = _
  simp only [execCollectiveComplete, held, runs, missing, Bool.not_false, if_true]

theorem execCollectiveTimeout_runs : exec (.collectiveTimeout fn coll) s = .next (if r.startedAt + c.timeout * 1000 ≤ s.now.toNat then failColl fn.toNat c s else s) := by
  change execCollectiveTimeout fn coll s = _
  simp only [execCollectiveTimeout, held, runs, ge_iff_le]

end collective

/-- Settles O43: a member's loss, a flow's match and its timeout; then the timers of flows, and collectives. -/
theorem membersMatchesTimers : Obligations.MembersMatchesTimers := by
  unfold Obligations.MembersMatchesTimers
  constructor
  · intro dev fn flow cls rate tag k im left st fd s s1 i waits
    refine ⟨execMemberLossTimeout_unreached, execMemberLossTimeout_reached, ?_, ?_, ?_, ?_⟩
    · rintro ⟨loading, stall, declared, names⟩ opens more
      exact congrArg Host.Outcome.next ((flowMatches_opens loading stall declared names opens).trans (if_neg (List.isEmpty_iff.not.mpr more)))
    · rintro ⟨loading, stall, declared, names⟩ opens last
      exact congrArg Host.Outcome.next ((flowMatches_opens loading stall declared names opens).trans (if_pos (List.isEmpty_iff.mpr last)))
    · rintro ⟨loading, stall, declared, _⟩
      exact congrArg Host.Outcome.next (flowMatches_refused loading stall declared)
    · rintro ⟨loading, _, _, names⟩ waits own
      exact execFlowMatchTimeout_unmatched loading waits names own
  · intro dest flow fn coll d c r s key f i k ended
    exact ⟨execE2eAckTimer_held, execFlowResendTimeout_retained, execFlowNoPathTimeout_fenced, execCollectiveComplete_full, execCollectiveComplete_partial,
      execCollectiveTimeout_runs⟩

end Sys2Proof.Machine
end

section
/-! O44: the states of a port (10_fabric R267 to R269). -/

namespace Sys2Proof.Machine

section port
variable {port : Fin 96} {s : State}

/-! ## Training (R267) -/

section training
variable (runs : s.linksRun = true)
include runs

theorem execPortSignalDetect_down (sfl : (s.port port).mode = .sfl) (down : (s.port port).st = .down) :
    exec (.portSignalDetect port) s = .next (s.updPort port (fun p => { p with st := .training })) := by
  refine congrArg Host.Outcome.next (if_pos ?_)
  rw [runs, sfl, down]
  rfl

theorem execLinkTrainingDone_sfl (sfl : (s.port port).mode = .sfl) (training : (s.port port).st = .training) :
    exec (.linkTrainingDone port) s = .next (s.updPort port (fun p => { p with st := .hailing, hailCount := 0, echo := 0 })) := by
  have trained : ((s.port port).mode == .sfl && (s.port port).st == .training) = true := by rw [sfl, training]; rfl
  change execLinkTrainingDone port s = _
  simp only [execLinkTrainingDone, runs, trained, Bool.not_true, Bool.false_eq_true, if_false, if_true]

theorem execLinkTrainingDone_storage (storage : (s.port port).mode = .storage) (down : (s.port port).st = .down) :
    exec (.linkTrainingDone port) s = .next (s.updPort port (fun p => { p with st := .up })) := by
  have notSfl : ((s.port port).mode == .sfl && (s.port port).st == .training) = false := by rw [storage]; rfl
  have trained : ((s.port port).mode == .storage && (s.port port).st == .down) = true := by rw [storage, down]; rfl
  change execLinkTrainingDone port s = _
  simp only [execLinkTrainingDone, runs, notSfl, trained, Bool.not_true, Bool.false_eq_true, if_false, if_true]

end training

/-! ## Attestation (R268) -/

/-- Of the two checks the first that fails gives the reason of the refusal. -/
theorem execAttestationDone_attesting (identityOk : Bool) (digest : BitVec 384) (attesting : (s.port port).st = .attesting) :
    exec (.attestationDone port identityOk digest) s = .next (
      if !identityOk then raiseDev 10 2 (port + 1 <<< 8) (s.updPort port (fun p => { p with st := .refused }))
      else if !s.sys.linkPolicy.contains digest then raiseDev 10 2 (port + 2 <<< 8) (s.updPort port (fun p => { p with st := .refused }))
      else ownTopoChange (raiseDev 10 1 port (drainPort port (s.updPort port (fun p => { p with st := .up, lkey := false, keySwitch := false, firstTx := 0 }))))) := by
  refine congrArg Host.Outcome.next (if_neg ?_)
  rw [attesting]
  decide

/-! ## An UP port (R267 to R269) -/

section up
variable (up : (s.port port).st = .up) (sfl : (s.port port).mode = .sfl)
include up sfl

theorem loseLink_up (reason : Nat) : loseLink port reason s = portDown port reason s := by
  have held : ((s.port port).st == .off || (s.port port).st == .refused || (s.port port).st == .down) = false := by rw [up]; rfl
  have notStorage : ((s.port port).mode == .storage) = false := by rw [sfl]; rfl
  simp only [loseLink, held, notStorage, Bool.false_eq_true, if_false]

theorem execPortSilenceTimeout_up : exec (.portSilenceTimeout port) s = .next (portDown port 2 s) := by
  refine congrArg Host.Outcome.next (if_pos ?_)
  rw [up, sfl]
  rfl

theorem linkTalks_up : ((s.port port).mode == .sfl && ((s.port port).st == .hailing || (s.port port).st == .attesting || (s.port port).st == .up)) = true := by
  rw [up, sfl]; rfl

theorem execLinkKeyUpdate_up (settled : (s.port port).keySwitch = false) :
    exec (.linkKeyUpdate port) s = .next (sendControl port 0xB [0x13, 0xE9, 1, 0] (s.updPort port (fun p => { p with lkey := !p.lkey, keySwitch := true, firstTx := 0 }))) := by
  refine congrArg Host.Outcome.next (if_pos ?_)
  rw [up, sfl, settled]
  rfl

end up

end port

/-- Settles O44: training, attestation, and what an UP port does. -/
theorem portStates : Obligations.PortStates := by
  unfold Obligations.PortStates
  intro port digest s i p becomes
  refine ⟨execPortSignalDetect_down, execLinkTrainingDone_sfl, execLinkTrainingDone_storage, fun attesting => ⟨?_, fun unlisted => ?_, fun listed => ?_⟩, fun up sfl => ⟨?_, ?_, ?_, ?_, ?_⟩⟩
  · exact execAttestationDone_attesting false digest attesting
  · rw [execAttestationDone_attesting true digest attesting, unlisted]
    rfl
  · rw [execAttestationDone_attesting true digest attesting, listed]
    rfl
  · exact congrArg Host.Outcome.next (loseLink_up up sfl 1)
  · exact execPortSilenceTimeout_up up sfl
  · exact congrArg Host.Outcome.next (if_pos (linkTalks_up up sfl))
  · exact congrArg Host.Outcome.next (if_pos (linkTalks_up up sfl))
  · exact execLinkKeyUpdate_up up sfl

end Sys2Proof.Machine
end

section
/-! O45: the events of the storage ports (10_fabric R280 to R282; 14_isolation R365). -/

namespace Sys2Proof.Machine

section storage
variable {port : Fin 96} {s : State}

/-! ## Timeouts (R282) -/

/-- A request that is not answered goes out again, or ends at its eighth expiry. -/
theorem execRdmaAckTimeout_open {req : Nat} {r : Rdma} (outstanding : s.rdmas.find? (fun r => r.port == port.val && r.id == req && r.sent) = some r) :
    exec (.rdmaAckTimeout port req) s = .next (
      let s1 : State := { s with rdmas := s.rdmas.map (fun q => if q.id == r.id then { q with retries := q.retries + 1 } else q) }
      if r.retries ≥ 7 then timeOut r s else if storageUp s port && !(s.port port).paused then resend r s1 else s1) := by
  change execRdmaAckTimeout port req s = _
  simp only [execRdmaAckTimeout, outstanding]

theorem execStorageNoProgress_open {req : Nat} {r : Rdma} (outstanding : s.rdmas.find? (fun r => r.port == port.val && r.id == req) = some r) :
    exec (.storageNoProgress port req) s = .next (timeOut r s) := by
  change execStorageNoProgress port req s = _
  simp only [execStorageNoProgress, outstanding]

variable (up : storageUp s port = true)
include up

/-! ## Answers (R280, R282, R365) -/

section read
variable {req : Nat} (data : Bytes) (ok : Bool)

/-- Data acts on what asked for it, unless it was asked for in an old generation. -/
theorem execRdmaReadResponse_asked {r : Rdma} (asked : reqOf s port req false = some r) : exec (.rdmaReadResponse port req data ok false) s =
    .next (if stale s r then lateDiscard r.fn 3 (dropReq r s) else readArrives r data ok (dropReq r s)) := by
  change execRdmaReadResponse port req data ok false s = _
  simp only [execRdmaReadResponse, up, asked, Bool.not_true, Bool.false_eq_true, if_false]

theorem execRdmaReadResponse_unasked (unasked : reqOf s port req false = none) : exec (.rdmaReadResponse port req data ok false) s = .next (dropOther port s) := by
  change execRdmaReadResponse port req data ok false s = _
  simp only [execRdmaReadResponse, up, unasked, Bool.not_true, Bool.false_eq_true, if_false]

end read

theorem execRdmaAck_asked {req : Nat} {r : Rdma} (asked : reqOf s port req true = some r) :
    exec (.rdmaAck port req) s = .next (if stale s r then lateDiscard r.fn 3 (dropReq r s) else writeVisible r (dropReq r s)) := by
  change execRdmaAck port req s = _
  simp only [execRdmaAck, up, asked, Bool.not_true, Bool.false_eq_true, if_false]

theorem execRdmaAck_unasked {req : Nat} (unasked : reqOf s port req true = none) : exec (.rdmaAck port req) s = .next (dropOther port s) := by
  change execRdmaAck port req s = _
  simp only [execRdmaAck, up, unasked, Bool.not_true, Bool.false_eq_true, if_false]

/-! ## The port itself (R280, R281) -/

theorem execCnp_up {qpn : BitVec 24} (pair : s.qps.any (fun q => q.port == port.val && q.qpn == qpn.toNat) = true) :
    exec (.cnp port qpn) s = .next (s.updPort port (fun p => { p with cnps := p.cnps + 1 })) :=
  congrArg Host.Outcome.next (if_pos (Bool.and_eq_true_iff.mpr ⟨up, pair⟩))

theorem execPfcFrame_up (pause : Bool) : exec (.pfcFrame port pause) s = .next (
      if pause then s.updPort port (fun p => { p with paused := pause }) else pumpRdma port (s.updPort port (fun p => { p with paused := pause }))) := by
  change execPfcFrame port pause s = _
  simp only [execPfcFrame, up, Bool.not_true, Bool.false_eq_true, if_false]

end storage

/-- Settles O45: the answers, then what the port counts, the timeouts, and PFC. -/
theorem storageEvents : Obligations.StorageEvents := by
  unfold Obligations.StorageEvents
  intro port req data ok qpn psn r s up i
  refine ⟨execRdmaReadResponse_asked up data ok, execRdmaReadResponse_unasked up data ok, execRdmaAck_asked up, execRdmaAck_unasked up,
    congrArg Host.Outcome.next (if_pos up), execCnp_up up, congrArg Host.Outcome.next (if_pos up), fun outstanding last => ?_, fun outstanding more running => ?_,
    execStorageNoProgress_open, execPfcFrame_up up true, execPfcFrame_up up false⟩
  · exact (execRdmaAckTimeout_open outstanding).trans (congrArg Host.Outcome.next (if_pos last))
  · have sends : (storageUp s port && !(s.port port).paused) = true := by rw [up, running]; rfl
    exact (execRdmaAckTimeout_open outstanding).trans (congrArg Host.Outcome.next ((if_neg (Nat.not_le.mpr more)).trans (if_pos sends)))

end Sys2Proof.Machine
end

section
/-! O7: a completion is written, held or lost (12_host_interface R312 to R314, R316). -/

namespace Sys2Proof.Machine

/-! ## What interrupts and causes drive (R324 to R326) -/

/-- A message, INTA or ATTN_N. -/
def Out.isSignal : Out → Bool
  | .msix .. | .inta _ | .attnN _ => true
  | _ => false

/-- Only signals have gone out since. -/
def Signalled (s t : State) : Prop := ∃ l, t.out = l ++ s.out ∧ ∀ o ∈ l, o.isSignal = true

section signalled
variable {s t u : State}

theorem Signalled.of_eq (h : t.out = s.out) : Signalled s t := ⟨[], h, by simp⟩

theorem Signalled.emit {o : Out} (signal : o.isSignal = true) (s : State) : Signalled s (s.emit o) := ⟨[o], rfl, by simpa using signal⟩

theorem Signalled.trans (h : Signalled s t) (k : Signalled t u) : Signalled s u := by
  obtain ⟨l, hl, ls⟩ := h
  obtain ⟨m, hm, ms⟩ := k
  exact ⟨m ++ l, by rw [hm, hl, List.append_assoc], fun o ho => (List.mem_append.mp ho).elim (ms o) (ls o)⟩

theorem Signalled.mem (h : Signalled s t) {o : Out} (ho : o ∈ s.out) : o ∈ t.out := by
  obtain ⟨l, hl, -⟩ := h
  exact hl ▸ List.mem_append_right l ho

theorem Signalled.mem_of_not_signal (h : Signalled s t) {o : Out} (ho : o ∈ t.out) (other : o.isSignal = false) : o ∈ s.out := by
  obtain ⟨l, hl, ls⟩ := h
  refine (List.mem_append.mp (hl ▸ ho)).resolve_left fun driven => ?_
  simp [ls o driven] at other

theorem pinsFollow_signalled (old s : State) : Signalled s (pinsFollow old s) := by
  unfold pinsFollow
  extract_lets s1
  have inta : Signalled s s1 := by
    simp only [s1]
    split
    · exact .of_eq rfl
    · exact .emit rfl s
  split
  · exact inta
  · exact inta.trans ((Signalled.of_eq rfl).trans (.emit rfl { s1 with sys := { s1.sys with attnN := !s1.attnLow } }))

theorem sendMessage_signalled (i : Nat) (s : State) : Signalled s (sendMessage i s) := by
  have sent : Signalled s (messageOut i s) := (Signalled.of_eq (State.updFn_out s i _)).trans (.emit rfl _)
  unfold sendMessage
  extract_lets f
  split
  · exact .of_eq rfl
  · split
    · exact .of_eq rfl
    · split
      · split
        · exact .of_eq rfl
        · exact sent
      · exact sent

theorem following_signalled (i : Nat) (change : State → State) (s : State) : Signalled (change s) (following i change s) := by
  unfold following
  extract_lets s1 s2
  refine Signalled.trans ?_ (pinsFollow_signalled s s2)
  simp only [s2]
  split
  · exact sendMessage_signalled i s1
  · exact .of_eq rfl

theorem raiseIn_signalled (tree g b detail inst : Nat) (s : State) : Signalled s (raiseIn tree g b detail inst s) :=
  (Signalled.of_eq rfl).trans (following_signalled _ _ s)

end signalled

/-! ## The write of an entry -/

section post
variable {i : Nat} {c : Cpl} {s : State}

/-- The ring's tail goes on, and the phase changes as it wraps. -/
def Fn.nextCpl (f : Fn) : Fn :=
  { f with
    cplTail := if f.cplTail.toNat + 1 = 2 ^ f.cplSize.toNat then 0 else f.cplTail + 1
    cplPhase := if f.cplTail.toNat + 1 = 2 ^ f.cplSize.toNat then !f.cplPhase else f.cplPhase }

/-- The entry at the tail of a function's ring. -/
def State.cplOut (s : State) (i : Nat) (c : Cpl) : Out :=
  .completion i ((s.fn i).cplBase.toNat + 32 * (s.fn i).cplTail.toNat) (c.word (s.fn i).cplPhase 0 s.now.toNat)

/-- An entry without a bound carries no HOST_DELAY. -/
theorem writeCpl_unbounded (unbounded : c.bound = none) (unflagged : c.flags = 0) :
    writeCpl i c s = setCompletionBit i ((s.emit (s.cplOut i c)).updFn i Fn.nextCpl) := by
  simp only [writeCpl, unbounded, unflagged, Bool.false_eq_true, if_false, Nat.zero_testBit]
  rfl

/-- The COMPLETION bit leaves the ring as it is. -/
theorem setCompletionBit_fn (i : Nat) (s : State) : ∃ p l m, (setCompletionBit i s).fn i = { s.fn i with sumCpl := true, pba := p, lastMsg := l, msgDue := m } := by
  obtain ⟨p, l, m, e⟩ := (following_noted i (fun s => s.updFn i (fun f => { f with sumCpl := true })) s).2 i
  exact ⟨p, l, m, e.trans (by rw [State.updFn_fn])⟩

theorem post_linkDown (down : s.sys.linkUp = false) : post i c s = s := by
  simp only [post, down, Bool.not_false, if_true]

section linkUp
variable (up : s.sys.linkUp = true)
include up

theorem post_writes (empty : (s.fn i).held = []) (room : (s.fn i).cplRoom = true) (may : (s.fn i).mayWrite = true) : post i c s = writeCpl i c s := by
  simp only [post, up, empty, room, may, List.isEmpty_nil, Bool.and_self, Bool.not_true, Bool.false_eq_true, if_false, if_true]

theorem post_holds (waits : (s.fn i).held ≠ [] ∨ (s.fn i).cplRoom = false ∨ (s.fn i).mayWrite = false) :
    post i c s = s.updFn i (fun f => { f with held := f.held ++ [c] }) := by
  have noWrite : ((s.fn i).held.isEmpty && (s.fn i).cplRoom && (s.fn i).mayWrite) = false := by
    rcases waits with held | full | silent
    · simp [List.isEmpty_eq_false_iff.mpr held]
    · simp [full]
    · simp [silent]
  simp only [post, up, noWrite, Bool.not_true, Bool.false_eq_true, if_false]

end linkUp
end post

/-- Settles O7: with the link up an entry is written at the tail or held behind the others, with the link down it is lost. -/
theorem completionPosted : Obligations.CompletionPosted := by
  unfold Obligations.CompletionPosted
  intro i c s unbounded unflagged f t
  refine ⟨fun up empty room may => ?_, fun up waits => ?_, post_linkDown⟩
  · have written : t = setCompletionBit i ((s.emit (s.cplOut i c)).updFn i Fn.nextCpl) := (post_writes up empty room may).trans (writeCpl_unbounded unbounded unflagged)
    obtain ⟨p, l, m, ring⟩ := setCompletionBit_fn i ((s.emit (s.cplOut i c)).updFn i Fn.nextCpl)
    rw [State.updFn_fn] at ring
    rw [written, ring]
    exact ⟨(following_signalled i _ _).mem List.mem_cons_self, rfl, rfl, empty⟩
  · rw [show t = _ from post_holds up waits]
    exact ⟨by rw [State.updFn_fn], rfl⟩

end Sys2Proof.Machine
end

section
/-! O46: the shadows of a 64-bit register (12_host_interface R303, R304, R309). -/

namespace Sys2Proof.Machine

/-! ## The registers of 64 bits (Tables 12-4 and 15-4) -/

section offsets
variable {i a : Nat}

/-- DEVICE_TIME, the ring bases, and TIME of a record in a function's tree or the device-wide one. -/
theorem is64_cases (h : is64 i a = true) : a = 0x10 ∨ a = 0x200 ∨ a = 0x220 ∨
    ((0x1200 ≤ a ∧ a < 0x1E00 ∨ i = 0 ∧ 0x4200 ≤ a ∧ a < 0x5200) ∧ 0x10 ≤ a % 0x200 ∧ a % 0x200 < 0x190 ∧ a % 16 = 8) := by
  simp [is64] at h
  omega

theorem is64_below (h : is64 i a = true) : a < 0x5200 := by
  have := is64_cases h
  omega

/-- The high half of a 64-bit register is no low half. -/
theorem is64_high (h : is64 i a = true) : is64 i (a + 4) = false := by
  have := is64_cases h
  simp [is64]
  omega

theorem toNat_add_four {r : BitVec 16} (h : is64 i r.toNat = true) : (r + 4).toNat = r.toNat + 4 := by
  have := is64_below h
  rw [BitVec.toNat_add]
  exact Nat.mod_eq_of_lt (by simp; omega)

variable (s : State)

theorem loWord_lt (v : Nat) : loWord v < 2 ^ 32 := Nat.mod_lt _ (by decide)
theorem hiWord_lt (v : Nat) : hiWord v < 2 ^ 32 := Nat.mod_lt _ (by decide)

/-- Every word of a record has 32 bits. -/
theorem recordWord_lt (c : Cause) (k : Nat) : recordWord c k < 2 ^ 32 := by
  unfold recordWord
  split
  · exact c.detail.isLt
  · have flag (b : Bool) : b2n b ≤ 1 := by cases b <;> decide
    have overflow := flag (decide (c.count.toNat ≥ 2))
    have valid := flag c.valid
    simp only [Nat.shiftLeft_eq]
    omega
  · exact loWord_lt _
  · exact hiWord_lt _

theorem groupWord_record_lt (tree g : Nat) {r : Nat} (record : 0x10 ≤ r) : groupWord s tree g r < 2 ^ 32 := by
  unfold groupWord
  rw [if_neg (by omega)]
  split
  · decide
  · exact recordWord_lt _ _

/-- So has every word of a tree's records. -/
theorem treeWord_record_lt (tree base first count : Nat) {off : Nat} (records : base + 0x200 ≤ off) (record : 0x10 ≤ (off - base) % 0x200) :
    treeWord s tree base first count off < 2 ^ 32 := by
  unfold treeWord
  rw [if_neg (by omega), if_neg (by omega)]
  dsimp only
  split
  · exact groupWord_record_lt s _ _ record
  · decide

/-- Each half of a 64-bit register is a word. -/
theorem regWord_half_lt (h : is64 i a = true) : regWord s i a < 2 ^ 32 ∧ regWord s i (a + 4) < 2 ^ 32 := by
  rcases is64_cases h with rfl | rfl | rfl | ⟨⟨lo, hi⟩ | ⟨pf, lo, hi⟩, record, -, word⟩
  · exact ⟨loWord_lt _, hiWord_lt _⟩
  · exact ⟨loWord_lt _, hiWord_lt _⟩
  · exact ⟨loWord_lt _, hiWord_lt _⟩
  · have inTree (k : Nat) (hk : k < 8) : regWord s i (a + k) = treeWord s i 0x1000 0 6 (a + k) := by
      unfold regWord
      rw [if_neg (by omega), if_neg (by omega), if_pos (by omega)]
    rw [inTree 4 (by decide), ← Nat.add_zero a, inTree 0 (by decide)]
    exact ⟨treeWord_record_lt s _ _ _ _ (by omega) (by omega), treeWord_record_lt s _ _ _ _ (by omega) (by omega)⟩
  · have inTree (k : Nat) (hk : k < 8) : regWord s i (a + k) = treeWord s devTree 0x4000 8 8 (a + k) := by
      unfold regWord
      rw [if_neg (by omega), if_neg (by omega), if_neg (by omega), if_neg (by simp; omega), if_neg (by omega), if_neg (by simp; omega), if_pos (by omega)]
    rw [inTree 4 (by decide), ← Nat.add_zero a, inTree 0 (by decide)]
    exact ⟨treeWord_record_lt s _ _ _ _ (by omega) (by omega), treeWord_record_lt s _ _ _ _ (by omega) (by omega)⟩

end offsets

/-! ## Reads (R304) -/

section reads
variable {i a : Nat} {tee : Tee} {s : State}

/-- A read below the RC registers clears nothing (R14). -/
theorem clearRead_below {off : Nat} (be : Nat) (below : off < 0x7008) : clearRead off be s = s := by
  have ports : ¬0xA000 ≤ off := by omega
  have monitor : ¬0x8000 ≤ off := by omega
  simp [clearRead, below.ne, monitor, ports]

/-- A 4-byte read of a half is what the shadow makes of it. -/
theorem barRead_half {off v : Nat} {t : State} (opened : s.barOpen i tee = true) (below : off < 0x7008) (shadow : shadowRead i off s = (v, t)) (word : v < 2 ^ 32) :
    barRead i off 15 tee s = t.emit (.readDone i off (some (BitVec.ofNat 64 v))) := by
  have clears : (if i = 0 then clearRead off 15 t else t) = t := by rw [clearRead_below 15 below, ite_self]
  simp [barRead, wideRead, read32, opened, shadow, maskedWord_whole word, clears]

variable (h : is64 i a = true)
include h

theorem shadowRead_low : shadowRead i a s = (regWord s i a, s.updFn i (fun f => { f with rdShadow := some (a, BitVec.ofNat 32 (regWord s i (a + 4))) })) := if_pos h

theorem shadowRead_latched {v : BitVec 32} (latched : (s.fn i).rdShadow = some (a, v)) :
    shadowRead i (a + 4) s = (v.toNat, s.updFn i (fun f => { f with rdShadow := none })) := by
  simp [shadowRead, is64_high h, latched, h]

/-- The live high half answers where the shadow records no register, or another one. -/
theorem shadowRead_unlatched (unlatched : ¬∃ x, (s.fn i).rdShadow = some (a, x)) : shadowRead i (a + 4) s = (regWord s i (a + 4), s) := by
  unfold shadowRead
  rw [if_neg (by simp [is64_high h])]
  split
  · next r v recorded =>
    have other : r ≠ a := fun e => unlatched ⟨v, e ▸ recorded⟩
    simp [other]
  · rfl

end reads

/-! ## Writes (R304) -/

section writes
variable {i a v : Nat} {s : State} (h : is64 i a = true)
include h

theorem write32_low : write32 i a 15 v s = writeLow i a v s := by
  simp [write32, h]

theorem write32_high : write32 i (a + 4) 15 v s = writeHigh i (a + 4) 15 v s := by
  simp [write32, h, is64_high h]

omit h

theorem writeHigh_held {lo : BitVec 32} (word : v < 2 ^ 32) (held : (s.fn i).wrShadow = some (a, lo)) :
    writeHigh i (a + 4) 15 v s = write64 i a 15 (lo.toNat + v * 2 ^ 32) (s.updFn i (fun f => { f with wrShadow := none })) := by
  simp only [writeHigh, held, Nat.mod_eq_of_lt word, if_true]

theorem writeHigh_unheld (word : v < 2 ^ 32) (unheld : ¬∃ x, (s.fn i).wrShadow = some (a, x)) :
    writeHigh i (a + 4) 15 v s = write64 i a 15 (regWord s i a + v * 2 ^ 32) s := by
  unfold writeHigh
  rw [Nat.mod_eq_of_lt word, Nat.add_sub_cancel]
  split
  · next r lo recorded =>
    have other : r ≠ a := fun e => unheld ⟨lo, e ▸ recorded⟩
    simp [other]
  · rfl

end writes

/-! ## The ring bases (R309) -/

section bases
variable {i be : Nat} {w : BitVec 64} {s : State} (aligned : w.toNat % 4096 = 0)
include aligned

theorem write64_cmdBase (disabled : (s.fn i).cmdEnable = false) : write64 i 0x200 be w.toNat s = s.updFn i (fun f => { f with cmdBase := w }) := by
  simp [write64, disabled, aligned]

theorem write64_cplBase (disabled : (s.fn i).cplEnable = false) : write64 i 0x220 be w.toNat s = s.updFn i (fun f => { f with cplBase := w }) := by
  simp [write64, disabled, aligned]

end bases

/-! ## Function resets empty both shadows (R304, R322, R205) -/

/-- Neither shadow of a function holds a half. -/
def Fn.Unshadowed (f : Fn) : Prop := f.rdShadow = none ∧ f.wrShadow = none

section resets
variable (i : Nat) (s : State)

theorem State.fn_of_fns {s t : State} (h : t.fns = s.fns) (i : Nat) : t.fn i = s.fn i := by
  rw [State.fn, h, State.fn]

theorem State.updInst_fn (j : Nat) (g : Inst → Inst) : (s.updInst j g).fn i = s.fn i := rfl
theorem resetCauses_fn (j : Nat) (keepFatal : Bool) : (resetCauses j keepFatal s).fn i = s.fn i := rfl

theorem finishFlr_fn : (finishFlr i s).fn i = { mse := s.sys.linkUp } := by
  have reset : (resetFn i s).fn i = {} := Tbl.get_set_self ..
  rw [finishFlr, pinsFollow_fn]
  exact (State.updFn_fn (resetFn i s) i (fun f => { f with mse := s.sys.linkUp })).trans (by rw [reset])

theorem writePreload_fns (st : Stall) (im : Image) (bubble : Bool) (r : Preload) : (writePreload st im bubble r s).fns = s.fns :=
  forEach_keeps State.fns (fun k s => by split <;> rfl) _ s

/-- The real-time area of a stall is in its cores alone (R220). -/
theorem writeArea_fns : (writeArea i s).fns = s.fns := by
  unfold writeArea
  split
  · extract_lets s1
    have map : s1.fns = s.fns := by
      simp only [s1]
      split
      · rfl
      · exact forEach_keeps State.fns (fun c s => by rfl) _ s
    refine (forEach_keeps State.fns (fun r s => ?_) _ s1).trans map
    split
    · rfl
    · exact writePreload_fns ..
  · rfl

theorem endStallReset_fns : (endStallReset i s).fns = s.fns := by
  unfold endStallReset
  split
  · split
    · exact writeArea_fns ..
    · rfl
  · rfl

/-- FUNCTION_RESET ends with the rings reset (R205, R409). -/
theorem functionResetOf_fn_resetRings (present : s.fnExists i = true) (settled : (s.inst i).removal = none) :
    ∃ u, (functionResetOf i s).fn i = (resetRings i u).fn i := by
  have runs : ¬(!s.fnExists i || (s.inst i).removal.isSome) = true := by simp [present, settled]
  unfold functionResetOf
  rw [if_neg runs]
  extract_lets s0 s1
  refine ⟨removeInst i none true s0, ?_⟩
  rw [pinsFollow_fn, resetCauses_fn, State.updInst_fn, State.fn_of_fns (endStallReset_fns i _)]

theorem resetRings_unshadowed : ((resetRings i s).fn i).Unshadowed := by
  rw [resetRings, State.updFn_fn]
  exact ⟨rfl, rfl⟩

/-- What the Porter reports of an operation leaves the shadows. -/
theorem endPorter_unshadowed (op : Nat) (elapsed : BitVec 16) (result : Bytes) (before : (s.fn i).Unshadowed) : ((endPorter .mgmt op elapsed result s).fn i).Unshadowed := by
  obtain ⟨p, l, m, e⟩ := (raiseDev_noted 15 0 op (s.updSys (fun y => { y with porter := { y.porter with
    busy := false, done := true, lastOp := BitVec.ofNat 4 op, elapsed := elapsed, result := result } }))).2 i
  have same : (endPorter .mgmt op elapsed result s).fn i = { s.fn i with pba := p, lastMsg := l, msgDue := m } := e
  rw [same]
  exact before

end resets

theorem execFlrComplete_ends {fn : FnId} {s : State} (runs : (s.fn fn.toNat).flr = true) (raised : (s.inst fn.toNat).raiseWaits = false) :
    exec (.flrComplete fn) s = .next (finishFlr fn.toNat s) :=
  congrArg Host.Outcome.next (if_pos (by rw [runs, raised]; rfl))

theorem execFunctionReset_mgmt {fn : FnId} {elapsed : BitVec 16} {s : State} (powered : s.porterRuns = true) (idle : s.sys.porter.busy = false) :
    exec (.functionReset .mgmt fn elapsed) s = .next (endPorter .mgmt 1 elapsed [] (functionResetOf fn.toNat s)) := by
  change Host.Outcome.next (porterOp .mgmt 1 (some fn.toNat) elapsed (functionResetOf fn.toNat) noResult s) = _
  simp only [porterOp, powered, idle, Bool.not_true, Bool.false_eq_true, if_false]
  rfl

/-- Settles O46: reads and writes of the halves, then the ring bases, then the two resets of a function. -/
theorem registerShadows : Obligations.RegisterShadows := by
  unfold Obligations.RegisterShadows
  intro fn r v lo w tee elapsed s i a f high holds empty
  refine ⟨fun h opened => ?_, fun aligned => ⟨fun disabled => ?_, fun disabled => ?_⟩, fun runs raised => ?_, fun powered idle present settled => ?_⟩
  · obtain ⟨lowWord, highWord⟩ := regWord_half_lt s h
    have below : a + 4 < 0x7008 := by have := is64_below h; omega
    have nextHalf : (r + 4).toNat = a + 4 := toNat_add_four h
    have written : exec (.regHighHalfWrite fn (r + 4) v 15 tee) s = .next (writeHigh i (a + 4) 15 v.toNat s) := by
      rw [exec_wholeWrite _ (r + 4).toNat (r + 4) v (by simp [registerWrites]) opened, nextHalf, write32_high h]
    have read {x : Nat} {t : State} (shadow : shadowRead i (a + 4) s = (x, t)) (word : x < 2 ^ 32) :
        exec (.regHighHalfRead fn (r + 4) tee) s = .next (t.emit (.readDone i (a + 4) (some (BitVec.ofNat 64 x)))) := by
      change Host.Outcome.next (barRead i (r + 4).toNat 15 tee s) = _
      rw [nextHalf, barRead_half opened below shadow word]
    refine ⟨?_, fun latched => ?_, fun unlatched => ?_, ?_, fun held => ?_, fun unheld => ?_⟩
    · exact congrArg _ (barRead_half opened (by omega) (shadowRead_low h) lowWord)
    · rw [read (shadowRead_latched h latched) v.isLt, BitVec.ofNat_toNat]
    · exact read (shadowRead_unlatched h unlatched) highWord
    · rw [exec_wholeWrite _ a r v (by simp [registerWrites, a]) opened, write32_low h, writeLow, BitVec.ofNat_toNat, BitVec.setWidth_eq]
    · rw [written, writeHigh_held v.isLt held]
    · rw [written, writeHigh_unheld v.isLt unheld]
  · rw [write64_cmdBase aligned disabled, State.updFn_fn]
  · rw [write64_cplBase aligned disabled, State.updFn_fn]
  · exact ⟨_, execFlrComplete_ends runs raised, by rw [finishFlr_fn], by rw [finishFlr_fn]⟩
  · obtain ⟨u, rings⟩ := functionResetOf_fn_resetRings i s present settled
    exact ⟨_, execFunctionReset_mgmt powered idle, endPorter_unshadowed i _ 1 elapsed [] (rings ▸ resetRings_unshadowed i u)⟩

end Sys2Proof.Machine
end

section
/-! O47: the fetch of commands, and its stop (12_host_interface R310, R311, R327). -/

namespace Sys2Proof.Machine

/-! ## Entries of a fetch are taken (R310, R327) -/

/-- A code that the family tables give. -/
def codeKnown (e : Entry) : Bool := !decide (fld e 7 0 = 0 ∨ fld e 7 0 > familyCodes (fld e 15 8))

/-- CMD_HEAD past one more entry of a fetch. -/
def Fn.pastEntry (f : Fn) : Fn :=
  { f with cmdHead := BitVec.ofNat 16 ((f.cmdHead.toNat + 1) % 2 ^ f.cmdSize.toNat), fetching := f.fetching - 1 }

section entry
variable {i : Nat} {e : Entry} {s : State}

theorem takeEntry_unknown (unknown : codeKnown e = false) :
    takeEntry i e s = finishCmd i (fld e 15 8) (fld e 63 32) St.badCommand 0 (s.updFn i Fn.pastEntry) := by
  have code : (decide (fld e 7 0 = 0) || decide (fld e 7 0 > familyCodes (fld e 15 8))) = true := by
    rw [← Bool.decide_or]
    exact Bool.not_inj unknown
  exact if_pos code

theorem takeEntry_known (known : codeKnown e = true) :
    takeEntry i e s = (s.updFn i Fn.pastEntry).updFn i (fun f => { f with taken := f.taken ++ [e] }) := by
  have code : ¬(decide (fld e 7 0 = 0) || decide (fld e 7 0 > familyCodes (fld e 15 8))) = true := by
    rw [← Bool.decide_or, Bool.not_eq_true]
    exact Bool.not_inj known
  exact if_neg code

end entry

/-- From `f` to `g` a command ring has taken entries in order: CMD_HEAD is past each, and those with a known code wait. -/
structure Fn.Took (es : List Entry) (f g : Fn) : Prop where
  size : g.cmdSize = f.cmdSize
  head : g.cmdHead.toNat = (f.cmdHead.toNat + es.length) % 2 ^ f.cmdSize.toNat
  fetching : g.fetching = f.fetching - es.length
  taken : g.taken = f.taken ++ es.filter codeKnown

section took
variable {i : Nat} {e : Entry} {es : List Entry} {f g h : Fn} {s : State}

theorem Fn.Took.nil (inside : f.cmdHead.toNat % 2 ^ f.cmdSize.toNat = f.cmdHead.toNat) : f.Took [] f :=
  ⟨rfl, inside.symm, rfl, (List.append_nil _).symm⟩

theorem Fn.Took.cons (first : f.Took [e] g) (rest : g.Took es h) : f.Took (e :: es) h where
  size := rest.size.trans first.size
  head := by
    rw [rest.head, first.size, first.head, Nat.mod_add_mod, Nat.add_assoc, ← List.length_append, List.singleton_append]
  fetching := by
    rw [rest.fetching, first.fetching, Nat.sub_sub, ← List.length_append, List.singleton_append]
  taken := by
    rw [rest.taken, first.taken, List.append_assoc, ← List.filter_append, List.singleton_append]

theorem pastEntry_head (size : f.cmdSize.toNat ≤ 16) : f.pastEntry.cmdHead.toNat = (f.cmdHead.toNat + 1) % 2 ^ f.cmdSize.toNat := by
  have below : 2 ^ f.cmdSize.toNat ≤ 2 ^ 16 := Nat.pow_le_pow_right (by decide) size
  have inside : (f.cmdHead.toNat + 1) % 2 ^ f.cmdSize.toNat < 2 ^ f.cmdSize.toNat := Nat.mod_lt _ (Nat.two_pow_pos _)
  exact BitVec.toNat_ofNat .. ▸ Nat.mod_eq_of_lt (by omega)

/-- A completion leaves the command ring as it is. -/
theorem Posted.took {t : State} (posted : Posted s t) (took : f.Took es (s.fn i)) : f.Took es (t.fn i) := by
  obtain ⟨_, _, _, _, _, _, _, _, _, ring⟩ := posted.2 i
  rw [ring]
  exact ⟨took.size, took.head, took.fetching, took.taken⟩

theorem takeEntry_took (e : Entry) (size : (s.fn i).cmdSize.toNat ≤ 16) : (s.fn i).Took [e] ((takeEntry i e s).fn i) := by
  cases code : codeKnown e with
  | true =>
    rw [takeEntry_known code, State.updFn_fn, State.updFn_fn]
    exact ⟨rfl, pastEntry_head size, rfl, by rw [List.filter_singleton, code]; rfl⟩
  | false =>
    rw [takeEntry_unknown code]
    refine (finishCmd_posted ..).took ?_
    rw [State.updFn_fn]
    exact ⟨rfl, pastEntry_head size, rfl, by rw [List.filter_singleton, code]; exact (List.append_nil _).symm⟩

theorem forEach_takeEntry_took (es : List Entry) : ∀ s : State, (s.fn i).cmdSize.toNat ≤ 16 → (s.fn i).cmdHead.toNat % 2 ^ (s.fn i).cmdSize.toNat = (s.fn i).cmdHead.toNat →
    (s.fn i).Took es ((forEach (takeEntry i) es s).fn i) := by
  induction es with
  | nil => exact fun _ _ inside => .nil inside
  | cons e es ih =>
    intro s size _
    have first := takeEntry_took e size
    exact first.cons (ih _ (by rwa [first.size]) (by rw [first.size, first.head, Nat.mod_mod]))

end took

/-! ## The instructions (R310, R311) -/

section instructions
variable {fn : FnId} {s : State}

/-- Entries of an outstanding fetch are taken in order, whether the ring is enabled or not. -/
theorem execCommandFetchReturn_outstanding {es : List Entry} (outstanding : es.length ≤ (s.fn fn.toNat).fetching) (may : (s.fn fn.toNat).mayWrite = true) :
    exec (.commandFetchReturn fn es) s = .next (forEach (takeEntry fn.toNat) es s) := by
  refine congrArg Host.Outcome.next (if_neg ?_)
  simp [may, Nat.not_lt.mpr outstanding]

theorem writeCmdEnable_clear {i v : Nat} (off be : Nat) (even : v % 2 = 0) : writeCmdEnable i off be v s = s.updFn i (fun f => { f with cmdEnable := false }) :=
  if_pos even

section disabled
variable (disabled : (s.fn fn.toNat).cmdEnable = false)
include disabled

theorem pumpRing_disabled : pumpRing fn.toNat s = s := by
  simp only [pumpRing, disabled, Bool.false_and, Bool.false_eq_true, if_false]

/-- A doorbell of a disabled ring is logged and nothing more. -/
theorem execCmdDoorbell_disabled (v : BitVec 32) (tee : Tee) :
    exec (.cmdDoorbell fn v 15 tee) s = .next (if s.barOpen fn.toNat tee then regIgnored fn.toNat 0x210 15 true s else s) := by
  cases opened : s.barOpen fn.toNat tee with
  | true => rw [exec_wholeWrite _ 0x210 0 v (by simp [registerWrites]) opened, write32_doorbell, writeDoorbell_eq, if_pos (.inl disabled)]; rfl
  | false => exact exec_registerWrites_closed (off := 0) (v := v) (be := 15) (x := (_, 0x210)) (by simp [registerWrites]) opened

/-- CMD_STOPPED is the word's bit 1 (Table 12-4). -/
theorem regWord_cmdStopped : regWord s fn.toNat 0x20C / 2 % 2 = 1 ↔ (s.fn fn.toNat).fetching = 0 := by
  have word : regWord s fn.toNat 0x20C = 2 * b2n ((s.fn fn.toNat).fetching == 0) := by simp [regWord, commonWord, disabled, b2n]
  rw [word]
  by_cases stopped : (s.fn fn.toNat).fetching = 0
  · simp [stopped, b2n]
  · simp [stopped, b2n]

end disabled
end instructions

/-- Settles O47: CMD_ENABLE cleared, then no new fetch, then the entries of those outstanding, then CMD_STOPPED. -/
theorem fetchStops : Obligations.FetchStops := by
  unfold Obligations.FetchStops
  intro fn v w tee es e r s i f known cleared past
  refine ⟨fun opened even => ⟨?_, rfl⟩, fun disabled => ⟨pumpRing_disabled disabled, _, execCmdDoorbell_disabled disabled w tee, ?_⟩, fun size inside may outstanding => ?_,
    fun may outstanding unknown => ?_, regWord_cmdStopped⟩
  · rw [exec_wholeWrite _ 0x20C 0 v (by simp [registerWrites]) opened, write32_cmdEnable, writeCmdEnable_clear _ _ even]
  · split
    · refine ⟨(regIgnored_noted ..).posted.fetching i, fun a n fetched => ?_⟩
      exact (raiseIn_signalled ..).mem_of_not_signal fetched rfl
    · exact ⟨rfl, fun _ _ => id⟩
  · obtain ⟨-, head, fetching, taken⟩ := forEach_takeEntry_took es s size inside
    exact ⟨_, execCommandFetchReturn_outstanding outstanding may, head, fetching, taken⟩
  · have one : [e].length ≤ f.fetching := Nat.one_le_iff_ne_zero.mpr outstanding
    rw [execCommandFetchReturn_outstanding one may]
    exact congrArg _ (takeEntry_unknown unknown)

end Sys2Proof.Machine
end

section
/-! O49: host reads, requests, function resets and the link (12_host_interface R298 to R300, R319 to R323; 14_isolation R365, R373). -/

namespace Sys2Proof.Machine

/-! ## The end of a host read (R319, R320, R365) -/

section reads
variable {k : Nat} {data : Option Bytes} {finds : List LineFind} {q : DmaRead} {s : State}

theorem readEnds_unknown (unknown : s.dmaReads.find? (fun r => r.tag == k) = none) : readEnds k data finds s = freeReadTag k s := by
  simp only [readEnds, unknown]

variable (found : s.dmaReads.find? (fun r => r.tag == k) = some q)
include found

theorem readEnds_stale (old : q.gen ≠ (s.inst q.fn).gen.toNat) : readEnds k data finds s = lateDiscard q.fn 1 (freeReadTag k s) := by
  have stale : (q.gen != (s.inst q.fn).gen.toNat) = true := bne_iff_ne.mpr old
  simp only [readEnds, found, stale, if_true]

section ingest
variable {t : Nat} (current : q.gen = (s.inst q.fn).gen.toNat) (engine : q.engGen = Tbl.get 0 s.dmaGen q.engine) (use : q.use = .ingest t)
include current engine use

omit found use in
theorem generations_match : (q.gen != (s.inst q.fn).gen.toNat) = false ∧ (q.engGen != Tbl.get 0 s.dmaGen q.engine) = false :=
  ⟨bne_eq_false_iff_eq.mpr current, bne_eq_false_iff_eq.mpr engine⟩

/-- A read without data ends the transfer of its step. -/
theorem readEnds_noData : readEnds k none finds s = abortTransfer q.fn t (freeReadTag k s) := by
  obtain ⟨sameGen, sameEngine⟩ := generations_match current engine
  simp only [readEnds, found, sameGen, sameEngine, use, Bool.false_eq_true, if_false]

theorem readEnds_data (bs : Bytes) : readEnds k (some bs) finds s =
    if bs.length = q.len then ingestPiece q.fn t q.offset bs finds (freeReadTag k s) else abortTransfer q.fn t (freeReadTag k s) := by
  obtain ⟨sameGen, sameEngine⟩ := generations_match current engine
  simp only [readEnds, found, sameGen, sameEngine, use, Bool.false_eq_true, if_false]

/-- So does one with another status, or with data of another length. -/
theorem readEnds_failed {status : RcStatus} {bs : Bytes} (failed : status ≠ .successful ∨ bs.length ≠ q.len) :
    readEnds k (if status = .successful then some bs else none) finds s = abortTransfer q.fn t (freeReadTag k s) := by
  by_cases successful : status = .successful
  · rw [if_pos successful, readEnds_data found current engine use, if_neg (failed.resolve_left (not_not_intro successful))]
  · rw [if_neg successful, readEnds_noData found current engine use]

end ingest
end reads

/-! ## Bus Master Enable and D3hot (R300, R321) -/

section requests
variable {fn : FnId} {s : State}

/-- Without a step that reads, only the function's reads and fetches go. -/
theorem withdraw_noReader {i : Nat} (idle : readingSteps s i = []) :
    withdraw i s = { s with dmaReads := s.dmaReads.filter (fun r => r.fn != i) }.updFn i (fun f => { f with fetching := 0 }) := by
  rw [withdraw, idle]
  rfl

variable (present : s.fnExists fn.toNat = true)
include present

theorem execBusMasterDisable_enabled (enabled : (s.fn fn.toNat).bme = true) :
    exec (.busMasterDisable fn) s = .next (withdraw fn.toNat (s.updFn fn.toNat (fun f => { f with bme := false }))) :=
  congrArg Host.Outcome.next (if_pos (Bool.and_eq_true_iff.mpr ⟨present, enabled⟩))

theorem execD3hotEntry_d0 (d0 : (s.fn fn.toNat).d3hot = false) :
    exec (.d3hotEntry fn) s = .next (withdraw fn.toNat (s.updFn fn.toNat (fun f => { f with d3hot := true }))) :=
  congrArg Host.Outcome.next (if_pos (by rw [present, d0]; rfl))

theorem execBusMasterEnable_d0 (up : s.sys.linkUp = true) (noFlr : (s.fn fn.toNat).flr = false) (d0 : (s.fn fn.toNat).d3hot = false) :
    exec (.busMasterEnable fn) s = .next (goOn fn.toNat (s.updFn fn.toNat (fun f => { f with bme := true }))) := by
  change execBusMasterEnable fn s = _
  have may : ((s.updFn fn.toNat (fun f => { f with bme := true })).fn fn.toNat).mayWrite = true := by rw [State.updFn_fn]; simp [Fn.mayWrite, noFlr, d0]
  simp only [execBusMasterEnable, present, up, noFlr, may, Bool.not_false, Bool.and_self, if_true]

theorem execD0Return_enabled (d3hot : (s.fn fn.toNat).d3hot = true) (enabled : (s.fn fn.toNat).bme = true) (noFlr : (s.fn fn.toNat).flr = false) :
    exec (.d0Return fn) s = .next (goOn fn.toNat (s.updFn fn.toNat (fun f => { f with d3hot := false }))) := by
  change execD0Return fn s = _
  have may : ((s.updFn fn.toNat (fun f => { f with d3hot := false })).fn fn.toNat).mayWrite = true := by rw [State.updFn_fn]; simp [Fn.mayWrite, noFlr, enabled]
  simp only [execD0Return, present, d3hot, may, Bool.and_self, if_true]

end requests

/-! ## Function resets (R322, R323, R373) -/

/-- Nothing keyed to the old generation is left. -/
def Inst.Emptied (n : Inst) : Prop := n.image = none ∧ n.steps = [] ∧ n.jobs = [] ∧ n.adapters = []

section resets
variable (i : Nat) (s : State)

theorem State.updFn_inst (j : Nat) (g : Fn → Fn) : (s.updFn j g).inst i = s.inst i := rfl

theorem dropKeyed_emptied : ((dropKeyed i s).inst i).Emptied := by
  unfold dropKeyed
  extract_lets s' s s1
  rw [State.updInst_inst]
  exact ⟨rfl, rfl, rfl, rfl⟩

/-- A removal that keeps the stall drops what is keyed to the generation and empties its function's queues, and runs on. -/
theorem removeInst_clears (tag : Option Nat) : let t := removeInst i tag true s
    (t.inst i).Emptied ∧ (t.inst i).removal.isSome = true ∧ (t.fn i).taken = [] ∧ (t.fn i).held = [] := by
  unfold removeInst
  extract_lets held s1 s2 s3 t
  obtain ⟨image, steps, jobs, adapters⟩ : (s3.inst i).Emptied := dropKeyed_emptied i _
  clear_value s3
  rw [State.updInst_inst, State.updInst_fn, State.updFn_fn, State.updFn_inst]
  exact ⟨⟨image, steps, jobs, adapters⟩, rfl, rfl, rfl⟩

theorem startFlr_clears : let t := startFlr i s
    (t.inst i).Emptied ∧ (t.inst i).tdi = .unlocked ∧ (t.inst i).removal.isSome = true ∧ (t.fn i).taken = [] ∧ (t.fn i).held = [] := by
  unfold startFlr
  extract_lets s0 s1 t
  have clears := removeInst_clears i s1 none
  rw [State.updInst_inst, State.updInst_fn]
  generalize removeInst i none true s1 = u at clears ⊢
  obtain ⟨⟨image, steps, jobs, adapters⟩, runs, taken, held⟩ := clears
  exact ⟨⟨image, steps, jobs, adapters⟩, rfl, runs, taken, held⟩

theorem finishFlr_lines : (finishFlr i s).lines = s.lines := by
  obtain ⟨o, a, e⟩ := pinsFollow_eq s (resetCauses i true (((resetFn i s).updFn i (fun f => { f with mse := s.sys.linkUp })).updStall i (fun st => { st with inReset := false })))
  rw [finishFlr, e]
  rfl

end resets

section flr
variable {s : State}

theorem execFlr_starts {fn : FnId} (vf : fn.toNat ≠ 0) (present : s.fnExists fn.toNat = true) (up : s.sys.linkUp = true) (noFlr : (s.fn fn.toNat).flr = false) :
    exec (.flr fn) s = .next (startFlr fn.toNat s) :=
  congrArg Host.Outcome.next (if_pos (by rw [bne_iff_ne.mpr vf, present, up, noFlr]; rfl))

theorem execPfFlr_starts (up : s.sys.linkUp = true) (noFlr : (s.fn 0).flr = false) : exec .pfFlr s = .next (startFlr 0 (clearVfs true (dropPfCommands s))) :=
  congrArg Host.Outcome.next (if_pos (by rw [up, noFlr]; rfl))

end flr

/-! ## VF Enable (R301, R322) -/

section vfs
variable {k : Nat} {s : State}

/-- A VF appears with its registers at reset, and takes memory requests (log entry 25). -/
def bringVf (i : Nat) (s : State) : State := (resetFn i s).updFn i (fun f => { f with mse := true })

theorem bringVf_fn (i : Nat) (s : State) : (bringVf i s).fn k = if k = i then { mse := true } else s.fn k := by
  unfold bringVf
  split
  · next same =>
    have reset : (resetFn i s).fn i = {} := Tbl.get_set_self ..
    rw [same, State.updFn_fn, reset]
  · next other => exact (State.fn_updFn_ne _ other).trans (Tbl.get_set_ne _ _ _ _ _ other)

theorem forEach_bringVf_fn (l : List Nat) : ∀ s : State, k ∈ l ∨ s.fn k = { mse := true } → (forEach bringVf l s).fn k = { mse := true } := by
  induction l with
  | nil => exact fun _ h => h.resolve_left List.not_mem_nil
  | cons x l ih =>
    intro s h
    refine ih (bringVf x s) ?_
    rw [bringVf_fn]
    by_cases here : k = x
    · exact .inr (if_pos here)
    · rw [if_neg here]
      exact h.imp_left fun listed => (List.mem_cons.mp listed).resolve_left here

theorem forEach_bringVf_sys (l : List Nat) (s : State) : (forEach bringVf l s).sys = s.sys := forEach_keeps State.sys (fun i s => by rfl) l s

theorem execVfEnableSet_clear {n : BitVec 6} (clear : s.sys.vfEnable = false) (up : s.sys.linkUp = true) (named : n ≠ 0) :
    let s1 := s.updSys (fun y => { y with vfEnable := true, numVFs := n })
    exec (.vfEnableSet n) s = .next (forEach bringVf s1.vfs s1) := by
  change execVfEnableSet n s = _
  simp only [execVfEnableSet, clear, up, decide_eq_false named, Bool.not_true, Bool.or_self, Bool.false_eq_true, if_false]
  rfl

/-- VFs 1 to NumVFs exist. -/
theorem fnExists_enabled {t : State} (enabled : t.sys.vfEnable = true) (within : k ≤ t.sys.numVFs.toNat) : t.fnExists k = true := by
  simp [State.fnExists, enabled, within]

theorem mem_vfs {t : State} (vf : 1 ≤ k) (below : k < 64) (present : t.fnExists k = true) : k ∈ t.vfs := by
  simp [State.vfs, below, present, Nat.ne_of_gt vf]

end vfs

/-! ## The link (R298, R299) -/

section link
variable {s : State}

theorem execPcieLinkUp_trains {rate : BitVec 3} {width : BitVec 5} (down : s.sys.linkUp = false) (perstN : s.sys.perstN = true) (refclk : s.sys.pcieRefclkOk = true)
    (noLoop : s.sys.pcieLoop = false) (runs : s.sys.phase = .operational ∨ s.sys.phase = .starting) :
    exec (.pcieLinkUp rate width) s = .next ((s.updSys (fun y => { y with linkUp := true, linkRate := rate, linkWidth := width })).updFn 0 (fun f => { f with mse := true })) := by
  refine congrArg Host.Outcome.next (if_neg ?_)
  rcases runs with phase | phase
  · simp [down, perstN, refclk, noLoop, phase]
  · simp [down, perstN, refclk, noLoop, phase]

theorem linkLost_down (down : s.sys.linkUp = false) : linkLost s = s := if_pos (by rw [down]; rfl)

theorem linkLost_linkUp (s : State) : (linkLost s).sys.linkUp = false := by
  unfold linkLost
  split
  · next down => exact Bool.not_inj down
  · rfl

end link

/-- Settles O49: the end of a read, then what withdraws and restores a function's requests; the resets, VF Enable and the link. -/
theorem hostReadsAndResets : Obligations.HostReadsAndResets := by
  unfold Obligations.HostReadsAndResets
  constructor
  · intro fn tag status data finds q t s i f k free found forgets
    refine ⟨fun unknown => ⟨congrArg _ (readEnds_unknown unknown), congrArg _ (readEnds_unknown unknown)⟩,
      fun found old => ⟨congrArg _ (readEnds_stale found old), congrArg _ (readEnds_stale found old)⟩,
      fun found current engine use => ⟨?_, fun failed => ?_, fun successful whole => ?_⟩, fun present enabled => ?_, fun present d0 => ?_,
      execBusMasterEnable_d0, execD0Return_enabled⟩
    · exact congrArg _ (readEnds_noData found current engine use)
    · exact congrArg _ (readEnds_failed found current engine use failed)
    · refine congrArg Host.Outcome.next ?_
      rw [if_pos successful, readEnds_data found current engine use, if_pos whole]
    · have withdraws := execBusMasterDisable_enabled present enabled
      exact ⟨withdraws, fun idle => withdraws.trans (congrArg _ (withdraw_noReader idle))⟩
    · have withdraws := execD3hotEntry_d0 present d0
      exact ⟨withdraws, fun idle => withdraws.trans (congrArg _ (withdraw_noReader idle))⟩
  · intro fn n rate width s i gone
    have cleared (k : Nat) (s : State) : gone k (startFlr k s) := by
      obtain ⟨⟨image, steps, jobs, adapters⟩, tdi, removal, taken, held⟩ := startFlr_clears k s
      exact ⟨image, steps, jobs, adapters, tdi, removal, taken, held⟩
    refine ⟨fun vf present up noFlr => ⟨execFlr_starts vf present up noFlr, cleared i s⟩, fun up noFlr => ⟨_, execPfFlr_starts up noFlr, rfl, cleared 0 _⟩,
      fun runs raised => ⟨_, execFlrComplete_ends runs raised, ?_⟩, fun enabled => ⟨_, congrArg Host.Outcome.next (if_pos enabled), rfl, rfl, rfl⟩,
      fun clear up named => ⟨_, execVfEnableSet_clear clear up named, ?_⟩,
      fun down perstN refclk noLoop runs => ⟨_, execPcieLinkUp_trains down perstN refclk noLoop runs, rfl, rfl, rfl, ?_⟩,
      fun up => congrArg Host.Outcome.next (if_pos up), fun _ => ⟨_, rfl, rfl, linkLost_linkUp s⟩, fun down => congrArg _ (linkLost_down down)⟩
    · rw [finishFlr_fn]
      exact ⟨rfl, rfl, rfl, rfl, finishFlr_lines i s⟩
    · have sys := forEach_bringVf_sys (s.updSys (fun y => { y with vfEnable := true, numVFs := n })).vfs (s.updSys (fun y => { y with vfEnable := true, numVFs := n }))
      refine ⟨by rw [sys]; rfl, fun k first last => ?_⟩
      have listed := mem_vfs (t := s.updSys (fun y => { y with vfEnable := true, numVFs := n })) first (by omega) (fnExists_enabled rfl last)
      rw [forEach_bringVf_fn _ _ (.inl listed)]
      exact ⟨fnExists_enabled (by rw [sys]; rfl) (by rw [sys]; exact last), rfl, rfl, rfl⟩
    · rw [State.updFn_fn]

end Sys2Proof.Machine
end

section
/-! O2: the queue of commands. No operation of the machine takes from it or adds to it; only a step does (log entry 1). One lemma for each operation; that the memories keep their canonical form stands in Laws/Intact. -/

namespace Sys2Proof.Machine

/-- If an outcome goes on, it is with the queue of `s`. -/
def KeepsQueue (s : State) (o : Host.Outcome State Fault Refusal) : Prop := ∀ t, o = .next t → t.pending = s.pending

@[simp] theorem keepsQueue_next {s t : State} : KeepsQueue s (.next t) ↔ t.pending = s.pending := ⟨fun h => h t rfl, fun h _ e => Host.Outcome.next.inj e ▸ h⟩
@[simp] theorem keepsQueue_fault (s : State) (r : Fault) : KeepsQueue s (.fault r) := fun _ e => by cases e

/-! ## What a choice, a list of rounds, and an answer in a tuple keep -/

@[simp] theorem State.pending_ite {c : Prop} [Decidable c] (a b : State) : (if c then a else b).pending = if c then a.pending else b.pending := apply_ite ..

@[simp] theorem forEach_pending {α : Type} {f : α → State → State} (h : ∀ a s, (f a s).pending = s.pending) (l : List α) (s : State) : (forEach f l s).pending = s.pending :=
  forEach_keeps State.pending h l s

/-- The state in which the data mover leaves off. -/
def MoverEnd.state : MoverEnd → State
  | .done s => s
  | .waits s => s
  | .failed s => s

/-- As `forEach_pending`, where the list's rounds begin after an operation that keeps the queue. -/
theorem forEach_queue {α : Type} {f : α → State → State} {l : List α} {s t : State} (h : ∀ a s, (f a s).pending = s.pending) (hs : s.pending = t.pending) :
    (forEach f l s).pending = t.pending := (forEach_pending h l s).trans hs

/-- The two halves of an answer that a match has taken apart. -/
theorem pair_eq_iff {α β : Type} {p : α × β} {a : α} {b : β} : p = (a, b) ↔ a = p.1 ∧ b = p.2 := by rw [Prod.ext_iff, eq_comm (a := p.1), eq_comm (a := p.2)]

/-- Steps that may find no room, one after the other. -/
theorem foldBind_pending {α : Type} {f : α → State → Option State} {s : State} (h : ∀ a s t, f a s = some t → t.pending = s.pending) {l : List α} {o : Option State}
    (ho : ∀ u, o = some u → u.pending = s.pending) {t : State} (ht : l.foldl (fun o a => o.bind (f a)) o = some t) : t.pending = s.pending := by
  induction l generalizing o with
  | nil => exact ho t ht
  | cons a l ih =>
    refine ih (fun u hu => ?_) ht
    obtain ⟨v, hv, hu⟩ := Option.bind_eq_some_iff.mp hu
    exact (h a v u hu).trans (ho v hv)

end Sys2Proof.Machine
end

section
/-! O2: the shared accesses: each keeps the queue. -/

namespace Sys2Proof.Machine

/-! ## Machine/Flags.lean -/

@[simp] theorem pinsFollow_pending (old new : State) : (pinsFollow old new).pending = new.pending := by simp [pinsFollow]
@[simp] theorem messageOut_pending (fn : Nat) (s : State) : (messageOut fn s).pending = s.pending := by simp [messageOut]
@[simp] theorem sendMessage_pending (fn : Nat) (s : State) : (sendMessage fn s).pending = s.pending := by unfold sendMessage; dsimp only; (repeat' split) <;> simp
@[simp] theorem following_pending (fn : Nat) (change : State → State) (s : State) (hchange : ∀ s, (change s).pending = s.pending) : (following fn change s).pending = s.pending := by
  simp [following, hchange]
@[simp] theorem raiseIn_pending (tree g b detail inst : Nat) (s : State) : (raiseIn tree g b detail inst s).pending = s.pending := by simp [raiseIn]
@[simp] theorem raise_pending (fn g b detail : Nat) (s : State) : (raise fn g b detail s).pending = s.pending := by simp [raise]
@[simp] theorem raiseDev_pending (g b detail : Nat) (s : State) : (raiseDev g b detail s).pending = s.pending := by simp [raiseDev]
@[simp] theorem raiseDevFor_pending (g b detail inst : Nat) (s : State) : (raiseDevFor g b detail inst s).pending = s.pending := by simp [raiseDevFor]
@[simp] theorem setLive_pending (tree g b : Nat) (on : Bool) (detail inst : Nat) (s : State) : (setLive tree g b on detail inst s).pending = s.pending := by
  simp [setLive]
@[simp] theorem clearCauses_pending (tree g mask : Nat) (s : State) : (clearCauses tree g mask s).pending = s.pending := by simp [clearCauses]
@[simp] theorem resetCauses_pending (fn : Nat) (keepFatal : Bool) (s : State) : (resetCauses fn keepFatal s).pending = s.pending := by simp [resetCauses]
@[simp] theorem resetAllCauses_pending (s : State) : (resetAllCauses s).pending = s.pending := by simp [resetAllCauses]
@[simp] theorem setCompletionBit_pending (fn : Nat) (s : State) : (setCompletionBit fn s).pending = s.pending := following_pending _ _ _ fun _ => rfl
@[simp] theorem setExportBit_pending (fn : Nat) (s : State) : (setExportBit fn s).pending = s.pending := following_pending _ _ _ fun _ => rfl
@[simp] theorem setMaintBit_pending (s : State) : (setMaintBit s).pending = s.pending := following_pending _ _ _ fun _ => rfl

/-! ## Machine/Rings.lean -/

@[simp] theorem writeCpl_pending (fn : Nat) (c : Cpl) (s : State) : (writeCpl fn c s).pending = s.pending := by simp [writeCpl]
@[simp] theorem releaseGo_pending (fn : Nat) (cs : List Cpl) (s : State) : (releaseGo fn cs s).pending = s.pending := by
  induction cs generalizing s with
  | nil => rfl
  | cons c cs ih =>
    unfold releaseGo
    (repeat' split) <;> simp [ih]
@[simp] theorem releaseHeld_pending (fn : Nat) (s : State) : (releaseHeld fn s).pending = s.pending := by simp [releaseHeld]
@[simp] theorem post_pending (fn : Nat) (c : Cpl) (s : State) : (post fn c s).pending = s.pending := by simp [post]
@[simp] theorem finish_pending (fn tag status : Nat) (result : Nat) (s : State) : (finish fn tag status result s).pending = s.pending := by simp [finish]
@[simp] theorem finishMaint_pending (tag status result : Nat) (s : State) : (finishMaint tag status result s).pending = s.pending := by simp [finishMaint]
@[simp] theorem finishStep_pending (fn tag status flags result : Nat) (bound : Option Nat) (s : State) : (finishStep fn tag status flags result bound s).pending = s.pending := by
  simp [finishStep]
@[simp] theorem interim_pending (fn tag status : Nat) (s : State) : (interim fn tag status s).pending = s.pending := by simp [interim]
@[simp] theorem notAvailable_pending (fn tag family : Nat) (s : State) : (notAvailable fn tag family s).pending = s.pending := by simp [notAvailable]
@[simp] theorem releaseGoPadded_pending (l : List (Nat × Nat × Cpl)) (s : State) : (releaseGoPadded l s).pending = s.pending := by
  induction l generalizing s with
  | nil => rfl
  | cons x xs ih =>
    unfold releaseGoPadded
    (repeat' split) <;> simp [ih]
@[simp] theorem releasePadded_pending (s : State) : (releasePadded s).pending = s.pending := by simp [releasePadded]
@[simp] theorem hostWriteGo_pending (fn n addr : Nat) (bs : Bytes) (s : State) : (hostWriteGo fn n addr bs s).pending = s.pending := by
  induction n generalizing addr bs s with
  | zero => rfl
  | succ n ih =>
    unfold hostWriteGo
    (repeat' split) <;> simp [ih]
@[simp] theorem hostWrite_pending (fn addr : Nat) (bs : Bytes) (s : State) : (hostWrite fn addr bs s).pending = s.pending := by simp [hostWrite]

/-! ## Machine/Maint.lean -/

@[simp] theorem declareAct_pending (kind : ActKind) (res : List Res) (tag : Option Nat) (arg : Nat) (s : State) : (declareAct kind res tag arg s).pending = s.pending := by
  simp [declareAct]
@[simp] theorem startAct_pending (id : Nat) (endBy : Option Nat) (s : State) : (startAct id endBy s).pending = s.pending := by simp [startAct]
@[simp] theorem endAct_pending (id : Nat) (s : State) : (endAct id s).pending = s.pending := by simp [endAct]

/-! ## Machine/Lines.lean -/

@[simp] theorem State.setPte_pending (s : State) (key : Nat) (e : Pte) : (State.setPte s key e).pending = s.pending := by simp [State.setPte]
@[simp] theorem sendToRetirement_pending (part frame : Nat) (s : State) : (sendToRetirement part frame s).pending = s.pending := by
  unfold sendToRetirement; (repeat' split) <;> simp
@[simp] theorem noteCorrections_pending (part line : Nat) (f : LineFind) (s : State) : (noteCorrections part line f s).pending = s.pending := by
  simp [noteCorrections]
@[simp] theorem markRekey_pending (inst key : Nat) (s : State) : (markRekey inst key s).pending = s.pending := by unfold markRekey; split <;> simp
@[simp] theorem recordRead_pending (base : Bool) (inst key part line page : Nat) (f : LineFind) (r : LineRead) (s : State) : (recordRead base inst key part line page f r s).pending = s.pending := by
  simp [recordRead]
@[simp] theorem readStored_pending (inst key : Nat) (e : Pte) (off ll : Nat) (f : LineFind) (s : State) : (readStored inst key e off ll f s).2.pending = s.pending := by
  unfold readStored; (repeat' split) <;> simp
@[simp] theorem readStoredRun_pending (inst key : Nat) (e : Pte) (ll0 : Nat) (finds : List LineFind) (n off : Nat) (s : State) : (readStoredRun inst key e ll0 finds n off s).2.2.pending = s.pending := by
  induction n generalizing off s with
  | zero => rfl
  | succ n ih =>
    unfold readStoredRun
    simp [ih]
@[simp] theorem readPacked_pending (inst key : Nat) (e : Pte) (ll0 b : Nat) (finds : List LineFind) (s : State) : (readPacked inst key e ll0 b finds s).2.pending = s.pending := by
  unfold readPacked; dsimp only; split
  · simp
  · split
    · simp
    · simp; split <;> simp
@[simp] theorem readLine_pending (inst key : Nat) (e : Pte) (la : Nat) (f : LineFind) (s : State) : (readLine inst key e la f s).2.pending = s.pending := by
  unfold readLine; split
  · rfl
  · split
    · dsimp only; split <;> next h => simp [(pair_eq_iff.mp h).2]
    · simp
@[simp] theorem takeMap_pending (inst : Nat) (s : State) : (takeMap inst s).2.2.pending = s.pending := by unfold takeMap; dsimp only; split <;> simp
@[simp] theorem ensureRekey_pending (inst key : Nat) (s : State) : (ensureRekey inst key s).pending = s.pending := by unfold ensureRekey; split <;> simp
@[simp] theorem putLine_pending (inst key : Nat) (e : Pte) (part line ll : Nat) (l : Line) (data : Bytes) (s : State) : (putLine inst key e part line ll l data s).pending = s.pending := by
  simp [putLine]
@[simp] theorem waitRekey_pending (inst key page : Nat) (s : State) : (waitRekey inst key page s).pending = s.pending := by simp [waitRekey]
@[simp] theorem writeLine_pending (inst key : Nat) (e : Pte) (la o : Nat) (bs : Bytes) (f : LineFind) (s : State) : (writeLine inst key e la o bs f s).2.pending = s.pending := by
  unfold writeLine; dsimp only; (repeat' split) <;> simp
@[simp] theorem rekeyLine_pending (inst key : Nat) (e : Pte) (r : RekeyRec) (off ll : Nat) (f : LineFind) (s : State) : (rekeyLine inst key e r off ll f s).pending = s.pending := by
  unfold rekeyLine; split <;> simp
@[simp] theorem readRange_pending (inst : Nat) (finds : List LineFind) (n k la : Nat) (s : State) : (readRange inst finds n k la s).2.pending = s.pending := by
  induction n generalizing k la s with
  | zero => rfl
  | succ n ih =>
    unfold readRange
    split
    · rfl
    · rfl
    · dsimp only; split <;> simp [ih]
@[simp] theorem writeRange_pending (inst : Nat) (finds : List LineFind) (n k la : Nat) (bs : Bytes) (s : State) : (writeRange inst finds n k la bs s).2.pending = s.pending := by
  induction n generalizing k la bs s with
  | zero => rfl
  | succ n ih =>
    unfold writeRange
    split
    · rfl
    · rfl
    · split <;> next h => simp [(pair_eq_iff.mp h).2, ih]
@[simp] theorem writeBytes_pending (inst : Nat) (finds : List LineFind) (n k la : Nat) (bs : Bytes) (s : State) : (writeBytes inst finds n k la bs s).2.pending = s.pending := by
  induction n generalizing k la bs s with
  | zero => rfl
  | succ n ih =>
    unfold writeBytes
    (repeat' split) <;> simp [ih]
@[simp] theorem readBytes_pending (inst la n : Nat) (finds : List LineFind) (s : State) : (readBytes inst la n finds s).2.pending = s.pending := by
  unfold readBytes; dsimp only; split <;> simp
@[simp] theorem zeroPage_pending (e : Pte) (frames : Nat) (s : State) : (zeroPage e frames s).pending = s.pending := by unfold zeroPage; split <;> simp
@[simp] theorem unmapPage_pending (key : Nat) (s : State) : (unmapPage key s).pending = s.pending := by simp [unmapPage]

/-! ## Machine/Link.lean -/

@[simp] theorem freeBuffer_pending (port pool : Nat) (s : State) : (freeBuffer port pool s).pending = s.pending := by simp [freeBuffer]
@[simp] theorem transmit_pending (port : Nat) (t : TxFrame) (s : State) : (transmit port t s).pending = s.pending := by unfold transmit; split <;> simp
@[simp] theorem drainPortGo_pending (port n : Nat) (s : State) : (drainPortGo port n s).pending = s.pending := by
  induction n generalizing s with
  | zero => rfl
  | succ n ih =>
    unfold drainPortGo
    (repeat' split) <;> simp [ih]
@[simp] theorem drainPort_pending (port : Nat) (s : State) : (drainPort port s).pending = s.pending := by simp [drainPort]
@[simp] theorem sendFrame_pending (port : Nat) (h : Hdr) (payload : Bytes) (holds : Option (Nat × Nat)) (s : State) : (sendFrame port h payload holds s).pending = s.pending := by
  simp [sendFrame]
@[simp] theorem sendControl_pending (port typ : Nat) (payload : Bytes) (s : State) : (sendControl port typ payload s).pending = s.pending := by simp [sendControl]
@[simp] theorem sendTo_pending (dev : Nat) (h : Hdr) (payload : Bytes) (s : State) : (sendTo dev h payload s).pending = s.pending := by unfold sendTo; split <;> simp
@[simp] theorem sendE2eAck_pending (dev flow cls seq epoch status : Nat) (s : State) : (sendE2eAck dev flow cls seq epoch status s).pending = s.pending := by
  simp [sendE2eAck]
@[simp] theorem State.updSrc_pending (s : State) (key : Nat) (f : FlowSrc → FlowSrc) : (State.updSrc s key f).pending = s.pending := by simp [State.updSrc]
@[simp] theorem countTags_pending (port : Nat) (s : State) : (countTags port s).pending = s.pending := by simp [countTags]
@[simp] theorem releaseRates_pending (inst : Nat) (s : State) : (releaseRates inst s).pending = s.pending := by simp [releaseRates]
@[simp] theorem drainFlowGo_pending (key n : Nat) (s : State) : (drainFlowGo key n s).pending = s.pending := by
  induction n generalizing s with
  | zero => rfl
  | succ n ih =>
    unfold drainFlowGo
    dsimp only; (repeat' split) <;> simp [ih]
@[simp] theorem drainFlow_pending (key : Nat) (s : State) : (drainFlow key s).pending = s.pending := by simp [drainFlow]
@[simp] theorem pushFlow_pending (key : Nat) (frames : List (Hdr × Bytes)) (s : State) : (pushFlow key frames s).pending = s.pending := by simp [pushFlow]
@[simp] theorem resendAll_pending (key : Nat) (s : State) : (resendAll key s).pending = s.pending := by simp [resendAll]
@[simp] theorem reroute_pending (key : Nat) (s : State) : (reroute key s).pending = s.pending := by unfold reroute; dsimp only; (repeat' split) <;> simp
@[simp] theorem rerouteWhere_pending (test : FlowSrc → Bool) (s : State) : (rerouteWhere test s).pending = s.pending := by simp [rerouteWhere]
@[simp] theorem topoChanged_pending (dev : Nat) (s : State) : (topoChanged dev s).pending = s.pending := by simp [topoChanged]
@[simp] theorem floodTopo_pending (s : State) : (floodTopo s).pending = s.pending := by simp [floodTopo]
@[simp] theorem ownTopoChange_pending (s : State) : (ownTopoChange s).pending = s.pending := by simp [ownTopoChange]
@[simp] theorem sendPathDown_pending (h : Hdr) (s : State) : (sendPathDown h s).pending = s.pending := by simp [sendPathDown]
@[simp] theorem portDown_pending (port reason : Nat) (s : State) : (portDown port reason s).pending = s.pending := by
  unfold portDown; dsimp only; split
  · refine forEach_queue (fun t s => ?_) (by simp)
    split <;> split <;> simp
  · simp
@[simp] theorem sendHail_pending (port state : Nat) (s : State) : (sendHail port state s).pending = s.pending := by simp [sendHail]
@[simp] theorem hailStopping_pending (ports : Nat → Bool) (s : State) : (hailStopping ports s).pending = s.pending := by simp [hailStopping]

end Sys2Proof.Machine
end

section
/-! O2: operations, verdicts, steps, residency and tasks: each keeps the queue. -/

namespace Sys2Proof.Machine

/-! ## Machine/Ops.lean -/

@[simp] theorem sramWrite_pending (core a : Nat) (bs : Bytes) (s : State) : (sramWrite core a bs s).pending = s.pending := by simp [sramWrite]
@[simp] theorem writeFor_pending (bubble : Bool) (core a : Nat) (bs : Bytes) (poisoned : Bool) (s : State) : (writeFor bubble core a bs poisoned s).pending = s.pending := by
  simp [writeFor]
@[simp] theorem State.updStep_pending (s : State) (fn tag : Nat) (f : Step → Step) : (State.updStep s fn tag f).pending = s.pending := by simp [State.updStep]
@[simp] theorem updTaskStep_pending (core : Nat) (f : Step → Step) (s : State) : (updTaskStep core f s).pending = s.pending := by unfold updTaskStep; split <;> simp
@[simp] theorem markNonfinite_pending (core : Nat) (on : Bool) (s : State) : (markNonfinite core on s).pending = s.pending := by simp [markNonfinite]
@[simp] theorem markLedger_pending (core : Nat) (on : Bool) (s : State) : (markLedger core on s).pending = s.pending := by simp [markLedger]
@[simp] theorem markArrival_pending (inst : Nat) (bubble on : Bool) (s : State) : (markArrival inst bubble on s).pending = s.pending := by simp [markArrival]
@[simp] theorem ledgerInto_pending (inst : Nat) (bubble : Bool) (core a : Nat) (bs : Bytes) (flags : Bool) (s : State) : (ledgerInto inst bubble core a bs flags s).pending = s.pending := by
  simp [ledgerInto]
@[simp] theorem updRun_pending (inst coll : Nat) (f : CollRun → CollRun) (s : State) : (updRun inst coll f s).pending = s.pending := by simp [updRun]
@[simp] theorem ensureColl_pending (inst : Nat) (c : Coll) (s : State) : (ensureColl inst c s).pending = s.pending := by unfold ensureColl; split <;> simp
@[simp] theorem collPut_pending (inst : Nat) (c : Coll) (member off : Nat) (bs : Bytes) (flags : Bool) (s : State) : (collPut inst c member off bs flags s).pending = s.pending := by
  simp [collPut]
@[simp] theorem sendParts_pending (inst : Nat) (c : Coll) (src : Bytes) (l : List (Nat × Nat × Nat)) (j : Nat) (s : State) : (sendParts inst c src l j s).pending = s.pending := by
  induction l generalizing j s with
  | nil => rfl
  | cons x xs ih =>
    unfold sendParts
    (repeat' split) <;> simp [ih]
@[simp] theorem startColl.go_pending (inst : Nat) (c : Coll) (s : State) : (startColl.go inst c s).pending = s.pending := by simp [startColl.go]
@[simp] theorem startColl_pending (inst : Nat) (c : Coll) (s : State) : (startColl inst c s).pending = s.pending := by unfold startColl; split <;> simp
@[simp] theorem declareMoves_pending (inst : Nat) (r : Region) (s : State) : (declareMoves inst r s).pending = s.pending := by simp [declareMoves]
@[simp] theorem releaseRegion_pending (inst : Nat) (r : Region) (s : State) : (releaseRegion inst r s).pending = s.pending := by simp [releaseRegion]
@[simp] theorem afterAdd_pending (inst obj : Nat) (s : State) : (afterAdd inst obj s).pending = s.pending := by unfold afterAdd; split <;> simp
@[simp] theorem addObj_pending (inst obj n : Nat) (s : State) : (addObj inst obj n s).1.pending = s.pending := by simp [addObj]
@[simp] theorem signalKind_pending (inst obj kind n : Nat) (s : State) : (signalKind inst obj kind n s).1.pending = s.pending := by unfold signalKind; split <;> simp
@[simp] theorem carried_pending (inst obj : Nat) (s : State) : (carried inst obj s).1.pending = s.pending := by unfold carried; split <;> simp
@[simp] theorem pace_pending (obj : Nat) (s : State) : (pace obj s).pending = s.pending := by simp [pace]
@[simp] theorem renewRealTime_pending (inst : Nat) (s : State) : (renewRealTime inst s).pending = s.pending := by unfold renewRealTime; split <;> simp
@[simp] theorem renewAll_pending (inst : Nat) (s : State) : (renewAll inst s).pending = s.pending := by unfold renewAll; split <;> simp

/-! ## Machine/Verdict.lean -/

@[simp] theorem State.updJob_pending (s : State) (inst id : Nat) (f : Job → Job) : (State.updJob s inst id f).pending = s.pending := by simp [State.updJob]
@[simp] theorem stateWrite_pending (inst la : Nat) (bs : Bytes) (s : State) : (stateWrite inst la bs s).pending = s.pending := by simp [stateWrite]
@[simp] theorem sendVerdict_pending (inst dev : Nat) (payload : Bytes) (s : State) : (sendVerdict inst dev payload s).pending = s.pending := by
  unfold sendVerdict; split <;> simp
@[simp] theorem endStep_pending (inst tag status : Nat) (result : Nat) (s : State) : (endStep inst tag status result s).pending = s.pending := by
  unfold endStep; split <;> simp
@[simp] theorem resend_pending (r : Rdma) (s : State) : (resend r s).pending = s.pending := by simp [resend]
@[simp] theorem sendRdma_pending (id : Nat) (s : State) : (sendRdma id s).pending = s.pending := by unfold sendRdma; split <;> simp
@[simp] theorem pumpRdma_pending (port : Nat) (s : State) : (pumpRdma port s).pending = s.pending := by simp [pumpRdma]
@[simp] theorem rdmaIssue_pending (inst : Nat) (h : Bytes) (write : Bool) (use : RdmaFor) (off : Nat) (data : Bytes) (want : Nat) (s : State) : (rdmaIssue inst h write use off data want s).pending = s.pending := by
  simp [rdmaIssue]
@[simp] theorem refetch_pending (r : Rdma) (s : State) : (refetch r s).pending = s.pending := by simp [refetch]
@[simp] theorem sealBytes_pending (key : BitVec 256) (kind object version : Nat) (bs : Bytes) (s : State) : (sealBytes key kind object version bs s).2.pending = s.pending := by
  simp [sealBytes]
@[simp] theorem exportPump_pending (inst job : Nat) (s : State) : (exportPump inst job s).pending = s.pending := by
  unfold exportPump; dsimp only; (repeat' split) <;> simp
@[simp] theorem commitTensor_pending (inst : Nat) (efmt : Fmt) (t : Tensor) (r : SweepRes) (s : State) : (commitTensor inst efmt t r s).pending = s.pending := by
  simp [commitTensor]
@[simp] theorem State.updAdapter_pending (s : State) (inst id : Nat) (f : Adapter → Adapter) : (State.updAdapter s inst id f).pending = s.pending := by
  simp [State.updAdapter]
@[simp] theorem convertTensor_pending (inst : Nat) (a : Adapter) (ts : List Tensor) (bank : Nat) (b : Nat) (t : Tensor) (s : State) : (convertTensor inst a ts bank b t s).2.pending = s.pending := by
  simp [convertTensor]
@[simp] theorem convertWorking_pending (inst job : Nat) (s : State) : (convertWorking inst job s).pending = s.pending := by
  unfold convertWorking; split
  · rfl
  · refine forEach_queue (fun _ _ => rfl) ((State.updJob_pending ..).trans (forEach_queue (fun i s => ?_) (by simp)))
    dsimp only; (repeat' split) <;> simp
@[simp] theorem seedHistories_pending (inst : Nat) (p : Step) (s : State) : (seedHistories inst p s).pending = s.pending := by simp [seedHistories]
@[simp] theorem commitJob_pending (inst job : Nat) (s : State) : (commitJob inst job s).pending = s.pending := by unfold commitJob; split <;> simp
@[simp] theorem clearVotes_pending (inst job : Nat) (s : State) : (clearVotes inst job s).pending = s.pending := by simp [clearVotes]
@[simp] theorem skipJob_pending (inst job : Nat) (byte : BitVec 8) (s : State) : (skipJob inst job byte s).pending = s.pending := by unfold skipJob; split <;> simp
@[simp] theorem replaceExport_pending (inst job : Nat) (s : State) : (replaceExport inst job s).pending = s.pending := by
  unfold replaceExport; (repeat' split) <;> simp
@[simp] theorem failExport_pending (inst job status : Nat) (s : State) : (failExport inst job status s).pending = s.pending := by unfold failExport; split <;> simp
@[simp] theorem completeCommit_pending (inst job : Nat) (s : State) : (completeCommit inst job s).pending = s.pending := by
  unfold completeCommit; (repeat' split) <;> simp
@[simp] theorem stepVerdict_pending (inst job : Nat) (byte : BitVec 8) (s : State) : (stepVerdict inst job byte s).pending = s.pending := by
  unfold stepVerdict; split <;> simp
@[simp] theorem putState_pending (inst : Nat) (t : Tensor) (b : Nat) (bs : Bytes) (s : State) : (putState inst t b bs s).pending = s.pending := by simp [putState]
@[simp] theorem freeStatePage_pending (inst job : Nat) (t : Tensor) (la : Nat) (s : State) : (freeStatePage inst job t la s).pending = s.pending := by
  simp [freeStatePage]
@[simp] theorem freeStates_pending (inst job : Nat) (ts : List Tensor) (s : State) : (freeStates inst job ts s).pending = s.pending := by simp [freeStates]
@[simp] theorem endExport_pending (inst : Nat) (j : Job) (s : State) : (endExport inst j s).pending = s.pending := by unfold endExport; (repeat' split) <;> simp
@[simp] theorem keepReshard_pending (inst job : Nat) (r : Reshard) (s : State) : (keepReshard inst job r s).pending = s.pending := by
  unfold keepReshard; split
  · rfl
  · split
    · simp
    · extract_lets s1 s2
      have h : s2.pending = s.pending := by
        refine (State.updJob_pending ..).trans (forEach_queue (fun i s => ?_) rfl)
        (repeat' split) <;> simp
      split <;> simp [h]
@[simp] theorem applyVerdict_pending (inst job : Nat) (byte : BitVec 8) (s : State) : (applyVerdict inst job byte s).pending = s.pending := by
  unfold applyVerdict; (repeat' split) <;> simp
@[simp] theorem returnDown_pending (inst : Nat) (j : Job) (byte : BitVec 8) (s : State) : (returnDown inst j byte s).pending = s.pending := by simp [returnDown]
@[simp] theorem tryVerdict_pending (inst job : Nat) (s : State) : (tryVerdict inst job s).pending = s.pending := by unfold tryVerdict; split <;> simp
@[simp] theorem contribute_pending (inst job : Nat) (byte : BitVec 8) (digest : BitVec 64) (s : State) : (contribute inst job byte digest s).pending = s.pending := by
  unfold contribute; split <;> simp
@[simp] theorem updReshard_pending (inst job : Nat) (f : Reshard → Reshard) (s : State) : (updReshard inst job f s).pending = s.pending := by simp [updReshard]
@[simp] theorem contributeReshard_pending (inst job : Nat) (failed : Bool) (s : State) : (contributeReshard inst job failed s).pending = s.pending := by
  unfold contributeReshard; (repeat' split) <;> simp
@[simp] theorem settleReshard_pending (inst job : Nat) (s : State) : (settleReshard inst job s).pending = s.pending := by
  unfold settleReshard; dsimp only; (repeat' split) <;> simp
@[simp] theorem reshardData_pending (inst job dev : Nat) (bs : Bytes) (s : State) : (reshardData inst job dev bs s).pending = s.pending := by simp [reshardData]
@[simp] theorem sendStates_pending (inst : Nat) (j : Job) (r : Reshard) (s : State) : (sendStates inst j r s).pending = s.pending := by
  unfold sendStates; dsimp only; split
  · rfl
  · refine forEach_queue (fun dev s => ?_) rfl
    split <;> simp
@[simp] theorem takeSet_pending (inst job : Nat) (bs : Bytes) (s : State) : (takeSet inst job bs s).pending = s.pending := by
  unfold takeSet; (repeat' split) <;> simp
@[simp] theorem startReshard_pending (inst job : Nat) (s : State) : (startReshard inst job s).pending = s.pending := by unfold startReshard; (repeat' split) <;> simp
@[simp] theorem startReshards_pending (inst : Nat) (s : State) : (startReshards inst s).pending = s.pending := by simp [startReshards]

/-! ## Machine/Steps.lean -/

@[simp] theorem stopCore_pending (core : Nat) (why : StopWhy) (seq : Nat) (s : State) : (stopCore core why seq s).pending = s.pending := by simp [stopCore]
@[simp] theorem stopCores_pending (cores : List Nat) (why : StopWhy) (s : State) : (stopCores cores why s).pending = s.pending := by
  unfold stopCores; dsimp only
  refine forEach_queue (fun _ s => ?_) (by simp)
  (repeat' split) <;> simp
@[simp] theorem setGap_pending (inst : Nat) (s : State) : (setGap inst s).pending = s.pending := by simp [setGap]
@[simp] theorem failStep.tryFail_pending (inst : Nat) (tag : Nat) (why : StopWhy) (p : Step) (s : State) : (failStep.tryFail inst tag why p s).pending = s.pending := by
  unfold failStep.tryFail; split <;> simp
@[simp] theorem failStep_pending (inst tag : Nat) (why : StopWhy) (s : State) : (failStep inst tag why s).pending = s.pending := by
  unfold failStep; (repeat' split) <;> simp
@[simp] theorem coreException_pending (core : Nat) (g b detail : Nat) (why : StopWhy) (seq : Nat) (s : State) : (coreException core g b detail why seq s).pending = s.pending := by
  unfold coreException; split <;> simp
@[simp] theorem descFault_pending (core : Nat) (s : State) : (descFault core s).pending = s.pending := by simp [descFault]
@[simp] theorem ticketFault_pending (core ticket seq : Nat) (s : State) : (ticketFault core ticket seq s).pending = s.pending := by simp [ticketFault]
@[simp] theorem sramFound_pending (core : Nat) (ws : List SramFind) (s : State) : (sramFound core ws s).pending = s.pending := by simp [sramFound]
@[simp] theorem sramFault_pending (core addr seq : Nat) (s : State) : (sramFault core addr seq s).pending = s.pending := by simp [sramFault]
@[simp] theorem translationFault_pending (core page seq : Nat) (s : State) : (translationFault core page seq s).pending = s.pending := by simp [translationFault]
@[simp] theorem clearCore_pending (core : Nat) (s : State) : (clearCore core s).pending = s.pending := by simp [clearCore]
@[simp] theorem clearCores_pending (cores : List Nat) (s : State) : (clearCores cores s).pending = s.pending := by simp [clearCores]
@[simp] theorem endAllSteps_pending (inst : Nat) (status : Option Nat) (s : State) : (endAllSteps inst status s).pending = s.pending := by
  unfold endAllSteps; split <;> simp
@[simp] theorem settleJobs_pending (inst : Nat) (s : State) : (settleJobs inst s).pending = s.pending := by
  unfold settleJobs
  refine forEach_queue (fun _ s => ?_) (by simp)
  (repeat' split) <;> simp
@[simp] theorem wipeStall_pending (inst : Nat) (s : State) : (wipeStall inst s).pending = s.pending := by unfold wipeStall; split <;> simp
@[simp] theorem resetStall_pending (inst : Nat) (status : Option Nat) (s : State) : (resetStall inst status s).pending = s.pending := by
  unfold resetStall; (repeat' split) <;> simp
@[simp] theorem recoverStep_pending (inst : Nat) (p : Step) (s : State) : (recoverStep inst p s).pending = s.pending := by unfold recoverStep; split <;> simp
@[simp] theorem recoverStall_pending (inst why : Nat) (s : State) : (recoverStall inst why s).pending = s.pending := by simp [recoverStall]
@[simp] theorem queueScrub_pending (inst : Nat) (s : State) : (queueScrub inst s).pending = s.pending := by simp [queueScrub]
@[simp] theorem lateDiscard_pending (inst kind : Nat) (s : State) : (lateDiscard inst kind s).pending = s.pending := by simp [lateDiscard]
@[simp] theorem dropQueued_pending (inst : Nat) (s : State) : (dropQueued inst s).pending = s.pending := by simp [dropQueued]
@[simp] theorem dropObjects_pending (st : Stall) (s : State) : (dropObjects st s).pending = s.pending := by simp [dropObjects]
@[simp] theorem dropKeyed_pending (inst : Nat) (s0 : State) : (dropKeyed inst s0).pending = s0.pending := by unfold dropKeyed; dsimp only; split <;> simp
@[simp] theorem raiseGen_pending (inst : Nat) (keepSecrets : Bool) (s : State) : (raiseGen inst keepSecrets s).pending = s.pending := by simp [raiseGen]
@[simp] theorem raiseOrWait_pending (inst : Nat) (s : State) : (raiseOrWait inst s).pending = s.pending := by simp [raiseOrWait]
@[simp] theorem sendLoss_pending (j : Job) (lost : Nat) (s : State) : (sendLoss j lost s).pending = s.pending := by simp [sendLoss]
@[simp] theorem sendAllLoss_pending (inst : Nat) (s : State) : (sendAllLoss inst s).pending = s.pending := by simp [sendAllLoss]
@[simp] theorem resetFn_pending (fn : Nat) (s : State) : (resetFn fn s).pending = s.pending := by simp [resetFn]
@[simp] theorem writePreload_pending (st : Stall) (im : Image) (bubble : Bool) (r : Preload) (s : State) : (writePreload st im bubble r s).pending = s.pending := by
  unfold writePreload
  refine forEach_queue (fun _ s => ?_) (by simp)
  (repeat' split) <;> simp
@[simp] theorem writeArea_pending (inst : Nat) (s : State) : (writeArea inst s).pending = s.pending := by unfold writeArea; split <;> simp
@[simp] theorem groupOut_pending (g why : Nat) (s : State) : (groupOut g why s).pending = s.pending := by unfold groupOut; dsimp only; split <;> simp
@[simp] theorem followHeat_pending (inst : Nat) (s : State) : (followHeat inst s).pending = s.pending := by unfold followHeat; split <;> simp
@[simp] theorem followAllHeat_pending (s : State) : (followAllHeat s).pending = s.pending := by simp [followAllHeat]
@[simp] theorem followLevels_pending (s : State) : (followLevels s).pending = s.pending := by simp [followLevels]

/-! ## Machine/Operands.lean -/

@[simp] theorem issued_pending (core : Nat) (s : State) : (issued core s).pending = s.pending := by simp [issued]
@[simp] theorem issue_pending (core : Nat) (ok : Bool) (effect : State → State) (s : State) (heffect : ∀ s, (effect s).pending = s.pending) : (issue core ok effect s).pending = s.pending := by
  unfold issue; (repeat' split) <;> simp_all

/-! ## Machine/Engine.lean -/

@[simp] theorem descFaultAt_pending (core seq : Nat) (s : State) : (descFaultAt core seq s).pending = s.pending := by simp [descFaultAt]
@[simp] theorem coreAdd_pending (core obj n : Nat) (s : State) : (coreAdd core obj n s).pending = s.pending := by unfold coreAdd; dsimp only; split <;> simp
theorem accessFault_pending (core seq : Nat) (reads writes : List (Nat × Nat)) (s : State) (t : State) (ht : accessFault core seq reads writes s = some t) : t.pending = s.pending := by
  unfold accessFault at ht; (repeat' split at ht) <;> cases ht <;> simp
@[simp] theorem putReg_pending (core d : Nat) (v : Lanes) (s : State) : (putReg core d v s).pending = s.pending := by simp [putReg]
@[simp] theorem countClips_pending (core pair n clipped : Nat) (s : State) : (countClips core pair n clipped s).pending = s.pending := by simp [countClips]
@[simp] theorem countConvs_pending (core pair : Nat) (fmt : Nat) (cs : List Conv) (s : State) : (countConvs core pair fmt cs s).pending = s.pending := by
  simp [countConvs]
@[simp] theorem runCvt_pending (core : Nat) (e : Engine) (i : TIns) (s : State) : (runCvt core e i s).pending = s.pending := by simp [runCvt]
@[simp] theorem runRscale_pending (core : Nat) (e : Engine) (i : TIns) (s : State) : (runRscale core e i s).pending = s.pending := by simp [runRscale]
@[simp] theorem runBscale_pending (core : Nat) (e : Engine) (i : TIns) (s : State) : (runBscale core e i s).pending = s.pending := by simp [runBscale]
@[simp] theorem runColumn_pending (core : Nat) (e : Engine) (i : TIns) (s : State) : (runColumn core e i s).pending = s.pending := by simp [runColumn]
@[simp] theorem runSts_pending (core : Nat) (e : Engine) (i : TIns) (s : State) : (runSts core e i s).pending = s.pending := by simp [runSts]
@[simp] theorem runSend_pending (core seq : Nat) (e : Engine) (i : TIns) (s : State) : (runSend core seq e i s).pending = s.pending := by simp [runSend]
@[simp] theorem runIns_pending (core seq : Nat) (i : TIns) (s : State) : (runIns core seq i s).pending = s.pending := by
  unfold runIns; split
  · rfl
  · dsimp only; split
    · next h => exact accessFault_pending _ _ _ _ _ _ h
    · split <;> simp
@[simp] theorem runRow_pending (core : Nat) (a : Att) (accs : List Nat) (r : Nat) (s : State) : (runRow core a accs r s).pending = s.pending := by
  unfold runRow; split
  · rfl
  · dsimp only; split
    · next h => exact (accessFault_pending _ _ _ _ _ _ h).trans (by simp)
    · refine forEach_queue (by simp) ?_
      (repeat' split) <;> simp
@[simp] theorem runTail_pending (core : Nat) (a : Att) (s : State) : (runTail core a s).pending = s.pending := by simp [runTail]
@[simp] theorem updAtt_pending (core id : Nat) (f : Att → Att) (s : State) : (updAtt core id f s).pending = s.pending := by simp [updAtt]
@[simp] theorem runTile_pending (core : Nat) (a : Att) (accs : List Nat) (rows : Nat) (s : State) : (runTile core a accs rows s).pending = s.pending := by
  simp [runTile]
@[simp] theorem takeEffect_pending (core id : Nat) (s : State) : (takeEffect core id s).pending = s.pending := by unfold takeEffect; (repeat' split) <;> simp
@[simp] theorem nextTile.afterEpilogue_pending (core : Nat) (s : State) : (nextTile.afterEpilogue core s).pending = s.pending := by
  unfold nextTile.afterEpilogue; dsimp only; (repeat' split) <;> simp
@[simp] theorem nextTile_pending (core : Nat) (s : State) : (nextTile core s).pending = s.pending := by unfold nextTile; (repeat' split) <;> simp
@[simp] theorem tileStep_pending (core : Nat) (i : TIns) (s : State) : (tileStep core i s).pending = s.pending := by simp [tileStep]

/-! ## Machine/Residency.lean -/

theorem mapPage_pending (inst la set : Nat) (e0 : Pte) (s : State) (t : State) (ht : mapPage inst la set e0 s = some t) : t.pending = s.pending := by
  unfold mapPage at ht; split at ht
  · cases ht
  · split at ht
    · cases ht
    · split at ht
      next h =>
      have hs := takeMap_pending inst s
      rw [h] at hs; cases ht; simpa using hs
theorem mapPages_pending (inst set : Nat) (e0 : Pte) (n la : Nat) (s : State) (t : State) (ht : mapPages inst set e0 n la s = some t) : t.pending = s.pending := by
  induction n generalizing la s with
  | zero => cases ht; rfl
  | succ n ih =>
    unfold mapPages at ht; split at ht
    · cases ht
    · next h => exact (ih _ _ ht).trans (mapPage_pending _ _ _ _ _ _ h)
@[simp] theorem unmapPages_pending (inst n la : Nat) (s : State) : (unmapPages inst n la s).pending = s.pending := by simp [unmapPages]
@[simp] theorem writeBack_pending (inst id : Nat) (s : State) : (writeBack inst id s).pending = s.pending := by unfold writeBack; split <;> simp
@[simp] theorem dropCopy_pending (inst id : Nat) (s : State) : (dropCopy inst id s).pending = s.pending := by simp [dropCopy]
@[simp] theorem evict_pending (inst id : Nat) (s : State) : (evict inst id s).pending = s.pending := by unfold evict; split <;> simp
@[simp] theorem placeFetch_pending (inst : Nat) (st : Stall) (a : Adapter) (slot : Nat) (early : Bool) (s : State) : (placeFetch inst st a slot early s).pending = s.pending := by
  unfold placeFetch; dsimp only; split
  · rfl
  · next h => split <;> simp [mapPages_pending _ _ _ _ _ _ _ h]
@[simp] theorem fetchOne_pending (inst : Nat) (st : Stall) (earlier : List (List Nat)) (id n : Nat) (s : State) : (fetchOne inst st earlier id n s).pending = s.pending := by
  induction n generalizing s with
  | zero => rfl
  | succ n ih =>
    unfold fetchOne
    (repeat' split) <;> simp [ih]
@[simp] theorem startFetches.go_pending (inst : Nat) (st : Stall) (earlier : List (List Nat)) (cls : List (Bool × List Nat)) (s : State) : (startFetches.go inst st earlier cls s).pending = s.pending := by
  induction cls generalizing earlier s with
  | nil => rfl
  | cons c cs ih =>
    unfold startFetches.go
    simp [ih]
@[simp] theorem startFetches_pending (inst : Nat) (s : State) : (startFetches inst s).pending = s.pending := by unfold startFetches; split <;> simp
@[simp] theorem park_pending (inst tag : Nat) (s : State) : (park inst tag s).pending = s.pending := by simp [park]
@[simp] theorem unpark_pending (inst : Nat) (s : State) : (unpark inst s).pending = s.pending := by simp [unpark]
@[simp] theorem applyWrite_pending (inst id : Nat) (s : State) : (applyWrite inst id s).pending = s.pending := by unfold applyWrite; (repeat' split) <;> simp
@[simp] theorem applyUnregister_pending (inst id : Nat) (s : State) : (applyUnregister inst id s).pending = s.pending := by
  unfold applyUnregister; (repeat' split) <;> simp
@[simp] theorem stepBoundary_pending (inst : Nat) (s : State) : (stepBoundary inst s).pending = s.pending := by simp [stepBoundary]
@[simp] theorem fetchArrives_pending (inst id : Nat) (s : State) : (fetchArrives inst id s).pending = s.pending := by unfold fetchArrives; (repeat' split) <;> simp
@[simp] theorem fetchFails_pending (inst id status : Nat) (s : State) : (fetchFails inst id status s).pending = s.pending := by
  unfold fetchFails; (repeat' split) <;> simp

/-! ## Machine/Tasks.lean -/

@[simp] theorem giveTask_pending (fn tag : Nat) (bubble : Bool) (core : Nat) (s : State) : (giveTask fn tag bubble core s).pending = s.pending := by simp [giveTask]
@[simp] theorem startTasks_pending (inst tag : Nat) (bubble : Bool) (ts : List TaskEnt) (s : State) : (startTasks inst tag bubble ts s).pending = s.pending := by
  unfold startTasks; split <;> simp
@[simp] theorem decideLayers_pending (inst tag : Nat) (bubble : Bool) (s : State) : (decideLayers inst tag bubble s).pending = s.pending := by
  unfold decideLayers; (repeat' split) <;> simp
@[simp] theorem settleClips_pending (inst : Nat) (bubble keep : Bool) (s : State) : (settleClips inst bubble keep s).pending = s.pending := by simp [settleClips]
@[simp] theorem writeRows_pending (inst addr width : Nat) (data : Bytes) (l : List Nat) (i : Nat) (s : State) : (writeRows inst addr width data l i s).pending = s.pending := by
  induction l generalizing i s with
  | nil => rfl
  | cons x xs ih =>
    unfold writeRows
    simp [ih]
@[simp] theorem deliver_pending (inst tag : Nat) (s : State) : (deliver inst tag s).pending = s.pending := by
  unfold deliver; split
  · rfl
  · split
    · simp
    · split
      · next h => simp [(pair_eq_iff.mp h).2]
      · next h => dsimp only; split <;> simp [(pair_eq_iff.mp h).2]
@[simp] theorem rollClips_pending (inst : Nat) (s : State) : (rollClips inst s).pending = s.pending := by simp [rollClips]
@[simp] theorem stepTasksEnd_pending (inst tag : Nat) (s : State) : (stepTasksEnd inst tag s).pending = s.pending := by unfold stepTasksEnd; (repeat' split) <;> simp
@[simp] theorem tasksMayEnd_pending (inst tag : Nat) (s : State) : (tasksMayEnd inst tag s).pending = s.pending := by unfold tasksMayEnd; split <;> simp
@[simp] theorem fenceEnds_pending (core : Nat) (s : State) : (fenceEnds core s).pending = s.pending := by simp [fenceEnds]
@[simp] theorem taskEnds_pending (core : Nat) (s : State) : (taskEnds core s).pending = s.pending := by unfold taskEnds; split <;> simp
@[simp] theorem heldSteps_pending (core : Nat) (s : State) : (heldSteps core s).pending = s.pending := by simp [heldSteps]
@[simp] theorem settle_pending (core : Nat) (s : State) : (settle core s).pending = s.pending := by unfold settle; split <;> simp

end Sys2Proof.Machine
end

section
/-! O2: the commands of the cores: each keeps the queue. -/

namespace Sys2Proof.Machine

/-! ## Machine/Array.lean -/

@[simp] theorem queuePass_pending (core : Nat) (d : Desc) (residues : List Residue) (s : State) : (queuePass core d residues s).pending = s.pending := by
  simp [queuePass]
@[simp] theorem enterRows_pending (core : Nat) (j : PassJob) (n : Nat) (s : State) : (enterRows core j n s).pending = s.pending := by simp [enterRows]
@[simp] theorem rowFault_pending (core seq : Nat) (e : RowErr) (s : State) : (rowFault core seq e s).pending = s.pending := by unfold rowFault; split <;> simp
@[simp] theorem pumpGo_pending (core n : Nat) (s : State) : (pumpGo core n s).pending = s.pending := by
  induction n generalizing s with
  | zero => rfl
  | succ n ih =>
    unfold pumpGo
    dsimp only; (repeat' split) <;> simp [ih]
@[simp] theorem pumpArray_pending (core : Nat) (s : State) : (pumpArray core s).pending = s.pending := by simp [pumpArray]
@[simp] theorem addGap_pending (core n : Nat) (s : State) : (addGap core n s).pending = s.pending := by simp [addGap]
@[simp] theorem rowsGo_pending (core : Nat) (j : PassJob) (l : List Nat) (t used : Nat) (s : State) : (rowsGo core j l t used s).pending = s.pending := by
  induction l generalizing t used s with
  | nil => rfl
  | cons i is ih =>
    unfold rowsGo
    dsimp only; (repeat' split) <;> simp [ih]
@[simp] theorem passResults_pending (core : Nat) (s : State) : (passResults core s).pending = s.pending := by unfold passResults; (repeat' split) <;> simp
@[simp] theorem ringSegment_pending (core waited : Nat) (s : State) : (ringSegment core waited s).pending = s.pending := by unfold ringSegment; split <;> simp
@[simp] theorem queueResume_pending (core waited : Nat) (s : State) : (queueResume core waited s).pending = s.pending := by unfold queueResume; split <;> simp
@[simp] theorem sideLoaded_pending (core waited : Nat) (s : State) : (sideLoaded core waited s).pending = s.pending := by simp [sideLoaded]
@[simp] theorem loadDone_pending (core waited : Nat) (s : State) : (loadDone core waited s).pending = s.pending := by
  unfold loadDone; dsimp only; (repeat' split) <;> simp

/-! ## Machine/Descriptors.lean -/

@[simp] theorem coreFail_pending (core : Nat) (why : StopWhy) (seq : Nat) (s : State) : (coreFail core why seq s).pending = s.pending := by
  unfold coreFail; split <;> simp
theorem execLoadBlock_keepsQueue (core : CoreId) (d : Desc) (s : State) : KeepsQueue s (execLoadBlock core d s) := by simp [execLoadBlock]
theorem execLoadBlockComplete_keepsQueue (core : CoreId) (waited : Nat) (s : State) : KeepsQueue s (execLoadBlockComplete core waited s) := by
  simp [execLoadBlockComplete]
theorem execPass_keepsQueue (core : CoreId) (d : Desc) (residues : List Residue) (words : List SramFind) (s : State) : KeepsQueue s (execPass core d residues words s) := by
  simp [execPass]
theorem execRingSegmentEntry_keepsQueue (core : CoreId) (waited : Nat) (s : State) : KeepsQueue s (execRingSegmentEntry core waited s) := by
  simp [execRingSegmentEntry]
theorem execSide_keepsQueue (core : CoreId) (d : Desc) (s : State) : KeepsQueue s (execSide core d s) := by simp [execSide]
theorem execEpilogueQueueResume_keepsQueue (core : CoreId) (waited : Nat) (s : State) : KeepsQueue s (execEpilogueQueueResume core waited s) := by
  simp [execEpilogueQueueResume]
theorem execPassResultsWritten_keepsQueue (core : CoreId) (s : State) : KeepsQueue s (execPassResultsWritten core s) := by simp [execPassResultsWritten]
theorem execSideArrayLoadComplete_keepsQueue (core : CoreId) (waited : Nat) (s : State) : KeepsQueue s (execSideArrayLoadComplete core waited s) := by
  simp [execSideArrayLoadComplete]
theorem execTileprogPrologue_keepsQueue (core : CoreId) (d : Desc) (s : State) : KeepsQueue s (execTileprogPrologue core d s) := by simp [execTileprogPrologue]
theorem execTileprogEpilogue_keepsQueue (core : CoreId) (d : Desc) (s : State) : KeepsQueue s (execTileprogEpilogue core d s) := by simp [execTileprogEpilogue]
theorem execTileprogRun_keepsQueue (core : CoreId) (d : Desc) (s : State) : KeepsQueue s (execTileprogRun core d s) := by simp [execTileprogRun]
theorem execTileprogDetach_keepsQueue (core : CoreId) (d : Desc) (s : State) : KeepsQueue s (execTileprogDetach core d s) := by simp [execTileprogDetach]
@[simp] theorem queueMove_pending (d : Desc) (predicted : Bool) (core : Nat) (s : State) : (queueMove d predicted core s).pending = s.pending := by simp [queueMove]
theorem execMove_keepsQueue (core : CoreId) (d : Desc) (words : List SramFind) (s : State) : KeepsQueue s (execMove core d words s) := by
  simp only [execMove, keepsQueue_next]
  refine issue_pending _ _ _ _ fun s => ?_
  split
  · simp
  · split <;> simp
@[simp] theorem bringIn_pending (core inst la sram len seq : Nat) (finds : List LineFind) (s : State) : (bringIn core inst la sram len seq finds s).state.pending = s.pending := by
  unfold bringIn; split
  · rfl
  · dsimp only; (repeat' split) <;> simp [MoverEnd.state]
@[simp] theorem takeOut_pending (core inst la sram len seq : Nat) (finds : List LineFind) (s : State) : (takeOut core inst la sram len seq finds s).state.pending = s.pending := by
  unfold takeOut; split
  · simp [MoverEnd.state]
  · dsimp only; (repeat' split) <;> simp [MoverEnd.state]
@[simp] theorem dropMove_pending (core seq : Nat) (region : Option (Nat × Nat)) (s : State) : (dropMove core seq region s).pending = s.pending := by simp [dropMove]
@[simp] theorem moveRun_pending (core : Nat) (j : UnitJob) (finds : List LineFind) (s : State) : (moveRun core j finds s).state.pending = s.pending := by
  unfold moveRun; dsimp only; split
  · split <;> simp [MoverEnd.state]
  · split
    · simp
    · split
      · simp [MoverEnd.state]
      · simp
@[simp] theorem predictedRun_pending (core : Nat) (j : UnitJob) (finds : List LineFind) (s : State) : (predictedRun core j finds s).pending = s.pending := by
  simp [predictedRun]
@[simp] theorem moverSettle_pending (core : Nat) (j : UnitJob) (region : Option (Nat × Nat)) (sig : Bool) (obj : Nat) (e : MoverEnd) : (moverSettle core j region sig obj e).pending = e.state.pending := by
  cases e with
  | done s => simp only [moverSettle, MoverEnd.state]; split <;> simp
  | waits s => rfl
  | failed s => rfl
theorem execMoveComplete_keepsQueue (core : CoreId) (finds : List LineFind) (s : State) : KeepsQueue s (execMoveComplete core finds s) := by
  unfold execMoveComplete; dsimp only; split <;> simp
@[simp] theorem issueSpill_pending (core : Nat) (d : Desc) (restore : Bool) (s : State) : (issueSpill core d restore s).pending = s.pending := by
  refine issue_pending _ _ _ _ fun s => ?_
  dsimp only; split <;> simp
theorem execSpill_keepsQueue (core : CoreId) (d : Desc) (s : State) : KeepsQueue s (execSpill core d s) := by simp [execSpill]
theorem execSpillRestore_keepsQueue (core : CoreId) (d : Desc) (s : State) : KeepsQueue s (execSpillRestore core d s) := by simp [execSpillRestore]
theorem execSpillComplete_keepsQueue (core : CoreId) (finds : List LineFind) (s : State) : KeepsQueue s (execSpillComplete core finds s) := by
  unfold execSpillComplete; dsimp only; split <;> simp
@[simp] theorem pumpSends_pending (core n : Nat) (s : State) : (pumpSends core n s).pending = s.pending := by
  induction n generalizing s with
  | zero => rfl
  | succ n ih =>
    unfold pumpSends
    split
    · split
      · rfl
      · dsimp only; split
        · simp
        · split <;> simp [ih]
    · rfl
@[simp] theorem drainSends_pending (core : Nat) (s : State) : (drainSends core s).pending = s.pending := by simp [drainSends]
theorem execSend_keepsQueue (core : CoreId) (d : Desc) (s : State) : KeepsQueue s (execSend core d s) := by simp [execSend]
@[simp] theorem sendArrives_pending (core : Nat) (s : State) : (sendArrives core s).pending = s.pending := by unfold sendArrives; split <;> simp
theorem execSendArrival_keepsQueue (core : CoreId) (s : State) : KeepsQueue s (execSendArrival core s) := by simp [execSendArrival]
theorem execWait_keepsQueue (core : CoreId) (d : Desc) (s : State) : KeepsQueue s (execWait core d s) := by simp [execWait]
theorem execWaitResume_keepsQueue (core : CoreId) (waited : Nat) (s : State) : KeepsQueue s (execWaitResume core waited s) := by
  unfold execWaitResume; dsimp only; split <;> simp
theorem execWaitTimeout_keepsQueue (core : CoreId) (s : State) : KeepsQueue s (execWaitTimeout core s) := by unfold execWaitTimeout; dsimp only; split <;> simp
theorem execSignal_keepsQueue (core : CoreId) (d : Desc) (s : State) : KeepsQueue s (execSignal core d s) := by simp [execSignal]
@[simp] theorem signalActs_pending (core : Nat) (s : State) : (signalActs core s).pending = s.pending := by unfold signalActs; (repeat' split) <;> simp
theorem execSignalTakesEffect_keepsQueue (core : CoreId) (s : State) : KeepsQueue s (execSignalTakesEffect core s) := by simp [execSignalTakesEffect]
theorem execFence_keepsQueue (core : CoreId) (d : Desc) (s : State) : KeepsQueue s (execFence core d s) := by simp [execFence]
theorem execEndTask_keepsQueue (core : CoreId) (d : Desc) (s : State) : KeepsQueue s (execEndTask core d s) := by simp [execEndTask]

/-! ## Machine/TileOps.lean -/

theorem execTileBegin_keepsQueue (core : CoreId) (s : State) : KeepsQueue s (execTileBegin core s) := by simp [execTileBegin]
theorem execMov_keepsQueue (core : CoreId) (d a : BitVec 5) (s : State) : KeepsQueue s (execMov core d a s) := by simp [execMov]
theorem execConst_keepsQueue (core : CoreId) (d : BitVec 5) (m : BitVec 6) (s : State) : KeepsQueue s (execConst core d m s) := by simp [execConst]
theorem execLds_keepsQueue (core : CoreId) (d : BitVec 5) (m : BitVec 6) (words : List SramFind) (s : State) : KeepsQueue s (execLds core d m words s) := by
  simp [execLds]
theorem execSts_keepsQueue (core : CoreId) (a : BitVec 5) (m : BitVec 6) (s : State) : KeepsQueue s (execSts core a m s) := by simp [execSts]
theorem execLane_keepsQueue (core : CoreId) (d : BitVec 5) (s : State) : KeepsQueue s (execLane core d s) := by simp [execLane]
theorem execRownum_keepsQueue (core : CoreId) (d : BitVec 5) (s : State) : KeepsQueue s (execRownum core d s) := by simp [execRownum]
theorem execAdd_keepsQueue (core : CoreId) (d a b : BitVec 5) (s : State) : KeepsQueue s (execAdd core d a b s) := by simp [execAdd]
theorem execSub_keepsQueue (core : CoreId) (d a b : BitVec 5) (s : State) : KeepsQueue s (execSub core d a b s) := by simp [execSub]
theorem execMul_keepsQueue (core : CoreId) (d a b : BitVec 5) (s : State) : KeepsQueue s (execMul core d a b s) := by simp [execMul]
theorem execFma_keepsQueue (core : CoreId) (d a b c : BitVec 5) (s : State) : KeepsQueue s (execFma core d a b c s) := by simp [execFma]
theorem execMin_keepsQueue (core : CoreId) (d a b : BitVec 5) (s : State) : KeepsQueue s (execMin core d a b s) := by simp [execMin]
theorem execMax_keepsQueue (core : CoreId) (d a b : BitVec 5) (s : State) : KeepsQueue s (execMax core d a b s) := by simp [execMax]
theorem execAbs_keepsQueue (core : CoreId) (d a : BitVec 5) (s : State) : KeepsQueue s (execAbs core d a s) := by simp [execAbs]
theorem execNeg_keepsQueue (core : CoreId) (d a : BitVec 5) (s : State) : KeepsQueue s (execNeg core d a s) := by simp [execNeg]
theorem execScale_keepsQueue (core : CoreId) (d a b : BitVec 5) (s : State) : KeepsQueue s (execScale core d a b s) := by simp [execScale]
theorem execFloor_keepsQueue (core : CoreId) (d a : BitVec 5) (s : State) : KeepsQueue s (execFloor core d a s) := by simp [execFloor]
theorem execCmplt_keepsQueue (core : CoreId) (d a b : BitVec 5) (s : State) : KeepsQueue s (execCmplt core d a b s) := by simp [execCmplt]
theorem execCmple_keepsQueue (core : CoreId) (d a b : BitVec 5) (s : State) : KeepsQueue s (execCmple core d a b s) := by simp [execCmple]
theorem execCmpeq_keepsQueue (core : CoreId) (d a b : BitVec 5) (s : State) : KeepsQueue s (execCmpeq core d a b s) := by simp [execCmpeq]
theorem execSel_keepsQueue (core : CoreId) (d a b c : BitVec 5) (s : State) : KeepsQueue s (execSel core d a b c s) := by simp [execSel]
theorem execIsfin_keepsQueue (core : CoreId) (d a : BitVec 5) (s : State) : KeepsQueue s (execIsfin core d a s) := by simp [execIsfin]
theorem execRcp_keepsQueue (core : CoreId) (d a : BitVec 5) (s : State) : KeepsQueue s (execRcp core d a s) := by simp [execRcp]
theorem execSqrt_keepsQueue (core : CoreId) (d a : BitVec 5) (s : State) : KeepsQueue s (execSqrt core d a s) := by simp [execSqrt]
theorem execRsqrt_keepsQueue (core : CoreId) (d a : BitVec 5) (s : State) : KeepsQueue s (execRsqrt core d a s) := by simp [execRsqrt]
theorem execExp_keepsQueue (core : CoreId) (d a : BitVec 5) (s : State) : KeepsQueue s (execExp core d a s) := by simp [execExp]
theorem execExp2_keepsQueue (core : CoreId) (d a : BitVec 5) (s : State) : KeepsQueue s (execExp2 core d a s) := by simp [execExp2]
theorem execLog_keepsQueue (core : CoreId) (d a : BitVec 5) (s : State) : KeepsQueue s (execLog core d a s) := by simp [execLog]
theorem execLog2_keepsQueue (core : CoreId) (d a : BitVec 5) (s : State) : KeepsQueue s (execLog2 core d a s) := by simp [execLog2]
theorem execTanh_keepsQueue (core : CoreId) (d a : BitVec 5) (s : State) : KeepsQueue s (execTanh core d a s) := by simp [execTanh]
theorem execSigm_keepsQueue (core : CoreId) (d a : BitVec 5) (s : State) : KeepsQueue s (execSigm core d a s) := by simp [execSigm]
theorem execRamax_keepsQueue (core : CoreId) (d a : BitVec 5) (s : State) : KeepsQueue s (execRamax core d a s) := by simp [execRamax]
theorem execRsum_keepsQueue (core : CoreId) (d a : BitVec 5) (m : BitVec 6) (s : State) : KeepsQueue s (execRsum core d a m s) := by simp [execRsum]
theorem execRmax_keepsQueue (core : CoreId) (d a : BitVec 5) (s : State) : KeepsQueue s (execRmax core d a s) := by simp [execRmax]
theorem execRmin_keepsQueue (core : CoreId) (d a : BitVec 5) (s : State) : KeepsQueue s (execRmin core d a s) := by simp [execRmin]
theorem execRsumsq_keepsQueue (core : CoreId) (d a : BitVec 5) (m : BitVec 6) (s : State) : KeepsQueue s (execRsumsq core d a m s) := by simp [execRsumsq]
theorem execCsum_keepsQueue (core : CoreId) (a : BitVec 5) (m : BitVec 6) (s : State) : KeepsQueue s (execCsum core a m s) := by simp [execCsum]
theorem execCmax_keepsQueue (core : CoreId) (a : BitVec 5) (m : BitVec 6) (s : State) : KeepsQueue s (execCmax core a m s) := by simp [execCmax]
theorem execCget_keepsQueue (core : CoreId) (d : BitVec 5) (m : BitVec 6) (s : State) : KeepsQueue s (execCget core d m s) := by simp [execCget]
theorem execCvt_keepsQueue (core : CoreId) (d a : BitVec 5) (m : BitVec 6) (s : State) : KeepsQueue s (execCvt core d a m s) := by simp [execCvt]
theorem execRscale_keepsQueue (core : CoreId) (d a : BitVec 5) (m : BitVec 6) (s : State) : KeepsQueue s (execRscale core d a m s) := by simp [execRscale]
theorem execBscale_keepsQueue (core : CoreId) (d a : BitVec 5) (s : State) : KeepsQueue s (execBscale core d a s) := by simp [execBscale]
theorem execTileSend_keepsQueue (core : CoreId) (m : BitVec 6) (s : State) : KeepsQueue s (execTileSend core m s) := by simp [execTileSend]

end Sys2Proof.Machine
end

section
/-! O2: ingest, the almanac and maintenance of memory: each keeps the queue. -/

namespace Sys2Proof.Machine

/-! ## Machine/Ingest.lean -/

@[simp] theorem askGo_pending (fn tag total n : Nat) (s : State) : (askGo fn tag total n s).pending = s.pending := by
  induction n generalizing s with
  | zero => rfl
  | succ n ih =>
    unfold askGo
    (repeat' split) <;> simp [ih]
@[simp] theorem askRows_pending (fn tag : Nat) (s : State) : (askRows fn tag s).pending = s.pending := by unfold askRows; split <;> simp
@[simp] theorem ingestSettle_pending (fn tag : Nat) (finds : List LineFind) (s : State) : (ingestSettle fn tag finds s).pending = s.pending := by
  unfold ingestSettle; split
  · rfl
  · split
    · rfl
    · dsimp only; split
      · rfl
      · split <;> next h => simp [(pair_eq_iff.mp h).2]
@[simp] theorem ingestPiece_pending (fn tag offset : Nat) (bs : Bytes) (finds : List LineFind) (s : State) : (ingestPiece fn tag offset bs finds s).pending = s.pending := by
  simp [ingestPiece]
@[simp] theorem writeTickets_pending (inst tag : Nat) (bubble : Bool) (st : Stall) (im : Image) (pr : Program) (s : State) : (writeTickets inst tag bubble st im pr s).pending = s.pending := by
  unfold writeTickets; split <;> simp
@[simp] theorem writeBubble_pending (st : Stall) (im : Image) (pr : Program) (p : Step) (s : State) : (writeBubble st im pr p s).pending = s.pending := by
  simp [writeBubble]

/-! ## Machine/Almanac.lean -/

@[simp] theorem refuseStep_pending (inst tag : Nat) (hot : Bool) (s : State) : (refuseStep inst tag hot s).pending = s.pending := by
  unfold refuseStep; split <;> simp
@[simp] theorem gapCheck_pending (inst : Nat) (s : State) : (gapCheck inst s).pending = s.pending := by
  unfold gapCheck; split
  · refine forEach_queue (fun _ s => ?_) (by simp)
    (repeat' split) <;> simp
  · simp
@[simp] theorem lend_pending (inst slot occ length : Nat) (st : Stall) (s : State) : (lend inst slot occ length st s).pending = s.pending := by simp [lend]
@[simp] theorem accept_pending (inst slot occ start : Nat) (sl : Slot) (st : Stall) (im : Image) (pr : Program) (p : Step) (s : State) : (accept inst slot occ start sl st im pr p s).pending = s.pending := by
  simp [accept]
@[simp] theorem refuseWaiting_pending (inst program : Nat) (hot : Bool) (s : State) : (refuseWaiting inst program hot s).pending = s.pending := by
  simp [refuseWaiting]
@[simp] theorem decide__pending (inst slot occ start : Nat) (sl : Slot) (st : Stall) (im : Image) (pr : Program) (s : State) : (decide_ inst slot occ start sl st im pr s).pending = s.pending := by
  unfold decide_; (repeat' split) <;> simp
@[simp] theorem decisionAt_pending (inst slot occ : Nat) (s : State) : (decisionAt inst slot occ s).pending = s.pending := by
  unfold decisionAt; dsimp only; (repeat' split) <;> simp
theorem execDecisionPoint_keepsQueue (fn : FnId) (slot occ : Nat) (s : State) : KeepsQueue s (execDecisionPoint fn slot occ s) := by simp [execDecisionPoint]
@[simp] theorem clearClips_pending (inst : Nat) (bubble : Bool) (s : State) : (clearClips inst bubble s).pending = s.pending := by simp [clearClips]
@[simp] theorem occurrenceAt_pending (inst slot occ : Nat) (s : State) : (occurrenceAt inst slot occ s).pending = s.pending := by
  unfold occurrenceAt; (repeat' split) <;> simp
theorem execOccurrenceStart_keepsQueue (fn : FnId) (slot occ : Nat) (s : State) : KeepsQueue s (execOccurrenceStart fn slot occ s) := by simp [execOccurrenceStart]
@[simp] theorem slotEnd_pending (inst slot occ : Nat) (s : State) : (slotEnd inst slot occ s).pending = s.pending := by
  unfold slotEnd; dsimp only; (repeat' split) <;> simp
theorem execSlotEndStop_keepsQueue (fn : FnId) (slot occ : Nat) (s : State) : KeepsQueue s (execSlotEndStop fn slot occ s) := by simp [execSlotEndStop]
@[simp] theorem finishMoves_pending (core n : Nat) (s : State) : (finishMoves core n s).pending = s.pending := by
  induction n generalizing s with
  | zero => rfl
  | succ n ih =>
    unfold finishMoves
    (repeat' split) <;> simp [ih]
@[simp] theorem spillCore_pending (start core : Nat) (s : State) : (spillCore start core s).pending = s.pending := by simp [spillCore]
@[simp] theorem restoreCore_pending (start core : Nat) (s : State) : (restoreCore start core s).pending = s.pending := by simp [restoreCore]
@[simp] theorem suspend_pending (inst : Nat) (s : State) : (suspend inst s).pending = s.pending := by unfold suspend; split <;> simp
theorem execBubbleSuspend_keepsQueue (fn : FnId) (s : State) : KeepsQueue s (execBubbleSuspend fn s) := by unfold execBubbleSuspend; split <;> simp
@[simp] theorem resume_pending (inst : Nat) (s : State) : (resume inst s).pending = s.pending := by unfold resume; split <;> simp
theorem execBubbleResume_keepsQueue (fn : FnId) (s : State) : KeepsQueue s (execBubbleResume fn s) := by simp [execBubbleResume]
@[simp] theorem startSubstep_pending (inst : Nat) (im : Image) (pr : Program) (tag k : Nat) (s : State) : (startSubstep inst im pr tag k s).pending = s.pending := by
  simp [startSubstep]
@[simp] theorem startBubble_pending (inst : Nat) (st : Stall) (im : Image) (p : Step) (s : State) : (startBubble inst st im p s).pending = s.pending := by
  unfold startBubble; (repeat' split) <;> simp
@[simp] theorem substepStart_pending (inst : Nat) (s : State) : (substepStart inst s).pending = s.pending := by unfold substepStart; (repeat' split) <;> simp
theorem execBubbleSubstepStart_keepsQueue (fn : FnId) (s : State) : KeepsQueue s (execBubbleSubstepStart fn s) := by simp [execBubbleSubstepStart]
@[simp] theorem refitWaiting_pending (inst : Nat) (s : State) : (refitWaiting inst s).pending = s.pending := by unfold refitWaiting; split <;> simp
@[simp] theorem almanacSwitch_pending (inst : Nat) (s : State) : (almanacSwitch inst s).pending = s.pending := by unfold almanacSwitch; (repeat' split) <;> simp
theorem execAlmanacSwitch_keepsQueue (fn : FnId) (s : State) : KeepsQueue s (execAlmanacSwitch fn s) := by simp [execAlmanacSwitch]
@[simp] theorem countSteps_pending (g rate : Nat) (s : State) : (countSteps g rate s).pending = s.pending := by
  unfold countSteps; split
  · refine forEach_queue (fun _ s => ?_) (by simp)
    simp
  · simp
@[simp] theorem speedFault_pending (g : Nat) (s : State) : (speedFault g s).pending = s.pending := by unfold speedFault; dsimp only; split <;> simp
@[simp] theorem measure_pending (g rate : Nat) (s : State) : (measure g rate s).pending = s.pending := by simp [measure]
theorem execTransitMeasurement_keepsQueue (group : GroupId) (rate : BitVec 16) (s : State) : KeepsQueue s (execTransitMeasurement group rate s) := by
  simp [execTransitMeasurement]
@[simp] theorem shed_pending (s : State) : (shed s).pending = s.pending := by
  unfold shed
  refine forEach_queue (fun _ s => ?_) (by simp)
  (repeat' split) <;> simp
@[simp] theorem heatChanged_pending (s : State) : (heatChanged s).pending = s.pending := by simp [heatChanged]
theorem execGroupThermalLevel_keepsQueue (group : GroupId) (tenths : Nat) (s : State) : KeepsQueue s (execGroupThermalLevel group tenths s) := by
  simp [execGroupThermalLevel]
theorem execStackThermalLevel_keepsQueue (stack : Fin 12) (tenths : Nat) (s : State) : KeepsQueue s (execStackThermalLevel stack tenths s) := by
  simp [execStackThermalLevel]
theorem execAdapterResident_keepsQueue (fn : FnId) (adapter : BitVec 32) (outcome : FetchEnd) (s : State) : KeepsQueue s (execAdapterResident fn adapter outcome s) := by
  unfold execAdapterResident; dsimp only; (repeat' split) <;> simp
theorem execEarlyRead_keepsQueue (fn : FnId) (adapter : BitVec 32) (s : State) : KeepsQueue s (execEarlyRead fn adapter s) := by
  unfold execEarlyRead; dsimp only; (repeat' split) <;> simp
theorem execExpertPredictedFetch_keepsQueue (core : CoreId) (sram : BitVec 19) (len : BitVec 24) (mem : BitVec 48) (s : State) : KeepsQueue s (execExpertPredictedFetch core sram len mem s) := by
  unfold execExpertPredictedFetch; dsimp only; split <;> simp

/-! ## Machine/MemMaint.lean -/

theorem execMaintActivityStart_keepsQueue (id : Nat) (s : State) : KeepsQueue s (execMaintActivityStart id s) := by unfold execMaintActivityStart; split <;> simp
@[simp] theorem endGroupTest_pending (g : Nat) (repaired degraded : Bool) (s : State) : (endGroupTest g repaired degraded s).pending = s.pending := by
  simp [endGroupTest]
@[simp] theorem endUpdate_pending (a : Act) (s : State) : (endUpdate a s).pending = s.pending := by unfold endUpdate; (repeat' split) <;> simp
theorem execMaintActivityEnd_keepsQueue (id : Nat) (result : BitVec 128) (s : State) : KeepsQueue s (execMaintActivityEnd id result s) := by
  unfold execMaintActivityEnd; (repeat' split) <;> simp
theorem execMeasurementHoldEnd_keepsQueue (id : Nat) (s : State) : KeepsQueue s (execMeasurementHoldEnd id s) := by
  unfold execMeasurementHoldEnd; (repeat' split) <;> simp
@[simp] theorem pageMove_pending (inst page : Nat) (dest : MoveTo) (s : State) : (pageMove inst page dest s).pending = s.pending := by
  unfold pageMove; dsimp only; (repeat' split) <;> simp
theorem execPageMove_keepsQueue (inst : FnId) (page : Nat) (dest : MoveTo) (s : State) : KeepsQueue s (execPageMove inst page dest s) := by simp [execPageMove]
@[simp] theorem copyLines_pending (inst key : Nat) (e e' : Pte) (ll0 : Nat) (finds : List LineFind) (s : State) : (copyLines inst key e e' ll0 finds s).pending = s.pending := by
  unfold copyLines
  refine forEach_queue (fun _ s => ?_) (by simp)
  (repeat' split) <;> simp
@[simp] theorem pageBlocks_pending (inst key : Nat) (e : Pte) (ll0 : Nat) (finds : List LineFind) (s : State) : (pageBlocks inst key e ll0 finds s).2.pending = s.pending := by
  unfold pageBlocks
  have h : ∀ (l : List Nat) (acc : List (Option Bytes) × State), (l.foldl (fun acc b =>
      if e.packed then
        let (r, s1) := readPacked inst key e ll0 b finds acc.2
        (acc.1 ++ [r], s1)
      else
        let (bs, bad, s1) := readStoredRun inst key e ll0 finds 32 (b * 4096) acc.2
        (acc.1 ++ [if bad then none else some bs], s1)) acc).2.pending = acc.2.pending := by
    intro l
    induction l with
    | nil => exact fun _ => rfl
    | cons b l ih => intro acc; rw [List.foldl_cons, ih]; split <;> simp
  exact h _ _
@[simp] theorem storePage_pending (e : Pte) (ll0 : Nat) (bs : Bytes) (bad : Nat → Bool) (s : State) : (storePage e ll0 bs bad s).pending = s.pending := by
  unfold storePage
  refine forEach_queue (fun _ s => ?_) (by simp)
  (repeat' split) <;> simp
@[simp] theorem recodePage_pending (inst key : Nat) (e e0 : Pte) (ll0 : Nat) (finds : List LineFind) (s : State) : (recodePage inst key e e0 ll0 finds s).2.pending = s.pending := by
  unfold recodePage; dsimp only; split <;> exact (storePage_pending ..).trans ((takeMap_pending ..).trans (pageBlocks_pending ..))
@[simp] theorem pageMoveComplete_pending (id : Nat) (finds : List LineFind) (s : State) : (pageMoveComplete id finds s).pending = s.pending := by
  unfold pageMoveComplete; dsimp only; (repeat' split) <;> simp
theorem execPageMoveComplete_keepsQueue (id : Nat) (finds : List LineFind) (s : State) : KeepsQueue s (execPageMoveComplete id finds s) := by
  simp [execPageMoveComplete]
@[simp] theorem rekeyPage_pending (inst page : Nat) (s : State) : (rekeyPage inst page s).pending = s.pending := by
  unfold rekeyPage; dsimp only; (repeat' split) <;> simp
theorem execRekeyPage_keepsQueue (inst : FnId) (page : Nat) (s : State) : KeepsQueue s (execRekeyPage inst page s) := by simp [execRekeyPage]
@[simp] theorem rekeyComplete_pending (inst page : Nat) (finds : List LineFind) (s : State) : (rekeyComplete inst page finds s).pending = s.pending := by
  unfold rekeyComplete; (repeat' split) <;> simp
theorem execRekeyComplete_keepsQueue (inst : FnId) (page : Nat) (finds : List LineFind) (s : State) : KeepsQueue s (execRekeyComplete inst page finds s) := by
  simp [execRekeyComplete]
@[simp] theorem retryIngests_pending (inst : Nat) (s : State) : (retryIngests inst s).pending = s.pending := by simp [retryIngests]
@[simp] theorem lineRekey_pending (inst line : Nat) (s : State) : (lineRekey inst line s).pending = s.pending := by unfold lineRekey; dsimp only; split <;> simp
theorem execLineRekeyComplete_keepsQueue (inst : FnId) (line : Nat) (s : State) : KeepsQueue s (execLineRekeyComplete inst line s) := by simp [execLineRekeyComplete]
@[simp] theorem scrubVisit_pending (part : Nat) (f : LineFind) (s : State) : (scrubVisit part f s).pending = s.pending := by
  unfold scrubVisit; (repeat' split) <;> simp
theorem execPatrolScrubVisit_keepsQueue (part : Fin 28) (find : LineFind) (s : State) : KeepsQueue s (execPatrolScrubVisit part find s) := by
  unfold execPatrolScrubVisit; split <;> simp
theorem relocatePage_pending (key : Nat) (s : State) (t : State) (ht : relocatePage key s = some t) : t.pending = s.pending := by
  unfold relocatePage at ht; dsimp only at ht; split at ht
  · cases ht
  · cases ht; simp
theorem relocateAll_pending (ks : List Nat) (s : State) (t : State) (ht : relocateAll ks s = some t) : t.pending = s.pending := by
  induction ks generalizing s with
  | nil => cases ht; rfl
  | cons k ks ih =>
    unfold relocateAll at ht; split at ht
    · next h => exact (ih _ ht).trans (relocatePage_pending _ _ _ h)
    · cases ht
@[simp] theorem spareRow_pending (part row : Nat) (s : State) : (spareRow part row s).pending = s.pending := by simp [spareRow]
@[simp] theorem retireFrame_pending (part frame : Nat) (row : Option Nat) (s : State) : (retireFrame part frame row s).pending = s.pending := by
  unfold retireFrame; split
  · rfl
  · dsimp only; split
    · rfl
    · split
      · rfl
      · next h => split <;> simp [relocateAll_pending _ _ _ h]
theorem execFrameRetirement_keepsQueue (part : Fin 28) (frame : Nat) (sparedRow : Option Nat) (s : State) : KeepsQueue s (execFrameRetirement part frame sparedRow s) := by
  unfold execFrameRetirement; split <;> simp
theorem execChannelRecal_keepsQueue (part : Fin 28) (channel : BitVec 7) (s : State) : KeepsQueue s (execChannelRecal part channel s) := by
  unfold execChannelRecal; dsimp only; split <;> simp
theorem execTenantScrub_keepsQueue (part : Fin 28) (frame : Nat) (s : State) : KeepsQueue s (execTenantScrub part frame s) := by
  unfold execTenantScrub; (repeat' split) <;> simp

end Sys2Proof.Machine
end

section
/-! O2: the fabric and fine-tuning: each keeps the queue. -/

namespace Sys2Proof.Machine

/-! ## Machine/Fabric.lean -/

@[simp] theorem sendLinkAck_pending (port : Nat) (nak : Bool) (s : State) : (sendLinkAck port nak s).pending = s.pending := by simp [sendLinkAck]
@[simp] theorem damaged_pending (port : Nat) (s : State) : (damaged port s).pending = s.pending := by simp [damaged]
@[simp] theorem ackLink_pending (port lack : Nat) (s : State) : (ackLink port lack s).pending = s.pending := by simp [ackLink]
@[simp] theorem dropOther_pending (port : Nat) (s : State) : (dropOther port s).pending = s.pending := by simp [dropOther]
@[simp] theorem dropTarget_pending (port : Nat) (s : State) : (dropTarget port s).pending = s.pending := by simp [dropTarget]
@[simp] theorem linkAccept_pending (port : Nat) (f : RxFrame) (s : State) : (linkAccept port f s).2.pending = s.pending := by
  unfold linkAccept; dsimp only; (repeat' split) <;> simp
@[simp] theorem oweCredit_pending (port pool : Nat) (s : State) : (oweCredit port pool s).pending = s.pending := by simp [oweCredit]
@[simp] theorem forward_pending (port pool : Nat) (h : Hdr) (payload : Bytes) (s : State) : (forward port pool h payload s).pending = s.pending := by simp [forward]
@[simp] theorem onFrame_pending (port typ : Nat) (f : RxFrame) (local_ : Hdr → State → State) (s : State) (hlocal_ : ∀ a0 s, (local_ a0 s).pending = s.pending) : (onFrame port typ f local_ s).pending = s.pending := by
  unfold onFrame; dsimp only; (repeat' split) <;> simp [hlocal_]
@[simp] theorem updDst_pending (flow : Nat) (g : FlowDst → FlowDst) (s : State) : (updDst flow g s).pending = s.pending := by simp [updDst]
@[simp] theorem answer_pending (flow status : Nat) (s : State) : (answer flow status s).pending = s.pending := by unfold answer; split <;> simp
@[simp] theorem flowFrame_pending (port : Nat) (h : Hdr) (act : FlowDst → State → Nat × State) (s : State) (hact : ∀ a0 s, (act a0 s).2.pending = s.pending) : (flowFrame port h act s).pending = s.pending := by
  unfold flowFrame; split
  · simp
  · split
    · simp
    · dsimp only; (repeat' split) <;> simp [hact]
@[simp] theorem refuseFrame_pending (port status inst : Nat) (s : State) : (refuseFrame port status inst s).2.pending = s.pending := by simp [refuseFrame]
@[simp] theorem failRunning_pending (inst : Nat) (bubble : Bool) (why : StopWhy) (s : State) : (failRunning inst bubble why s).pending = s.pending := by
  simp [failRunning]
@[simp] theorem frameSignal_pending (port : Nat) (d : FlowDst) (obj : Nat) (s : State) : (frameSignal port d obj s).pending = s.pending := by simp [frameSignal]
@[simp] theorem dataLands_pending (port : Nat) (h : Hdr) (payload : Bytes) (d : FlowDst) (s : State) : (dataLands port h payload d s).2.pending = s.pending := by
  unfold dataLands; dsimp only; (repeat' split) <;> simp
theorem execDataFrame_keepsQueue (port : Fin 96) (f : RxFrame) (s : State) : KeepsQueue s (execDataFrame port f s) := by simp [execDataFrame]
@[simp] theorem signalLands_pending (port : Nat) (h : Hdr) (d : FlowDst) (s : State) : (signalLands port h d s).2.pending = s.pending := by
  unfold signalLands; dsimp only; (repeat' split) <;> simp
theorem execSignalFrame_keepsQueue (port : Fin 96) (f : RxFrame) (s : State) : KeepsQueue s (execSignalFrame port f s) := by simp [execSignalFrame]
@[simp] theorem failColl_pending (inst : Nat) (c : Coll) (s : State) : (failColl inst c s).pending = s.pending := by simp [failColl]
@[simp] theorem collCoded_pending (inst : Nat) (c : Coll) (m : Nat) (payload : Bytes) (s : State) : (collCoded inst c m payload s).pending = s.pending := by
  unfold collCoded; split
  · rfl
  · refine forEach_queue (fun b s => ?_) (updRun_pending ..)
    split
    · rfl
    · dsimp only; split <;> simp
@[simp] theorem collLands_pending (port : Nat) (h : Hdr) (payload : Bytes) (d : FlowDst) (s : State) : (collLands port h payload d s).2.pending = s.pending := by
  unfold collLands; dsimp only; (repeat' split) <;> simp
theorem execCollFrame_keepsQueue (port : Fin 96) (f : RxFrame) (s : State) : KeepsQueue s (execCollFrame port f s) := by simp [execCollFrame]
theorem execCollectiveComplete_keepsQueue (fn : FnId) (coll : BitVec 16) (s : State) : KeepsQueue s (execCollectiveComplete fn coll s) := by
  unfold execCollectiveComplete; dsimp only; split <;> simp
theorem execCollectiveTimeout_keepsQueue (fn : FnId) (coll : BitVec 16) (s : State) : KeepsQueue s (execCollectiveTimeout fn coll s) := by
  unfold execCollectiveTimeout; dsimp only; split <;> simp
@[simp] theorem settleStall_pending (inst : Nat) (s : State) : (settleStall inst s).pending = s.pending := by unfold settleStall; split <;> simp
@[simp] theorem ackLands_pending (h : Hdr) (payload : Bytes) (s : State) : (ackLands h payload s).pending = s.pending := by simp [ackLands]
theorem execE2eAck_keepsQueue (port : Fin 96) (f : RxFrame) (s : State) : KeepsQueue s (execE2eAck port f s) := by simp [execE2eAck]
theorem execPathDown_keepsQueue (port : Fin 96) (f : RxFrame) (s : State) : KeepsQueue s (execPathDown port f s) := by simp [execPathDown]
theorem execE2eAckTimer_keepsQueue (flow : BitVec 20) (s : State) : KeepsQueue s (execE2eAckTimer flow s) := by unfold execE2eAckTimer; split <;> simp
theorem execFlowResendTimeout_keepsQueue (dest : BitVec 14) (flow : BitVec 20) (s : State) : KeepsQueue s (execFlowResendTimeout dest flow s) := by
  simp [execFlowResendTimeout]
@[simp] theorem breakFlow_pending (key : Nat) (s : State) : (breakFlow key s).pending = s.pending := by
  unfold breakFlow; simp only [failRunning_pending]
  refine forEach_queue (fun r s => ?_) (by simp)
  split
  · split <;> simp
  · rfl
theorem execFlowNoPathTimeout_keepsQueue (dest : BitVec 14) (flow : BitVec 20) (s : State) : KeepsQueue s (execFlowNoPathTimeout dest flow s) := by
  simp [execFlowNoPathTimeout]
@[simp] theorem loseMember_pending (inst job dev : Nat) (s : State) : (loseMember inst job dev s).pending = s.pending := by
  unfold loseMember; split
  · rfl
  · split
    · rfl
    · extract_lets s1 s2 waits
      have h : s2.pending = s.pending := by
        refine forEach_queue (fun r s => ?_) (by simp [s1])
        split
        · split <;> simp
        · rfl
      split <;> simp [h]
@[simp] theorem reportLoss_pending (dev : Nat) (s : State) : (reportLoss dev s).pending = s.pending := by simp [reportLoss]
theorem execLoss_keepsQueue (port : Fin 96) (f : RxFrame) (s : State) : KeepsQueue s (execLoss port f s) := by unfold execLoss; dsimp only; simp
theorem execMemberLossTimeout_keepsQueue (dev : BitVec 14) (s : State) : KeepsQueue s (execMemberLossTimeout dev s) := by unfold execMemberLossTimeout; simp
theorem execPortSignalDetect_keepsQueue (port : Fin 96) (s : State) : KeepsQueue s (execPortSignalDetect port s) := by simp [execPortSignalDetect]
theorem execLinkTrainingDone_keepsQueue (port : Fin 96) (s : State) : KeepsQueue s (execLinkTrainingDone port s) := by simp [execLinkTrainingDone]
@[simp] theorem refusePort_pending (port reason : Nat) (s : State) : (refusePort port reason s).pending = s.pending := by simp [refusePort]
theorem execAttestationDone_keepsQueue (port : Fin 96) (identityOk : Bool) (digest : BitVec 384) (s : State) : KeepsQueue s (execAttestationDone port identityOk digest s) := by
  simp [execAttestationDone]
@[simp] theorem loseLink_pending (port reason : Nat) (s : State) : (loseLink port reason s).pending = s.pending := by simp [loseLink]
theorem execPortLossOfLock_keepsQueue (port : Fin 96) (s : State) : KeepsQueue s (execPortLossOfLock port s) := by simp [execPortLossOfLock]
theorem execPortSilenceTimeout_keepsQueue (port : Fin 96) (s : State) : KeepsQueue s (execPortSilenceTimeout port s) := by simp [execPortSilenceTimeout]
@[simp] theorem hailLands_pending (port : Nat) (bs : Bytes) (rtt : BitVec 16) (s : State) : (hailLands port bs rtt s).pending = s.pending := by simp [hailLands]
theorem execHail_keepsQueue (port : Fin 96) (f : RxFrame) (rtt : BitVec 16) (s : State) : KeepsQueue s (execHail port f rtt s) := by simp [execHail]
theorem execHailTimer_keepsQueue (port : Fin 96) (s : State) : KeepsQueue s (execHailTimer port s) := by simp [execHailTimer]
@[simp] theorem countReplays_pending (port n : Nat) (s : State) : (countReplays port n s).pending = s.pending := by simp [countReplays]
@[simp] theorem replayFrom_pending (port lseq : Nat) (s : State) : (replayFrom port lseq s).pending = s.pending := by
  unfold replayFrom; dsimp only; split
  · simp
  · exact forEach_queue (fun _ _ => rfl) (by simp)
@[simp] theorem linkAckLands_pending (port : Nat) (bs : Bytes) (s : State) : (linkAckLands port bs s).pending = s.pending := by simp [linkAckLands]
theorem execLinkAck_keepsQueue (port : Fin 96) (f : RxFrame) (s : State) : KeepsQueue s (execLinkAck port f s) := by simp [execLinkAck]
theorem execLinkAckTimer_keepsQueue (port : Fin 96) (s : State) : KeepsQueue s (execLinkAckTimer port s) := by simp [execLinkAckTimer]
@[simp] theorem topoLands_pending (port : Nat) (bs : Bytes) (s : State) : (topoLands port bs s).pending = s.pending := by simp [topoLands]
theorem execTopo_keepsQueue (port : Fin 96) (f : RxFrame) (s : State) : KeepsQueue s (execTopo port f s) := by simp [execTopo]
@[simp] theorem spdmLands_pending (port : Nat) (bs : Bytes) (s : State) : (spdmLands port bs s).pending = s.pending := by simp [spdmLands]
theorem execSpdmFrame_keepsQueue (port : Fin 96) (f : RxFrame) (s : State) : KeepsQueue s (execSpdmFrame port f s) := by simp [execSpdmFrame]
theorem execLinkKeyUpdate_keepsQueue (port : Fin 96) (s : State) : KeepsQueue s (execLinkKeyUpdate port s) := by simp [execLinkKeyUpdate]

/-! ## Machine/Training.lean -/

@[simp] theorem sweepLines_pending (inst : Nat) (finds : List LineFind) (n l : Nat) (s : State) : (sweepLines inst finds n l s).2.pending = s.pending := by
  induction n generalizing l s with
  | zero => rfl
  | succ n ih =>
    unfold sweepLines
    split <;> simp [ih]
@[simp] theorem sweepArray_pending (inst la k n : Nat) (finds : List LineFind) (s : State) : (sweepArray inst la k n finds s).2.2.pending = s.pending := by
  simp [sweepArray]
@[simp] theorem sweepWrite_pending (inst la k : Nat) (items : List Nat) (bad : List Bool) (s : State) : (sweepWrite inst la k items bad s).pending = s.pending := by
  simp [sweepWrite]
@[simp] theorem sweepTensor_pending (inst : Nat) (j : Job) (p : Step) (finds : List LineFind) (i : Nat) (t : Tensor) (x : SweepAcc × State) : (sweepTensor inst j p finds i t x).2.pending = x.2.pending := by
  unfold sweepTensor; (repeat' split) <;> simp
@[simp] theorem sweepAll_pending (inst : Nat) (j : Job) (p : Step) (finds : List LineFind) (ts : List Tensor) (i : Nat) (x : SweepAcc × State) : (sweepAll inst j p finds ts i x).2.pending = x.2.pending := by
  induction ts generalizing i x with
  | nil => rfl
  | cons t ts ih =>
    unfold sweepAll
    simp [ih]
theorem execSweepStart_keepsQueue (fn : FnId) (finds : List LineFind) (s : State) : KeepsQueue s (execSweepStart fn finds s) := by
  unfold execSweepStart; dsimp only; split <;> simp
theorem execSweepEnd_keepsQueue (fn : FnId) (s : State) : KeepsQueue s (execSweepEnd fn s) := by unfold execSweepEnd; dsimp only; (repeat' split) <;> simp
@[simp] theorem verdictMessage_pending (inst : Nat) (bs : Bytes) (s : State) : (verdictMessage inst bs s).pending = s.pending := by
  unfold verdictMessage; dsimp only; (repeat' split) <;> simp
@[simp] theorem verdictLands_pending (port : Nat) (h : Hdr) (bs : Bytes) (s : State) : (verdictLands port h bs s).pending = s.pending := by
  unfold verdictLands; split
  · split <;> simp
  · refine flowFrame_pending _ _ _ _ fun d s => ?_
    dsimp only; split <;> simp
theorem execVerdictFrame_keepsQueue (port : Fin 96) (f : RxFrame) (s : State) : KeepsQueue s (execVerdictFrame port f s) := by simp [execVerdictFrame]
theorem execVerdictTimeout_keepsQueue (fn : FnId) (job : BitVec 32) (s : State) : KeepsQueue s (execVerdictTimeout fn job s) := by
  unfold execVerdictTimeout; dsimp only; (repeat' split) <;> simp
theorem execWorkingCopyConverted_keepsQueue (fn : FnId) (job : BitVec 32) (s : State) : KeepsQueue s (execWorkingCopyConverted fn job s) := by
  unfold execWorkingCopyConverted; dsimp only; (repeat' split) <;> simp
theorem execExportWindowResume_keepsQueue (fn : FnId) (job : BitVec 32) (s : State) : KeepsQueue s (execExportWindowResume fn job s) := by
  unfold execExportWindowResume; dsimp only; (repeat' split) <;> simp
theorem execRecordSetDelivered_keepsQueue (fn : FnId) (job : BitVec 32) (s : State) : KeepsQueue s (execRecordSetDelivered fn job s) := by
  unfold execRecordSetDelivered; dsimp only; (repeat' split) <;> simp
theorem execShardSnapshotComplete_keepsQueue (fn : FnId) (job : BitVec 32) (s : State) : KeepsQueue s (execShardSnapshotComplete fn job s) := by
  unfold execShardSnapshotComplete; dsimp only; (repeat' split) <;> simp

end Sys2Proof.Machine
end

section
/-! O2: isolation, registers and the host link: each keeps the queue. -/

namespace Sys2Proof.Machine

/-! ## Machine/Isolation.lean -/

@[simp] theorem makeReport_pending (i slot : Nat) (s : State) : (makeReport i slot s).pending = s.pending := by simp [makeReport]
@[simp] theorem refreshReports_pending (s : State) : (refreshReports s).pending = s.pending := by simp [refreshReports]
@[simp] theorem onSpdm_pending (fn : Nat) (via : SpdmVia) (act : State → State) (s : State) (hact : ∀ s, (act s).pending = s.pending) : (onSpdm fn via act s).pending = s.pending := by
  unfold onSpdm; (repeat' split) <;> simp_all
theorem execSpdmGetMeasurements_keepsQueue (fn : FnId) (via : SpdmVia) (index : BitVec 8) (sign : Bool) (slot : BitVec 1) (nonce : BitVec 256) (s : State) : KeepsQueue s (execSpdmGetMeasurements fn via index sign slot nonce s) := by
  simp [execSpdmGetMeasurements]
theorem execSpdmGetCertificate_keepsQueue (fn : FnId) (via : SpdmVia) (slot : BitVec 1) (s : State) : KeepsQueue s (execSpdmGetCertificate fn via slot s) := by
  simp only [execSpdmGetCertificate, keepsQueue_next]
  refine onSpdm_pending _ _ _ _ fun s => ?_
  simp
theorem execSpdmChallenge_keepsQueue (fn : FnId) (via : SpdmVia) (slot : BitVec 1) (nonce : BitVec 256) (s : State) : KeepsQueue s (execSpdmChallenge fn via slot nonce s) := by
  simp only [execSpdmChallenge, keepsQueue_next]
  refine onSpdm_pending _ _ _ _ fun s => ?_
  simp
theorem execSpdmKeyExchange_keepsQueue (fn : FnId) (slot : BitVec 1) (heartbeat : BitVec 8) (s : State) : KeepsQueue s (execSpdmKeyExchange fn slot heartbeat s) := by
  simp only [execSpdmKeyExchange, keepsQueue_next]
  refine onSpdm_pending _ _ _ _ fun s => ?_
  (repeat' split) <;> simp
theorem execSpdmKeyUpdate_keepsQueue (fn : FnId) (via : SpdmVia) (confirm : Bool) (s : State) : KeepsQueue s (execSpdmKeyUpdate fn via confirm s) := by
  cases via with
  | clear => simp [execSpdmKeyUpdate]
  | session id old => simp only [execSpdmKeyUpdate, keepsQueue_next]; exact onSpdm_pending _ _ _ _ fun s => rfl
@[simp] theorem vendorRequest_pending (fn : Nat) (via : SpdmVia) (f : Inst → Inst) (s : State) : (vendorRequest fn via f s).pending = s.pending := by
  simp [vendorRequest]
theorem execSetSealSecret_keepsQueue (fn : FnId) (via : SpdmVia) (secret : BitVec 256) (s : State) : KeepsQueue s (execSetSealSecret fn via secret s) := by
  simp [execSetSealSecret]
theorem execSetMigrationKey_keepsQueue (fn : FnId) (via : SpdmVia) (key : BitVec 256) (s : State) : KeepsQueue s (execSetMigrationKey fn via key s) := by
  simp [execSetMigrationKey]
theorem execClearSecrets_keepsQueue (fn : FnId) (via : SpdmVia) (which : BitVec 8) (s : State) : KeepsQueue s (execClearSecrets fn via which s) := by
  simp [execClearSecrets]
@[simp] theorem tdiError_pending (inst : Nat) (s : State) : (tdiError inst s).pending = s.pending := by simp [tdiError]
theorem execTdispRequest_keepsQueue (fn : FnId) (m : Tdisp) (via : SpdmVia) (s : State) : KeepsQueue s (execTdispRequest fn m via s) := by
  simp only [execTdispRequest, keepsQueue_next]
  refine onSpdm_pending _ _ _ _ fun s => ?_
  (repeat' split) <;> simp
theorem execIdeIntegrityFailure_keepsQueue (fn : FnId) (s : State) : KeepsQueue s (execIdeIntegrityFailure fn s) := by simp [execIdeIntegrityFailure]
@[simp] theorem removeInst_pending (inst : Nat) (tag : Option Nat) (keepStall : Bool) (s : State) : (removeInst inst tag keepStall s).pending = s.pending := by
  simp [removeInst]
@[simp] theorem endRemoval_pending (inst : Nat) (byFence : Bool) (s : State) : (endRemoval inst byFence s).pending = s.pending := by
  unfold endRemoval; (repeat' split) <;> simp
theorem execEngineDrainReport_keepsQueue (fn : FnId) (engine : Nat) (s : State) : KeepsQueue s (execEngineDrainReport fn engine s) := by
  unfold execEngineDrainReport; dsimp only; split <;> simp
theorem execRemovalFenceExpiry_keepsQueue (fn : FnId) (s : State) : KeepsQueue s (execRemovalFenceExpiry fn s) := by
  unfold execRemovalFenceExpiry; dsimp only; split <;> simp
theorem execGenerationRaiseResume_keepsQueue (fn : FnId) (s : State) : KeepsQueue s (execGenerationRaiseResume fn s) := by simp [execGenerationRaiseResume]
theorem execTimeAlign_keepsQueue (port : Fin 96) (t1 : BitVec 64) (s : State) : KeepsQueue s (execTimeAlign port t1 s) := by simp [execTimeAlign]
theorem execTimeAlignTimer_keepsQueue (t1 t2 t3 t4 : BitVec 64) (s : State) : KeepsQueue s (execTimeAlignTimer t1 t2 t3 t4 s) := by simp [execTimeAlignTimer]

/-! ## Machine/Registers.lean -/

@[simp] theorem regIgnored_pending (fn off be : Nat) (write : Bool) (s : State) : (regIgnored fn off be write s).pending = s.pending := by simp [regIgnored]
@[simp] theorem clearRead_pending (off be : Nat) (s : State) : (clearRead off be s).pending = s.pending := by simp [clearRead]
@[simp] theorem unsupportedRead_pending (fn off : Nat) (s : State) : (unsupportedRead fn off s).pending = s.pending := by simp [unsupportedRead]
@[simp] theorem shadowRead_pending (fn off : Nat) (s : State) : (shadowRead fn off s).2.pending = s.pending := by unfold shadowRead; (repeat' split) <;> simp
@[simp] theorem read32_pending (fn off be : Nat) (s : State) : (read32 fn off be s).2.pending = s.pending := by simp [read32]
@[simp] theorem wideRead_pending (fn off be : Nat) (s : State) : (wideRead fn off be s).2.pending = s.pending := by
  unfold wideRead; dsimp only; (repeat' split) <;> simp
@[simp] theorem barRead_pending (fn off be : Nat) (tee : Tee) (s : State) : (barRead fn off be tee s).pending = s.pending := by simp [barRead]
theorem execRcRegisterRead_keepsQueue (fn : FnId) (offset : BitVec 16) (be : BitVec 8) (tee : Tee) (s : State) : KeepsQueue s (execRcRegisterRead fn offset be tee s) := by
  simp [execRcRegisterRead]
theorem execRegLowHalfRead_keepsQueue (fn : FnId) (offset : BitVec 16) (tee : Tee) (s : State) : KeepsQueue s (execRegLowHalfRead fn offset tee s) := by
  simp [execRegLowHalfRead]
theorem execRegHighHalfRead_keepsQueue (fn : FnId) (offset : BitVec 16) (tee : Tee) (s : State) : KeepsQueue s (execRegHighHalfRead fn offset tee s) := by
  simp [execRegHighHalfRead]
@[simp] theorem pumpRing_pending (fn : Nat) (s : State) : (pumpRing fn s).pending = s.pending := by simp [pumpRing]
@[simp] theorem writeDoorbell_pending (fn off be v : Nat) (s : State) : (writeDoorbell fn off be v s).pending = s.pending := by simp [writeDoorbell]
@[simp] theorem writeCmdEnable_pending (fn off be v : Nat) (s : State) : (writeCmdEnable fn off be v s).pending = s.pending := by simp [writeCmdEnable]
@[simp] theorem writeCplEnable_pending (fn off be v : Nat) (s : State) : (writeCplEnable fn off be v s).pending = s.pending := by simp [writeCplEnable]
@[simp] theorem writeCplHead_pending (fn off be v : Nat) (s : State) : (writeCplHead fn off be v s).pending = s.pending := by simp [writeCplHead]
@[simp] theorem write64_pending (fn off be v : Nat) (s : State) : (write64 fn off be v s).pending = s.pending := by simp [write64]
@[simp] theorem writeLow_pending (fn off v : Nat) (s : State) : (writeLow fn off v s).pending = s.pending := by simp [writeLow]
@[simp] theorem writeHigh_pending (fn off be v : Nat) (s : State) : (writeHigh fn off be v s).pending = s.pending := by unfold writeHigh; split <;> simp
@[simp] theorem writeSummary_pending (fn v : Nat) (s : State) : (writeSummary fn v s).pending = s.pending := by simp [writeSummary]
@[simp] theorem writeEnable_pending (fn v : Nat) (s : State) : (writeEnable fn v s).pending = s.pending := by simp [writeEnable]
@[simp] theorem writeMsix_pending (fn k v : Nat) (s : State) : (writeMsix fn k v s).pending = s.pending := by simp [writeMsix]
@[simp] theorem writePorter_pending (v : Nat) (s : State) : (writePorter v s).pending = s.pending := by simp [writePorter]
@[simp] theorem write32_pending (fn off be v : Nat) (s : State) : (write32 fn off be v s).pending = s.pending := by simp [write32]; split <;> simp
@[simp] theorem barWrite_pending (fn : Nat) (tee : Tee) (act : State → State) (s : State) (hact : ∀ s, (act s).pending = s.pending) : (barWrite fn tee act s).pending = s.pending := by
  unfold barWrite; (repeat' split) <;> simp_all
theorem execCmdDoorbell_keepsQueue (fn : FnId) (value : BitVec 32) (be : BitVec 4) (tee : Tee) (s : State) : KeepsQueue s (execCmdDoorbell fn value be tee s) := by
  simp [execCmdDoorbell]
theorem execCmdEnableWrite_keepsQueue (fn : FnId) (value : BitVec 32) (be : BitVec 4) (tee : Tee) (s : State) : KeepsQueue s (execCmdEnableWrite fn value be tee s) := by
  simp [execCmdEnableWrite]
theorem execCplEnableWrite_keepsQueue (fn : FnId) (value : BitVec 32) (be : BitVec 4) (tee : Tee) (s : State) : KeepsQueue s (execCplEnableWrite fn value be tee s) := by
  simp [execCplEnableWrite]
theorem execCplHeadWrite_keepsQueue (fn : FnId) (value : BitVec 32) (be : BitVec 4) (tee : Tee) (s : State) : KeepsQueue s (execCplHeadWrite fn value be tee s) := by
  simp [execCplHeadWrite]
theorem execSummaryStatusWrite_keepsQueue (fn : FnId) (value : BitVec 32) (be : BitVec 4) (tee : Tee) (s : State) : KeepsQueue s (execSummaryStatusWrite fn value be tee s) := by
  simp [execSummaryStatusWrite]
theorem execSummaryEnableWrite_keepsQueue (fn : FnId) (value : BitVec 32) (be : BitVec 4) (tee : Tee) (s : State) : KeepsQueue s (execSummaryEnableWrite fn value be tee s) := by
  simp [execSummaryEnableWrite]
theorem execCauseWrite_keepsQueue (fn : FnId) (offset : BitVec 16) (value : BitVec 32) (be : BitVec 4) (tee : Tee) (s : State) : KeepsQueue s (execCauseWrite fn offset value be tee s) := by
  simp [execCauseWrite]
theorem execRegLowHalfWrite_keepsQueue (fn : FnId) (offset : BitVec 16) (value : BitVec 32) (be : BitVec 4) (tee : Tee) (s : State) : KeepsQueue s (execRegLowHalfWrite fn offset value be tee s) := by
  simp [execRegLowHalfWrite]
theorem execRegHighHalfWrite_keepsQueue (fn : FnId) (offset : BitVec 16) (value : BitVec 32) (be : BitVec 4) (tee : Tee) (s : State) : KeepsQueue s (execRegHighHalfWrite fn offset value be tee s) := by
  simp [execRegHighHalfWrite]
@[simp] theorem wideWrite_pending (fn off be v : Nat) (s : State) : (wideWrite fn off be v s).pending = s.pending := by simp [wideWrite]
theorem execRegisterWrite_keepsQueue (fn : FnId) (offset : BitVec 16) (value : BitVec 64) (be : BitVec 8) (tee : Tee) (s : State) : KeepsQueue s (execRegisterWrite fn offset value be tee s) := by
  simp [execRegisterWrite]
theorem execIntrHoldoffExpiry_keepsQueue (fn : FnId) (s : State) : KeepsQueue s (execIntrHoldoffExpiry fn s) := by simp [execIntrHoldoffExpiry]
theorem execMsixUnmask_keepsQueue (fn : FnId) (s : State) : KeepsQueue s (execMsixUnmask fn s) := by simp [execMsixUnmask]

/-! ## Machine/Host.lean -/

@[simp] theorem finishCmd_pending (fn family tag status result : Nat) (s : State) : (finishCmd fn family tag status result s).pending = s.pending := by
  simp [finishCmd]
@[simp] theorem takeEntry_pending (fn : Nat) (e : Entry) (s : State) : (takeEntry fn e s).pending = s.pending := by simp [takeEntry]
theorem execCommandFetchReturn_keepsQueue (fn : FnId) (entries : List Entry) (s : State) : KeepsQueue s (execCommandFetchReturn fn entries s) := by
  simp [execCommandFetchReturn]
@[simp] theorem abortTransfer_pending (fn tag : Nat) (s : State) : (abortTransfer fn tag s).pending = s.pending := by simp [abortTransfer]
@[simp] theorem freeReadTag_pending (tag : Nat) (s : State) : (freeReadTag tag s).pending = s.pending := by simp [freeReadTag]
@[simp] theorem readEnds_pending (tag : Nat) (data : Option Bytes) (finds : List LineFind) (s : State) : (readEnds tag data finds s).pending = s.pending := by
  unfold readEnds; (repeat' split) <;> simp
theorem execHostReadCompletion_keepsQueue (tag : BitVec 14) (status : RcStatus) (data : Bytes) (finds : List LineFind) (s : State) : KeepsQueue s (execHostReadCompletion tag status data finds s) := by
  simp [execHostReadCompletion]
theorem execCompletionTimeout_keepsQueue (tag : BitVec 14) (s : State) : KeepsQueue s (execCompletionTimeout tag s) := by simp [execCompletionTimeout]
@[simp] theorem withdraw_pending (fn : Nat) (s : State) : (withdraw fn s).pending = s.pending := by simp [withdraw]
@[simp] theorem goOn_pending (fn : Nat) (s : State) : (goOn fn s).pending = s.pending := by simp [goOn]
theorem execBusMasterDisable_keepsQueue (fn : FnId) (s : State) : KeepsQueue s (execBusMasterDisable fn s) := by simp [execBusMasterDisable]
theorem execBusMasterEnable_keepsQueue (fn : FnId) (s : State) : KeepsQueue s (execBusMasterEnable fn s) := by simp [execBusMasterEnable]
theorem execD3hotEntry_keepsQueue (fn : FnId) (s : State) : KeepsQueue s (execD3hotEntry fn s) := by simp [execD3hotEntry]
theorem execD0Return_keepsQueue (fn : FnId) (s : State) : KeepsQueue s (execD0Return fn s) := by simp [execD0Return]
@[simp] theorem startFlr_pending (fn : Nat) (s : State) : (startFlr fn s).pending = s.pending := by unfold startFlr; split <;> simp
theorem execFlr_keepsQueue (fn : FnId) (s : State) : KeepsQueue s (execFlr fn s) := by simp [execFlr]
@[simp] theorem removeVf_pending (i : Nat) (s : State) : (removeVf i s).pending = s.pending := by simp [removeVf]
@[simp] theorem clearVfs_pending (error : Bool) (s : State) : (clearVfs error s).pending = s.pending := by simp [clearVfs]
theorem execVfEnableClear_keepsQueue (s : State) : KeepsQueue s (execVfEnableClear s) := by simp [execVfEnableClear]
theorem execVfEnableSet_keepsQueue (numVFs : BitVec 6) (s : State) : KeepsQueue s (execVfEnableSet numVFs s) := by simp [execVfEnableSet]
@[simp] theorem dropPfCommands_pending (s : State) : (dropPfCommands s).pending = s.pending := by
  unfold dropPfCommands
  refine forEach_queue (fun _ s => ?_) (by simp)
  simp
theorem execPfFlr_keepsQueue (s : State) : KeepsQueue s (execPfFlr s) := by simp [execPfFlr]
@[simp] theorem finishFlr_pending (fn : Nat) (s : State) : (finishFlr fn s).pending = s.pending := by simp [finishFlr]
theorem execFlrComplete_keepsQueue (fn : FnId) (s : State) : KeepsQueue s (execFlrComplete fn s) := by simp [execFlrComplete]
theorem execPcieLinkUp_keepsQueue (rate : BitVec 3) (width : BitVec 5) (s : State) : KeepsQueue s (execPcieLinkUp rate width s) := by simp [execPcieLinkUp]
@[simp] theorem linkLost_pending (s : State) : (linkLost s).pending = s.pending := by simp [linkLost]
theorem execPcieLinkDown_keepsQueue (s : State) : KeepsQueue s (execPcieLinkDown s) := by simp [execPcieLinkDown]
theorem execLinkRetrain_keepsQueue (rate : BitVec 3) (width : BitVec 5) (s : State) : KeepsQueue s (execLinkRetrain rate width s) := by simp [execLinkRetrain]

end Sys2Proof.Machine
end

section
/-! O2: the commands of the rings: each keeps the queue. -/

namespace Sys2Proof.Machine

/-! ## Machine/Command.lean -/

@[simp] theorem answerCmd_pending (fn : Nat) (e : Entry) (status result : Nat) (s : State) : (answerCmd fn e status result s).pending = s.pending := by
  simp [answerCmd]
@[simp] theorem refuseCmd_pending (fn : Nat) (e : Entry) (status : Nat) (s : State) : (refuseCmd fn e status s).pending = s.pending := by simp [refuseCmd]
@[simp] theorem notHere_pending (fn : Nat) (e : Entry) (s : State) : (notHere fn e s).pending = s.pending := by simp [notHere]
@[simp] theorem hostAbort_pending (fn : Nat) (e : Entry) (s : State) : (hostAbort fn e s).pending = s.pending := by simp [hostAbort]
@[simp] theorem takeOff_pending (fn : Nat) (e : Entry) (s : State) : (takeOff fn e s).pending = s.pending := by simp [takeOff]
@[simp] theorem runCmd_pending (fn : Nat) (e : Entry) (r : Rules) (act : State → State) (s : State) (hact : ∀ s, (act s).pending = s.pending) : (runCmd fn e r act s).pending = s.pending := by
  unfold runCmd; (repeat' split) <;> simp_all
@[simp] theorem withBuf_pending (fn : Nat) (e : Entry) (n : Nat) (buf : Buf) (act : Bytes → State → State) (s : State) (hact : ∀ a0 s, (act a0 s).pending = s.pending) : (withBuf fn e n buf act s).pending = s.pending := by
  unfold withBuf; (repeat' split) <;> simp_all
@[simp] theorem intoBuf_pending (fn : Nat) (e : Entry) (bs : Bytes) (result : Nat) (s : State) : (intoBuf fn e bs result s).pending = s.pending := by simp [intoBuf]

/-! ## Machine/Instances.lean -/

theorem execSessionReport_keepsQueue (fn : FnId) (e : Entry) (s : State) : KeepsQueue s (execSessionReport fn e s) := by simp [execSessionReport]
theorem execLinkPolicy_keepsQueue (fn : FnId) (e : Entry) (buf : Buf) (s : State) : KeepsQueue s (execLinkPolicy fn e buf s) := by simp [execLinkPolicy]
theorem execConsent_keepsQueue (fn : FnId) (e : Entry) (s : State) : KeepsQueue s (execConsent fn e s) := by simp [execConsent]
@[simp] theorem addSet_pending (ps : PartSet) (s : State) : (addSet ps s).2.pending = s.pending := by unfold addSet; split <;> simp
theorem setFor_pending (s : State) (old : Option Nat) (parts : List Nat) (bytes : Nat) (x : Nat) (t : State) (ht : setFor s old parts bytes = some (x, t)) : t.pending = s.pending := by
  unfold setFor at ht; extract_lets keep at ht; split at ht
  · obtain ⟨_, -, h⟩ := Option.map_eq_some_iff.mp ht; cases h; rfl
  · obtain ⟨_, -, h⟩ := Option.map_eq_some_iff.mp ht; simp [(pair_eq_iff.mp h.symm.symm).2]
theorem planStall_pending (s : State) (i : Nat) (a : Ask) (x : Stall) (t : State) (ht : planStall s i a = some (x, t)) : t.pending = s.pending := by
  unfold planStall at ht; extract_lets old fm sm own syncs flows inUse s0 at ht; split at ht
  · cases ht
  · split at ht
    · extract_lets st0 at ht; split at ht
      · cases ht
      · split at ht
        · cases ht
        · next h1 =>
          split at ht
          · cases ht
          · next h2 =>
            cases ht
            rw [setFor_pending _ _ _ _ _ _ h2, State.updInst_pending, setFor_pending _ _ _ _ _ _ h1]
            simp only [s0, old]; (repeat' split) <;> rfl
    · cases ht
@[simp] theorem createStall_pending (i : Nat) (e : Entry) (s : State) : (createStall i e s).pending = s.pending := by
  unfold createStall; dsimp only; split
  · simp
  · split
    · simp
    · next h => simp [planStall_pending _ _ _ _ _ h]
theorem execInstanceCreate_keepsQueue (fn : FnId) (e : Entry) (s : State) : KeepsQueue s (execInstanceCreate fn e s) := by simp [execInstanceCreate]
theorem moveSet_pending (i old new : Nat) (l : List (Nat × Pte)) (s : State) (t : State) (ht : moveSet i old new l s = some t) : t.pending = s.pending := by
  induction l generalizing s with
  | nil => cases ht; rfl
  | cons p l ih =>
    unfold moveSet at ht; split at ht
    · exact ih _ ht
    · split at ht
      · cases ht
      · exact (ih _ ht).trans (by simp)
@[simp] theorem trimResidents_pending (i : Nat) (st : Stall) (s : State) : (trimResidents i st s).pending = s.pending := by
  unfold trimResidents
  refine forEach_queue (fun _ s => ?_) (by simp)
  (repeat' split) <;> simp
@[simp] theorem swapGroups_pending (relocate : Stall → Image → State → Image) (o : Nat) (st : Stall) (a : Ask) (s : State) : (swapGroups relocate o st a s).pending = s.pending := by
  simp [swapGroups]
@[simp] theorem sharesStall_pending (i : Nat) (e : Entry) (bs : Bytes) (s : State) : (sharesStall i e bs s).pending = s.pending := by
  unfold sharesStall; dsimp only; (repeat' split) <;> simp
theorem execInstanceShares_keepsQueue (fn : FnId) (e : Entry) (buf : Buf) (s : State) : KeepsQueue s (execInstanceShares fn e buf s) := by simp [execInstanceShares]
theorem execInstanceDestroy_keepsQueue (fn : FnId) (e : Entry) (s : State) : KeepsQueue s (execInstanceDestroy fn e s) := by simp [execInstanceDestroy]
theorem execInstanceQuery_keepsQueue (fn : FnId) (e : Entry) (s : State) : KeepsQueue s (execInstanceQuery fn e s) := by simp [execInstanceQuery]
theorem execTelemetryCores_keepsQueue (fn : FnId) (e : Entry) (s : State) : KeepsQueue s (execTelemetryCores fn e s) := by simp [execTelemetryCores]
theorem execTelemetryGroups_keepsQueue (fn : FnId) (e : Entry) (s : State) : KeepsQueue s (execTelemetryGroups fn e s) := by simp [execTelemetryGroups]
theorem execTelemetryClips_keepsQueue (fn : FnId) (e : Entry) (s : State) : KeepsQueue s (execTelemetryClips fn e s) := by simp [execTelemetryClips]
theorem execTelemetryEnergy_keepsQueue (fn : FnId) (e : Entry) (eArray eFull : BitVec 32) (mv tenths : BitVec 16) (s : State) : KeepsQueue s (execTelemetryEnergy fn e eArray eFull mv tenths s) := by
  simp [execTelemetryEnergy]

/-! ## Machine/StepCmds.lean -/

@[simp] theorem setAlmanac_pending (i : Nat) (e : Entry) (bs : Bytes) (s : State) : (setAlmanac i e bs s).pending = s.pending := by
  unfold setAlmanac; (repeat' split) <;> simp
theorem execAlmanacSet_keepsQueue (fn : FnId) (e : Entry) (table : Buf) (s : State) : KeepsQueue s (execAlmanacSet fn e table s) := by simp [execAlmanacSet]
theorem execAlmanacQuery_keepsQueue (fn : FnId) (e : Entry) (s : State) : KeepsQueue s (execAlmanacQuery fn e s) := by simp [execAlmanacQuery]
@[simp] theorem enterStep_pending (i : Nat) (p : Step) (s : State) : (enterStep i p s).pending = s.pending := by simp [enterStep]
@[simp] theorem submitStep_pending (i : Nat) (e : Entry) (p0 : Step) (bs par : Bytes) (s : State) : (submitStep i e p0 bs par s).pending = s.pending := by
  unfold submitStep; dsimp only; (repeat' split) <;> simp
theorem execStepRun_keepsQueue (fn : FnId) (e : Entry) (list param : Buf) (s : State) : KeepsQueue s (execStepRun fn e list param s) := by
  simp only [execStepRun, keepsQueue_next]
  refine runCmd_pending _ _ _ _ _ fun s => ?_
  split <;> simp
theorem execStepCancel_keepsQueue (fn : FnId) (e : Entry) (s : State) : KeepsQueue s (execStepCancel fn e s) := by
  simp only [execStepCancel, keepsQueue_next]
  refine runCmd_pending _ _ _ _ _ fun s => ?_
  split <;> simp
theorem execSyncRead_keepsQueue (fn : FnId) (e : Entry) (s : State) : KeepsQueue s (execSyncRead fn e s) := by simp [execSyncRead]
theorem execSyncSignal_keepsQueue (fn : FnId) (e : Entry) (s : State) : KeepsQueue s (execSyncSignal fn e s) := by simp [execSyncSignal]
theorem execSyncReset_keepsQueue (fn : FnId) (e : Entry) (s : State) : KeepsQueue s (execSyncReset fn e s) := by simp [execSyncReset]
@[simp] theorem startExport_pending (i : Nat) (e : Entry) (handle : Bytes) (s : State) : (startExport i e handle s).pending = s.pending := by
  unfold startExport; dsimp only; (repeat' split) <;> simp
theorem execExportSet_keepsQueue (fn : FnId) (e : Entry) (handle : Buf) (s : State) : KeepsQueue s (execExportSet fn e handle s) := by
  simp only [execExportSet, keepsQueue_next]
  refine runCmd_pending _ _ _ _ _ fun s => ?_
  split <;> simp
theorem execExportAck_keepsQueue (fn : FnId) (e : Entry) (s : State) : KeepsQueue s (execExportAck fn e s) := by simp [execExportAck]
@[simp] theorem startShard_pending (i : Nat) (e : Entry) (handle ids : Bytes) (s : State) : (startShard i e handle ids s).pending = s.pending := by
  unfold startShard; split <;> simp
theorem execExportShard_keepsQueue (fn : FnId) (e : Entry) (handle ids : Buf) (s : State) : KeepsQueue s (execExportShard fn e handle ids s) := by
  simp only [execExportShard, keepsQueue_next]
  refine runCmd_pending _ _ _ _ _ fun s => ?_
  split <;> simp

/-! ## Machine/Images.lean -/

@[simp] theorem makeRoom_pending (i : Nat) (st : Stall) (need n : Nat) (s : State) : (makeRoom i st need n s).pending = s.pending := by
  induction n generalizing s with
  | zero => rfl
  | succ n ih =>
    unfold makeRoom
    dsimp only; split
    · rfl
    · split <;> simp [ih]
theorem mapFree_pending (inst set : Nat) (e0 : Pte) (n la : Nat) (s : State) (t : State) (ht : mapFree inst set e0 n la s = some t) : t.pending = s.pending := by
  induction n generalizing la s with
  | zero => cases ht; rfl
  | succ n ih =>
    unfold mapFree at ht; split at ht
    · exact ih _ _ ht
    · split at ht
      · next h => exact (ih _ _ ht).trans (mapPage_pending _ _ _ _ _ _ h)
      · cases ht
theorem mapRegion_pending (i : Nat) (st : Stall) (r : Region) (s : State) (t : State) (ht : mapRegion i st r s = some t) : t.pending = s.pending :=
  mapFree_pending _ _ _ _ _ _ _ ht
theorem placeImage_pending (i : Nat) (st : Stall) (im : Image) (s : State) (t : State) (ht : placeImage i st im s = some t) : t.pending = s.pending := by
  refine foldBind_pending (fun r s t h => mapRegion_pending _ _ _ _ _ h) ?_ ht
  simp
theorem placedWell_pending (i : Nat) (st : Stall) (im : Image) (s : State) (t : State) (ht : placedWell i st im s = some t) : t.pending = s.pending := by
  unfold placedWell at ht; split at ht
  · next h => split at ht <;> cases ht; exact placeImage_pending _ _ _ _ _ h
  · cases ht
@[simp] theorem declareObjects_pending (i : Nat) (st : Stall) (im : Image) (s : State) : (declareObjects i st im s).pending = s.pending := by simp [declareObjects]
@[simp] theorem endLoad_pending (i tag status result : Nat) (s : State) : (endLoad i tag status result s).pending = s.pending := by simp [endLoad]
@[simp] theorem closeFlows_pending (i : Nat) (s : State) : (closeFlows i s).pending = s.pending := by simp [closeFlows]
@[simp] theorem failLoad_pending (i tag status : Nat) (s : State) : (failLoad i tag status s).pending = s.pending := by simp [failLoad]
@[simp] theorem installImage_pending (i tag : Nat) (st : Stall) (im : Image) (s : State) : (installImage i tag st im s).pending = s.pending := by
  unfold installImage; split
  · simp
  · next h => simp [placedWell_pending _ _ _ _ _ h]
@[simp] theorem loadImage_pending (i tag : Nat) (bs : Bytes) (map : List MapEnt) (s : State) : (loadImage i tag bs map s).pending = s.pending := by
  unfold loadImage; (repeat' split) <;> simp
theorem execImageLoad_keepsQueue (fn : FnId) (e : Entry) (image map : Buf) (s : State) : KeepsQueue s (execImageLoad fn e image map s) := by
  simp only [execImageLoad, keepsQueue_next]
  refine runCmd_pending _ _ _ _ _ fun s => ?_
  split <;> simp
@[simp] theorem resumeLoads_pending (s : State) : (resumeLoads s).pending = s.pending := by
  unfold resumeLoads
  refine forEach_queue (fun _ s => ?_) (by simp)
  (repeat' split) <;> simp
@[simp] theorem reserveRate_pending (port key rate : Nat) (s : State) : (reserveRate port key rate s).pending = s.pending := by simp [reserveRate]
@[simp] theorem openFlow_pending (i : Nat) (st : Stall) (im : Image) (f : FlowDecl) (s : State) (t : State) (ht : openFlow i st im f s = .opened t) : t.pending = s.pending := by
  unfold openFlow at ht; dsimp only at ht; split at ht
  · split at ht <;> cases ht; rfl
  · split at ht
    · cases ht
    · split at ht <;> cases ht
      split <;> simp
@[simp] theorem flowMatches_pending (i flow : Nat) (cls : Bool) (rate : Nat) (refused : Bool) (s : State) : (flowMatches i flow cls rate refused s).pending = s.pending := by
  unfold flowMatches; split
  · split
    · rfl
    · split
      · simp
      · split
        · next h =>
          obtain ⟨_, -, opened⟩ := Option.map_eq_some_iff.mp h
          dsimp only; split <;> simp [openFlow_pending _ _ _ _ _ _ opened]
        · simp
        · rfl
  · rfl
theorem execFlowMatch_keepsQueue (fn : FnId) (flow : BitVec 20) (peerClass : Bool) (peerRate : BitVec 24) (refused : Bool) (s : State) : KeepsQueue s (execFlowMatch fn flow peerClass peerRate refused s) := by
  simp [execFlowMatch]
theorem execFlowMatchTimeout_keepsQueue (fn : FnId) (flow : BitVec 20) (s : State) : KeepsQueue s (execFlowMatchTimeout fn flow s) := by
  unfold execFlowMatchTimeout; dsimp only; split <;> simp
@[simp] theorem dropPage_pending (key : Nat) (s : State) : (dropPage key s).pending = s.pending := by simp [dropPage]
@[simp] theorem dropRegion_pending (i : Nat) (r : Region) (s : State) : (dropRegion i r s).pending = s.pending := by simp [dropRegion]
@[simp] theorem unloadImage_pending (i : Nat) (st : Stall) (im : Image) (s : State) : (unloadImage i st im s).pending = s.pending := by
  unfold unloadImage; dsimp only; (repeat' split) <;> simp
theorem execImageUnload_keepsQueue (fn : FnId) (e : Entry) (s : State) : KeepsQueue s (execImageUnload fn e s) := by
  simp only [execImageUnload, keepsQueue_next]
  refine runCmd_pending _ _ _ _ _ fun s => ?_
  split <;> simp
theorem moveSets_pending (o : Nat) (old st : Stall) (s : State) (t : State) (ht : moveSets o old st s = some t) : t.pending = s.pending := by
  have one : ∀ (a b : Nat) (s t : State), (if a = b then some s else moveSet o a b s.pages s) = some t → t.pending = s.pending := by
    intro a b s t h; split at h
    · cases h; rfl
    · exact moveSet_pending _ _ _ _ _ _ h
  obtain ⟨u, hu, ht⟩ := Option.bind_eq_some_iff.mp ht
  exact (one _ _ _ _ ht).trans (one _ _ _ _ hu)
@[simp] theorem resizeStall_pending (i : Nat) (e : Entry) (old : Stall) (s : State) : (resizeStall i e old s).pending = s.pending := by
  unfold resizeStall; dsimp only; split
  · simp
  · next h =>
    split
    · simp
    · split
      · simp
      · next h2 => simp [moveSets_pending _ _ _ _ _ h2, planStall_pending _ _ _ _ _ h]
theorem execInstanceResize_keepsQueue (fn : FnId) (e : Entry) (s : State) : KeepsQueue s (execInstanceResize fn e s) := by
  simp only [execInstanceResize, keepsQueue_next]
  refine runCmd_pending _ _ _ _ _ fun s => ?_
  split <;> simp

/-! ## Machine/Weights.lean -/

theorem enterBaseSets_pending (xs : List Extent) (s : State) (t : State) (ht : enterBaseSets xs s = some t) : t.pending = s.pending := by
  unfold enterBaseSets at ht; dsimp only at ht
  obtain ⟨u, hu, ht⟩ := Option.bind_eq_some_iff.mp ht
  have h1 : u.pending = s.pending := by
    split at hu
    · cases hu; rfl
    · obtain ⟨_, -, rfl⟩ := Option.map_eq_some_iff.mp hu; simp
  split at ht
  · cases ht; exact h1
  · obtain ⟨_, -, rfl⟩ := Option.map_eq_some_iff.mp ht; simp [h1]
@[simp] theorem dropWeightReads_pending (s : State) : (dropWeightReads s).pending = s.pending := by simp [dropWeightReads]
@[simp] theorem failWeights_pending (status : Nat) (s : State) : (failWeights status s).pending = s.pending := by unfold failWeights; split <;> simp
@[simp] theorem readExtents_pending (xs : List Extent) (hs : Bytes) (s : State) : (readExtents xs hs s).pending = s.pending := by
  unfold readExtents
  refine forEach_queue (fun _ s => ?_) (by simp)
  (repeat' split) <;> simp
@[simp] theorem startWeights_pending (e : Entry) (m hs : Bytes) (s : State) : (startWeights e m hs s).pending = s.pending := by
  unfold startWeights; (repeat' split) <;> simp
  next h => exact enterBaseSets_pending _ _ _ h
theorem execWeightsLoad_keepsQueue (fn : FnId) (e : Entry) (manifest handles : Buf) (s : State) : KeepsQueue s (execWeightsLoad fn e manifest handles s) := by
  simp only [execWeightsLoad, keepsQueue_next]
  refine runCmd_pending _ _ _ _ _ fun s => ?_
  split <;> simp
@[simp] theorem writeClear_pending (e : Pte) (bs : Bytes) (s : State) : (writeClear e bs s).pending = s.pending := by
  unfold writeClear
  refine forEach_queue (fun _ s => ?_) (by simp)
  (repeat' split) <;> simp
@[simp] theorem putBasePage_pending (la : Nat) (e : Pte) (bs : Bytes) (s : State) : (putBasePage la e bs s).pending = s.pending := by simp [putBasePage]
@[simp] theorem putExtent_pending (x : Extent) (places : List (Bool × Nat)) (bs : Bytes) (s : State) : (putExtent x places bs s).pending = s.pending := by
  unfold putExtent; split
  · split
    · refine forEach_queue (fun i s => ?_) rfl
      split <;> simp
    · rfl
  · refine forEach_queue (fun i s => ?_) rfl
    split <;> simp
@[simp] theorem endWeights_pending (tag : Nat) (m : Bytes) (s : State) : (endWeights tag m s).pending = s.pending := by
  unfold endWeights; dsimp only; split
  · simp
  · refine (finishCmd_pending ..).trans (forEach_queue (fun i s => ?_) rfl)
    split <;> simp
@[simp] theorem readItem_pending (n : Nat) (s : State) : (readItem n s).pending = s.pending := by unfold readItem; split <;> simp
@[simp] theorem rereadItem_pending (r : Rdma) (n : Nat) (s : State) : (rereadItem r n s).pending = s.pending := by simp [rereadItem]
@[simp] theorem endRepair_pending (s : State) : (endRepair s).pending = s.pending := by unfold endRepair; split <;> simp
@[simp] theorem startRepair_pending (e : Entry) (m hs : Bytes) (s : State) : (startRepair e m hs s).pending = s.pending := by simp [startRepair]
theorem execWeightsRepair_keepsQueue (fn : FnId) (e : Entry) (manifest handles : Buf) (s : State) : KeepsQueue s (execWeightsRepair fn e manifest handles s) := by
  simp only [execWeightsRepair, keepsQueue_next]
  refine runCmd_pending _ _ _ _ _ fun s => ?_
  simp
@[simp] theorem putItem_pending (n : Nat) (bs : Bytes) (s : State) : (putItem n bs s).pending = s.pending := by
  unfold putItem; dsimp only; split
  · simp
  · refine forEach_queue (fun i s => ?_) rfl
    split <;> simp
@[simp] theorem weightsArrive_pending (r : Rdma) (n : Nat) (bs : Bytes) (ok : Bool) (s : State) : (weightsArrive r n bs ok s).pending = s.pending := by
  unfold weightsArrive; (repeat' split) <;> simp
@[simp] theorem dropBase_pending (s : State) : (dropBase s).pending = s.pending := by simp [dropBase]
theorem execWeightsDrop_keepsQueue (fn : FnId) (e : Entry) (s : State) : KeepsQueue s (execWeightsDrop fn e s) := by simp [execWeightsDrop]

/-! ## Machine/Adapters.lean -/

@[simp] theorem enterAdapter_pending (i : Nat) (e : Entry) (handle : Bytes) (s : State) : (enterAdapter i e handle s).pending = s.pending := by simp [enterAdapter]
theorem execAdapterRegister_keepsQueue (fn : FnId) (e : Entry) (handle : Buf) (s : State) : KeepsQueue s (execAdapterRegister fn e handle s) := by
  simp [execAdapterRegister]
theorem execAdapterWrite_keepsQueue (fn : FnId) (e : Entry) (buf : Buf) (s : State) : KeepsQueue s (execAdapterWrite fn e buf s) := by simp [execAdapterWrite]
@[simp] theorem askStore_pending (i id : Nat) (s : State) : (askStore i id s).pending = s.pending := by unfold askStore; split <;> simp
@[simp] theorem putBack_pending (fn : Nat) (e : Entry) (s : State) : (putBack fn e s).pending = s.pending := by simp [putBack]
theorem execAdapterRead_keepsQueue (fn : FnId) (e : Entry) (s : State) : KeepsQueue s (execAdapterRead fn e s) := by
  simp only [execAdapterRead, keepsQueue_next]
  refine runCmd_pending _ _ _ _ _ fun s => ?_
  split <;> simp
theorem execAdapterFetch_keepsQueue (fn : FnId) (e : Entry) (s : State) : KeepsQueue s (execAdapterFetch fn e s) := by
  simp only [execAdapterFetch, keepsQueue_next]
  refine runCmd_pending _ _ _ _ _ fun s => ?_
  split <;> simp
theorem execUnregister_keepsQueue (fn : FnId) (e : Entry) (s : State) : KeepsQueue s (execUnregister fn e s) := by simp [execUnregister]
@[simp] theorem openState_pending (i : Nat) (ts : List Tensor) (t : Tensor) (s : State) : (openState i ts t s).pending = s.pending := by simp [openState]
theorem mapStates_pending (i : Nat) (st : Stall) (ts : List Tensor) (s : State) (t : State) (ht : mapStates i st ts s = some t) : t.pending = s.pending :=
  foldBind_pending (fun _ _ _ h => mapFree_pending _ _ _ _ _ _ _ h) (fun _ h => by cases h; rfl) ht
@[simp] theorem openJob_pending (i : Nat) (e : Entry) (st : Stall) (j : Job) (s : State) : (openJob i e st j s).pending = s.pending := by
  unfold openJob; dsimp only
  iterate 3 (split; · simp)
  split
  · simp
  · next h => simp [mapStates_pending _ _ _ _ _ h]
@[simp] theorem readTable_pending (i : Nat) (e : Entry) (rec_ tab : Bytes) (s : State) : (readTable i e rec_ tab s).pending = s.pending := by
  unfold readTable; split <;> simp
theorem execJobOpen_keepsQueue (fn : FnId) (e : Entry) (record tensors : Buf) (s : State) : KeepsQueue s (execJobOpen fn e record tensors s) := by
  simp only [execJobOpen, keepsQueue_next]
  refine runCmd_pending _ _ _ _ _ fun s => ?_
  simp
@[simp] theorem closeTensor_pending (i : Nat) (j : Job) (t : Tensor) (s : State) : (closeTensor i j t s).pending = s.pending := by unfold closeTensor; split <;> simp
@[simp] theorem settleAdapter_pending (i id : Nat) (s : State) : (settleAdapter i id s).pending = s.pending := by unfold settleAdapter; split <;> simp
@[simp] theorem closeJob_pending (i : Nat) (j : Job) (s : State) : (closeJob i j s).pending = s.pending := by simp [closeJob]
theorem execJobClose_keepsQueue (fn : FnId) (e : Entry) (s : State) : KeepsQueue s (execJobClose fn e s) := by
  simp only [execJobClose, keepsQueue_next]
  refine runCmd_pending _ _ _ _ _ fun s => ?_
  split <;> simp
theorem execJobQuery_keepsQueue (fn : FnId) (e : Entry) (s : State) : KeepsQueue s (execJobQuery fn e s) := by
  simp only [execJobQuery, keepsQueue_next]
  refine runCmd_pending _ _ _ _ _ fun s => ?_
  split <;> simp
@[simp] theorem acceptReshard_pending (i : Nat) (e : Entry) (map : List MapEnt) (handle : Bytes) (hostSet : Option Bytes) (s : State) : (acceptReshard i e map handle hostSet s).pending = s.pending := by
  simp [acceptReshard]
@[simp] theorem acceptSets_pending (i : Nat) (e : Entry) (j : Job) (map : List MapEnt) (sets : Buf) (hostSet : Buf) (s : State) : (acceptSets i e j map sets hostSet s).pending = s.pending := by
  unfold acceptSets; (repeat' split) <;> simp
theorem execReshard_keepsQueue (fn : FnId) (e : Entry) (map sets hostSet : Buf) (s : State) : KeepsQueue s (execReshard fn e map sets hostSet s) := by
  simp only [execReshard, keepsQueue_next]
  refine runCmd_pending _ _ _ _ _ fun s => withBuf_pending _ _ _ _ _ _ fun bs s => ?_
  (repeat' split) <;> simp

/-! ## Machine/Migrate.lean -/

@[simp] theorem settleFreeze_pending (i : Nat) (s : State) : (settleFreeze i s).pending = s.pending := by unfold settleFreeze; split <;> simp
@[simp] theorem settleFreezes_pending (s : State) : (settleFreezes s).pending = s.pending := by simp [settleFreezes]
theorem execFreeze_keepsQueue (fn : FnId) (e : Entry) (s : State) : KeepsQueue s (execFreeze fn e s) := by simp [execFreeze]
theorem execThaw_keepsQueue (fn : FnId) (e : Entry) (s : State) : KeepsQueue s (execThaw fn e s) := by simp [execThaw]
@[simp] theorem makePackage_pending (i : Nat) (st : Stall) (key : BitVec 256) (s : State) : (makePackage i st key s).2.pending = s.pending := by simp [makePackage]
@[simp] theorem savePackage_pending (e : Entry) (st : Stall) (key : BitVec 256) (handle : Option Bytes) (s : State) : (savePackage e st key handle s).pending = s.pending := by
  unfold savePackage; dsimp only; split <;> simp
theorem execSave_keepsQueue (fn : FnId) (e : Entry) (handle : Buf) (s : State) : KeepsQueue s (execSave fn e handle s) := by
  simp only [execSave, keepsQueue_next]
  refine runCmd_pending _ _ _ _ _ fun s => ?_
  split <;> simp
@[simp] theorem putPage_pending (i la : Nat) (units : List (Bytes × Bool)) (s : State) : (putPage i la units s).pending = s.pending := by
  unfold putPage; dsimp only
  refine forEach_queue (fun _ s => ?_) (by simp)
  (repeat' split) <;> simp
theorem pagesIn_pending {s : State} (i : Nat) (st : Stall) (k : Nat) (bs : Bytes) (x : Option State) (hx : ∀ t, x = some t → t.pending = s.pending) (t : State) (ht : pagesIn i st k bs x = some t) : t.pending = s.pending := by
  induction k generalizing bs x with
  | zero => exact hx t ht
  | succ k ih =>
    unfold pagesIn at ht; split at ht
    · exact hx t ht
    · refine ih _ _ (fun u hu => ?_) ht
      obtain ⟨v, hv, rfl⟩ := Option.map_eq_some_iff.mp hu
      obtain ⟨w, hw, hv⟩ := Option.bind_eq_some_iff.mp hv
      rw [putPage_pending, mapFree_pending _ _ _ _ _ _ _ hv, hx w hw]
@[simp] theorem objectsIn_pending (i : Nat) (st : Stall) (bs : Bytes) (s : State) : (objectsIn i st bs s).pending = s.pending := by simp [objectsIn]
@[simp] theorem spillIn_pending (i : Nat) (im : Image) (k : Nat) (bs : Bytes) (s : State) : (spillIn i im k bs s).pending = s.pending := by
  induction k generalizing bs s with
  | zero => rfl
  | succ k ih =>
    unfold spillIn
    (repeat' split) <;> simp [ih]
theorem writePackage_pending (i : Nat) (st : Stall) (body : Bytes) (s : State) (t : State) (ht : writePackage i st body s = some t) : t.pending = s.pending := by
  unfold writePackage at ht; dsimp only at ht
  obtain ⟨u, hu, rfl⟩ := Option.map_eq_some_iff.mp ht
  have hw : u.pending = s.pending := by
    refine pagesIn_pending _ _ _ _ _ (pagesIn_pending _ _ _ _ _ fun t h => ?_) u hu
    split at h
    · exact (placeImage_pending _ _ _ _ _ h).trans (State.draw_pending s)
    · cases h; exact State.draw_pending s
  (repeat' split) <;> simp [hw]
@[simp] theorem restorePackage_pending (i tag : Nat) (bs : Bytes) (s : State) : (restorePackage i tag bs s).pending = s.pending := by
  unfold restorePackage; split
  · dsimp only; (repeat' split) <;> simp
    next h => exact (writePackage_pending _ _ _ _ _ h).trans (by simp)
  · simp
  · simp
theorem execRestore_keepsQueue (fn : FnId) (e : Entry) (package : Buf) (s : State) : KeepsQueue s (execRestore fn e package s) := by simp [execRestore]

end Sys2Proof.Machine
end

section
/-! O2: storage, maintenance commands, recovery, the Porter, time and power: each keeps the queue. -/

namespace Sys2Proof.Machine

/-! ## Machine/Storage.lean -/

@[simp] theorem dropReq_pending (r : Rdma) (s : State) : (dropReq r s).pending = s.pending := by simp [dropReq]
@[simp] theorem failUse_pending (r : Rdma) (status : Nat) (s : State) : (failUse r status s).pending = s.pending := by unfold failUse; (repeat' split) <;> simp
@[simp] theorem timeOut_pending (r : Rdma) (s : State) : (timeOut r s).pending = s.pending := by simp [timeOut]
@[simp] theorem adapterArrives_pending (r : Rdma) (id : Nat) (bs : Bytes) (ok : Bool) (s : State) : (adapterArrives r id bs ok s).pending = s.pending := by
  unfold adapterArrives; (repeat' split) <;> simp
@[simp] theorem setArrives_pending (r : Rdma) (job : Nat) (bs : Bytes) (ok : Bool) (s : State) : (setArrives r job bs ok s).pending = s.pending := by
  unfold setArrives; dsimp only; (repeat' split) <;> simp
@[simp] theorem readArrives_pending (r : Rdma) (bs : Bytes) (ok : Bool) (s : State) : (readArrives r bs ok s).pending = s.pending := by
  unfold readArrives; split <;> simp
theorem execRdmaReadResponse_keepsQueue (port : Fin 96) (req : Nat) (data : Bytes) (checkOk ce : Bool) (s : State) : KeepsQueue s (execRdmaReadResponse port req data checkOk ce s) := by
  unfold execRdmaReadResponse; (repeat' split) <;> simp
@[simp] theorem writeVisible_pending (r : Rdma) (s : State) : (writeVisible r s).pending = s.pending := by unfold writeVisible; split <;> simp
theorem execRdmaAck_keepsQueue (port : Fin 96) (req : Nat) (s : State) : KeepsQueue s (execRdmaAck port req s) := by unfold execRdmaAck; (repeat' split) <;> simp
theorem execRdmaNak_keepsQueue (port : Fin 96) (qpn : BitVec 24) (psn : BitVec 24) (s : State) : KeepsQueue s (execRdmaNak port qpn psn s) := by simp [execRdmaNak]
theorem execCnp_keepsQueue (port : Fin 96) (qpn : BitVec 24) (s : State) : KeepsQueue s (execCnp port qpn s) := by simp [execCnp]
theorem execIncomingRequestDrop_keepsQueue (port : Fin 96) (s : State) : KeepsQueue s (execIncomingRequestDrop port s) := by simp [execIncomingRequestDrop]
theorem execRdmaAckTimeout_keepsQueue (port : Fin 96) (req : Nat) (s : State) : KeepsQueue s (execRdmaAckTimeout port req s) := by
  unfold execRdmaAckTimeout; split <;> simp
theorem execStorageNoProgress_keepsQueue (port : Fin 96) (req : Nat) (s : State) : KeepsQueue s (execStorageNoProgress port req s) := by
  unfold execStorageNoProgress; split <;> simp
theorem execPfcFrame_keepsQueue (port : Fin 96) (pause : Bool) (s : State) : KeepsQueue s (execPfcFrame port pause s) := by simp [execPfcFrame]

/-! ## Machine/MaintCmds.lean -/

@[simp] theorem setMode_pending (port : Nat) (m : PortMode) (s : State) : (setMode port m s).pending = s.pending := by simp [setMode]
theorem execPortMode_keepsQueue (fn : FnId) (e : Entry) (s : State) : KeepsQueue s (execPortMode fn e s) := by simp [execPortMode]
theorem execPortRetry_keepsQueue (fn : FnId) (e : Entry) (s : State) : KeepsQueue s (execPortRetry fn e s) := by simp [execPortRetry]
theorem execDeviceId_keepsQueue (fn : FnId) (e : Entry) (s : State) : KeepsQueue s (execDeviceId fn e s) := by simp [execDeviceId]
theorem execQpOpen_keepsQueue (fn : FnId) (e : Entry) (s : State) : KeepsQueue s (execQpOpen fn e s) := by simp [execQpOpen]
theorem execQpClose_keepsQueue (fn : FnId) (e : Entry) (s : State) : KeepsQueue s (execQpClose fn e s) := by simp [execQpClose]
@[simp] theorem resetDma_pending (k : Nat) (s : State) : (resetDma k s).pending = s.pending := by simp [resetDma]
@[simp] theorem resetLink_pending (k : Nat) (s : State) : (resetLink k s).pending = s.pending := by
  unfold resetLink; dsimp only
  refine forEach_queue (fun _ s => ?_) (by simp)
  (repeat' split) <;> simp
theorem execEngineReset_keepsQueue (fn : FnId) (e : Entry) (s : State) : KeepsQueue s (execEngineReset fn e s) := by simp [execEngineReset]
@[simp] theorem runActivity_pending (e : Entry) (kind : ActKind) (res : List Res) (arg : Nat) (endBy : Option Nat) (s : State) : (runActivity e kind res arg endBy s).pending = s.pending := by
  unfold runActivity; dsimp only; split <;> simp
theorem execGroupTest_keepsQueue (fn : FnId) (e : Entry) (s : State) : KeepsQueue s (execGroupTest fn e s) := by simp [execGroupTest]
theorem execRecal_keepsQueue (fn : FnId) (e : Entry) (s : State) : KeepsQueue s (execRecal fn e s) := by simp [execRecal]
theorem execHold_keepsQueue (fn : FnId) (e : Entry) (s : State) : KeepsQueue s (execHold fn e s) := by simp [execHold]
theorem execFwUpdate_keepsQueue (fn : FnId) (e : Entry) (buf : Buf) (patch : Patch) (s : State) : KeepsQueue s (execFwUpdate fn e buf patch s) := by
  simp [execFwUpdate]

/-! ## Machine/Recovery.lean -/

@[simp] theorem endCommands_pending (status : Nat) (started : Bool) (i : Nat) (s : State) : (endCommands status started i s).pending = s.pending := by
  unfold endCommands; dsimp only
  refine forEach_queue (by simp) ?_
  rw [State.updFn_pending]; split
  · refine forEach_queue (fun a s => ?_) (by simp)
    split <;> simp
  · simp
@[simp] theorem abortAll_pending (s : State) : (abortAll s).pending = s.pending := by unfold abortAll; split <;> simp
@[simp] theorem forgetCommands_pending (i : Nat) (s : State) : (forgetCommands i s).pending = s.pending := by
  unfold forgetCommands; dsimp only; split
  · refine forEach_queue (fun _ _ => rfl) ?_
    simp
  · simp
@[simp] theorem zeroPart_pending (q : Nat) (s : State) : (zeroPart q s).pending = s.pending := by simp [zeroPart]
@[simp] theorem endLoop_pending (s : State) : (endLoop s).pending = s.pending := by unfold endLoop; (repeat' split) <;> simp
@[simp] theorem wipeAll_pending (s : State) : (wipeAll s).pending = s.pending := by simp [wipeAll]
@[simp] theorem stopDevice_pending (detail : Option Nat) (abort : Bool) (s : State) : (stopDevice detail abort s).pending = s.pending := by
  unfold stopDevice; split <;> simp
@[simp] theorem deviceReset_pending (s : State) : (deviceReset s).pending = s.pending := by simp [deviceReset]
@[simp] theorem deviceFatal_pending (g b detail : Nat) (s : State) : (deviceFatal g b detail s).pending = s.pending := by simp [deviceFatal]
@[simp] theorem releaseReset_pending (s : State) : (releaseReset s).pending = s.pending := by simp [releaseReset]
@[simp] theorem powerOff_pending (s : State) : (powerOff s).pending = s.pending := by simp [powerOff]

/-! ## Machine/PorterOps.lean -/

@[simp] theorem mgmtAnswer_pending (status : Nat) (bytes : Bytes) (s : State) : (mgmtAnswer status bytes s).pending = s.pending := by simp [mgmtAnswer]
@[simp] theorem endPorter_pending (via : PorterVia) (op : Nat) (elapsed : BitVec 16) (result : Bytes) (s : State) : (endPorter via op elapsed result s).pending = s.pending := by
  unfold endPorter; split <;> simp
@[simp] theorem porterOp_pending (via : PorterVia) (op : Nat) (inst : Option Nat) (elapsed : BitVec 16) (act : State → State) (result : State → Bytes) (s : State) (hact : ∀ s, (act s).pending = s.pending) : (porterOp via op inst elapsed act result s).pending = s.pending := by
  unfold porterOp; (repeat' split) <;> simp_all
@[simp] theorem endStallReset_pending (i : Nat) (s : State) : (endStallReset i s).pending = s.pending := by unfold endStallReset; split <;> simp
@[simp] theorem resetRings_pending (i : Nat) (s : State) : (resetRings i s).pending = s.pending := by simp [resetRings]
@[simp] theorem endFreezing_pending (i : Nat) (s : State) : (endFreezing i s).pending = s.pending := by unfold endFreezing; split <;> simp
@[simp] theorem functionResetOf_pending (i : Nat) (s : State) : (functionResetOf i s).pending = s.pending := by simp [functionResetOf]
theorem execFunctionReset_keepsQueue (via : PorterVia) (inst : FnId) (elapsed : BitVec 16) (s : State) : KeepsQueue s (execFunctionReset via inst elapsed s) := by
  simp [execFunctionReset]
@[simp] theorem stallResetOf_pending (i : Nat) (s : State) : (stallResetOf i s).pending = s.pending := by simp [stallResetOf]
theorem execStallReset_keepsQueue (via : PorterVia) (inst : FnId) (elapsed : BitVec 16) (s : State) : KeepsQueue s (execStallReset via inst elapsed s) := by
  simp [execStallReset]
@[simp] theorem deviceResetOf_pending (s : State) : (deviceResetOf s).pending = s.pending := by simp [deviceResetOf]
theorem execDeviceReset_keepsQueue (via : PorterVia) (elapsed : BitVec 16) (s : State) : KeepsQueue s (execDeviceReset via elapsed s) := by simp [execDeviceReset]
@[simp] theorem reattest_pending (port : Nat) (s : State) : (reattest port s).pending = s.pending := by simp [reattest]
@[simp] theorem zeroiseAll_pending (s : State) : (zeroiseAll s).pending = s.pending := by simp [zeroiseAll]
theorem execZeroise_keepsQueue (via : PorterVia) (elapsed : BitVec 16) (s : State) : KeepsQueue s (execZeroise via elapsed s) := by simp [execZeroise]
theorem execPorterThermal_keepsQueue (via : PorterVia) (elapsed : BitVec 16) (s : State) : KeepsQueue s (execPorterThermal via elapsed s) := by
  simp [execPorterThermal]
theorem execPorterReport_keepsQueue (via : PorterVia) (inst : FnId) (elapsed : BitVec 16) (s : State) : KeepsQueue s (execPorterReport via inst elapsed s) := by
  simp [execPorterReport]
@[simp] theorem onBus_pending (act : State → State) (s : State) (hact : ∀ s, (act s).pending = s.pending) : (onBus act s).pending = s.pending := by
  unfold onBus; (repeat' split) <;> simp_all
theorem execTreeRead_keepsQueue (offset : BitVec 16) (s : State) : KeepsQueue s (execTreeRead offset s) := by simp [execTreeRead]
theorem execTestEnter_keepsQueue (s : State) : KeepsQueue s (execTestEnter s) := by simp [execTestEnter]
theorem execTestExit_keepsQueue (s : State) : KeepsQueue s (execTestExit s) := by
  simp only [execTestExit, keepsQueue_next]
  refine onBus_pending _ _ fun s => ?_
  (repeat' split) <;> simp
theorem execLoopback_keepsQueue (target : LoopTarget) (depth : BitVec 3) (pattern : BitVec 4) (ms : BitVec 16) (s : State) : KeepsQueue s (execLoopback target depth pattern ms s) := by
  unfold execLoopback; (repeat' split) <;> simp
@[simp] theorem retireBad_pending (part frame : Nat) (s : State) : (retireBad part frame s).pending = s.pending := by simp [retireBad]
theorem execLoopbackEnd_keepsQueue (records : Bytes) (badFrames : List Nat) (s : State) : KeepsQueue s (execLoopbackEnd records badFrames s) := by
  unfold execLoopbackEnd; (repeat' split) <;> simp
theorem execPcieLoopbackEntry_keepsQueue (enter : Bool) (s : State) : KeepsQueue s (execPcieLoopbackEntry enter s) := by simp [execPcieLoopbackEntry]
theorem execMctpSetEndpointId_keepsQueue (eid : BitVec 8) (s : State) : KeepsQueue s (execMctpSetEndpointId eid s) := by simp [execMctpSetEndpointId]
theorem execDynamicAddressAssignment_keepsQueue (addr : BitVec 7) (s : State) : KeepsQueue s (execDynamicAddressAssignment addr s) := by
  simp [execDynamicAddressAssignment]
theorem execPldmGetSensor_keepsQueue (sensor : Sensor) (measured : BitVec 32) (s : State) : KeepsQueue s (execPldmGetSensor sensor measured s) := by
  simp only [execPldmGetSensor, keepsQueue_next]
  refine onBus_pending _ _ fun s => ?_
  simp
theorem execPldmSetEventReceiver_keepsQueue (eid : BitVec 8) (s : State) : KeepsQueue s (execPldmSetEventReceiver eid s) := by
  simp only [execPldmSetEventReceiver, keepsQueue_next]
  refine onBus_pending _ _ fun s => ?_
  simp
@[simp] theorem senseStates_pending (s : State) : (senseStates s).pending = s.pending := by simp [senseStates]
@[simp] theorem tapScan_pending (ir : Nat) (s : State) : (tapScan ir s).pending = s.pending := by simp [tapScan]
theorem execTapBypass_keepsQueue (s : State) : KeepsQueue s (execTapBypass s) := by simp [execTapBypass]
theorem execTapIdcode_keepsQueue (s : State) : KeepsQueue s (execTapIdcode s) := by simp [execTapIdcode]
theorem execTapSamplePreload_keepsQueue (preload : Bytes) (s : State) : KeepsQueue s (execTapSamplePreload preload s) := by simp [execTapSamplePreload]
theorem execTapExtest_keepsQueue (s : State) : KeepsQueue s (execTapExtest s) := by simp [execTapExtest]
theorem execTapExtestPulse_keepsQueue (s : State) : KeepsQueue s (execTapExtestPulse s) := by simp [execTapExtestPulse]
theorem execTapExtestTrain_keepsQueue (s : State) : KeepsQueue s (execTapExtestTrain s) := by simp [execTapExtestTrain]
theorem execTapReset_keepsQueue (s : State) : KeepsQueue s (execTapReset s) := by simp [execTapReset]

/-! ## Machine/Time.lean -/

@[simp] theorem settleAll_pending (s : State) : (settleAll s).pending = s.pending := by simp [settleAll]
@[simp] theorem idle_pending (s : State) : (idle s).pending = s.pending := by simp [idle]

/-! ## Machine/Power.lean -/

theorem execPwrokRise_keepsQueue (otp flash : Option Patch) (straps : BitVec 3) (s : State) : KeepsQueue s (execPwrokRise otp flash straps s) := by
  simp [execPwrokRise]
@[simp] theorem drainStores_pending (core : Nat) (s : State) : (drainStores core s).pending = s.pending := by simp [drainStores]
theorem execPwrokFall_keepsQueue (railsInBand : Bool) (s : State) : KeepsQueue s (execPwrokFall railsInBand s) := by simp [execPwrokFall]
theorem execPerstNFall_keepsQueue (s : State) : KeepsQueue s (execPerstNFall s) := by unfold execPerstNFall; (repeat' split) <;> simp
theorem execPerstNRise_keepsQueue (s : State) : KeepsQueue s (execPerstNRise s) := by unfold execPerstNRise; (repeat' split) <;> simp
theorem execDeviceResetRelease_keepsQueue (s : State) : KeepsQueue s (execDeviceResetRelease s) := by simp [execDeviceResetRelease]
theorem execMemoryTrainingComplete_keepsQueue (failedParts : BitVec 28) (s : State) : KeepsQueue s (execMemoryTrainingComplete failedParts s) := by
  simp [execMemoryTrainingComplete]
theorem execBaseDigestRecheck_keepsQueue (computed : BitVec 384) (s : State) : KeepsQueue s (execBaseDigestRecheck computed s) := by
  unfold execBaseDigestRecheck; dsimp only; (repeat' split) <;> simp
@[simp] theorem calmGroup_pending (g : Nat) (s : State) : (calmGroup g s).pending = s.pending := by simp [calmGroup]
theorem execForceSafeNFall_keepsQueue (s : State) : KeepsQueue s (execForceSafeNFall s) := by simp [execForceSafeNFall]
theorem execForceSafeNRise_keepsQueue (s : State) : KeepsQueue s (execForceSafeNRise s) := by simp [execForceSafeNRise]
theorem execInputGlitch_keepsQueue (pin : InPin) (s : State) : KeepsQueue s (execInputGlitch pin s) := by simp [execInputGlitch]
theorem execTimerefLoss_keepsQueue (s : State) : KeepsQueue s (execTimerefLoss s) := by simp [execTimerefLoss]
theorem execTimerefReturn_keepsQueue (s : State) : KeepsQueue s (execTimerefReturn s) := by simp [execTimerefReturn]
theorem execLinkRefclkLoss_keepsQueue (s : State) : KeepsQueue s (execLinkRefclkLoss s) := by simp [execLinkRefclkLoss]
theorem execLinkRefclkReturn_keepsQueue (s : State) : KeepsQueue s (execLinkRefclkReturn s) := by simp [execLinkRefclkReturn]
theorem execPcieRefclkLoss_keepsQueue (s : State) : KeepsQueue s (execPcieRefclkLoss s) := by simp [execPcieRefclkLoss]
theorem execPcieRefclkReturn_keepsQueue (s : State) : KeepsQueue s (execPcieRefclkReturn s) := by simp [execPcieRefclkReturn]
theorem execSupplyExcursion_keepsQueue (rail : Fin 10) (s : State) : KeepsQueue s (execSupplyExcursion rail s) := by simp [execSupplyExcursion]
theorem execSupplyFailed_keepsQueue (rail : Fin 10) (s : State) : KeepsQueue s (execSupplyFailed rail s) := by simp [execSupplyFailed]
theorem execThermalTrip_keepsQueue (isStack : Bool) (index : BitVec 6) (s : State) : KeepsQueue s (execThermalTrip isStack index s) := by
  simp only [execThermalTrip, keepsQueue_next]; split
  · rfl
  · rw [State.updSys_pending]
    exact forEach_queue (fun _ _ => rfl) (by simp)
theorem execKeyEngineError_keepsQueue (s : State) : KeepsQueue s (execKeyEngineError s) := by simp [execKeyEngineError]
theorem execPorterFault_keepsQueue (half : Half) (s : State) : KeepsQueue s (execPorterFault half s) := by simp [execPorterFault]
theorem execStallStateError_keepsQueue (fn : FnId) (s : State) : KeepsQueue s (execStallStateError fn s) := by unfold execStallStateError; dsimp only; split <;> simp
theorem execStallResetComplete_keepsQueue (fn : FnId) (s : State) : KeepsQueue s (execStallResetComplete fn s) := by simp [execStallResetComplete]
theorem execStallResetOverrun_keepsQueue (fn : FnId) (silent : BitVec 64) (s : State) : KeepsQueue s (execStallResetOverrun fn silent s) := by
  unfold execStallResetOverrun; dsimp only; split <;> simp
theorem execFunctionResetOverrun_keepsQueue (fn : FnId) (s : State) : KeepsQueue s (execFunctionResetOverrun fn s) := by simp [execFunctionResetOverrun]
@[simp] theorem setClerk_pending (h : Half) (up : Bool) (s : State) : (setClerk h up s).pending = s.pending := by unfold setClerk; split <;> simp
@[simp] theorem failUpdate_pending (s : State) : (failUpdate s).pending = s.pending := by unfold failUpdate; (repeat' split) <;> simp
@[simp] theorem loseClerkWork_pending (s : State) : (loseClerkWork s).pending = s.pending := by
  unfold loseClerkWork
  refine forEach_queue (fun i s => ?_) rfl
  dsimp only; rw [forgetCommands_pending, endCommands_pending]
  refine forEach_queue (fun p s => ?_) rfl
  split <;> simp
@[simp] theorem takeover_pending (half : Half) (s : State) : (takeover half s).pending = s.pending := by unfold takeover; split <;> simp
theorem execClerkWatchdogMiss_keepsQueue (half : Half) (otherAnswers : Bool) (s : State) : KeepsQueue s (execClerkWatchdogMiss half otherAnswers s) := by
  simp [execClerkWatchdogMiss]
theorem execClerkRestartComplete_keepsQueue (ok : Bool) (s : State) : KeepsQueue s (execClerkRestartComplete ok s) := by
  unfold execClerkRestartComplete; (repeat' split) <;> simp
theorem execOffer_keepsQueue (s : State) : KeepsQueue s (execOffer s) := by simp [execOffer]
theorem execReady_keepsQueue (s : State) : KeepsQueue s (execReady s) := by unfold execReady; split <;> simp
theorem execGrant_keepsQueue (s : State) : KeepsQueue s (execGrant s) := by unfold execGrant; split <;> simp
@[simp] theorem halveStall_pending (stop : Half) (i : Nat) (s : State) : (halveStall stop i s).pending = s.pending := by unfold halveStall; split <;> simp
@[simp] theorem enterHalf_pending (keep : Half) (s : State) : (enterHalf keep s).pending = s.pending := by simp [enterHalf]
theorem execBridgeFailure_keepsQueue (s : State) : KeepsQueue s (execBridgeFailure s) := by simp [execBridgeFailure]

end Sys2Proof.Machine
end

section
/-! O2: every row keeps the queue and the memories, and so does a nanosecond of device time. -/

namespace Sys2Proof.Machine

/-- A row that goes on takes nothing from the queue and puts nothing into it, and keeps every memory canonical. -/
theorem exec_keeps (c : Instr) (s : State) : KeepsQueue s (exec c s) ∧ (Intact s.pending s → ∀ t, exec c s = .next t → Intact s.pending t) :=
  match c with
  | .loadBlock core d => ⟨execLoadBlock_keepsQueue core d s, execLoadBlock_intact core d s⟩
  | .loadBlockComplete core waited => ⟨execLoadBlockComplete_keepsQueue core waited s, execLoadBlockComplete_intact core waited s⟩
  | .pass core d residues words => ⟨execPass_keepsQueue core d residues words s, execPass_intact core d residues words s⟩
  | .ringSegmentEntry core waited => ⟨execRingSegmentEntry_keepsQueue core waited s, execRingSegmentEntry_intact core waited s⟩
  | .side core d => ⟨execSide_keepsQueue core d s, execSide_intact core d s⟩
  | .tileprogPrologue core d => ⟨execTileprogPrologue_keepsQueue core d s, execTileprogPrologue_intact core d s⟩
  | .tileprogEpilogue core d => ⟨execTileprogEpilogue_keepsQueue core d s, execTileprogEpilogue_intact core d s⟩
  | .tileprogRun core d => ⟨execTileprogRun_keepsQueue core d s, execTileprogRun_intact core d s⟩
  | .tileprogDetach core d => ⟨execTileprogDetach_keepsQueue core d s, execTileprogDetach_intact core d s⟩
  | .move core d words => ⟨execMove_keepsQueue core d words s, execMove_intact core d words s⟩
  | .moveComplete core finds => ⟨execMoveComplete_keepsQueue core finds s, execMoveComplete_intact core finds s⟩
  | .send core d => ⟨execSend_keepsQueue core d s, execSend_intact core d s⟩
  | .sendArrival core => ⟨execSendArrival_keepsQueue core s, execSendArrival_intact core s⟩
  | .wait core d => ⟨execWait_keepsQueue core d s, execWait_intact core d s⟩
  | .waitResume core waited => ⟨execWaitResume_keepsQueue core waited s, execWaitResume_intact core waited s⟩
  | .waitTimeout core => ⟨execWaitTimeout_keepsQueue core s, execWaitTimeout_intact core s⟩
  | .signal core d => ⟨execSignal_keepsQueue core d s, execSignal_intact core d s⟩
  | .signalTakesEffect core => ⟨execSignalTakesEffect_keepsQueue core s, execSignalTakesEffect_intact core s⟩
  | .fence core d => ⟨execFence_keepsQueue core d s, execFence_intact core d s⟩
  | .spill core d => ⟨execSpill_keepsQueue core d s, execSpill_intact core d s⟩
  | .spillRestore core d => ⟨execSpillRestore_keepsQueue core d s, execSpillRestore_intact core d s⟩
  | .spillComplete core finds => ⟨execSpillComplete_keepsQueue core finds s, execSpillComplete_intact core finds s⟩
  | .endTask core d => ⟨execEndTask_keepsQueue core d s, execEndTask_intact core d s⟩
  | .epilogueQueueResume core waited => ⟨execEpilogueQueueResume_keepsQueue core waited s, execEpilogueQueueResume_intact core waited s⟩
  | .passResultsWritten core => ⟨execPassResultsWritten_keepsQueue core s, execPassResultsWritten_intact core s⟩
  | .sideArrayLoadComplete core waited => ⟨execSideArrayLoadComplete_keepsQueue core waited s, execSideArrayLoadComplete_intact core waited s⟩
  | .tileBegin core => ⟨execTileBegin_keepsQueue core s, execTileBegin_intact core s⟩
  | .mov core d a => ⟨execMov_keepsQueue core d a s, execMov_intact core d a s⟩
  | .const core d m => ⟨execConst_keepsQueue core d m s, execConst_intact core d m s⟩
  | .lds core d m words => ⟨execLds_keepsQueue core d m words s, execLds_intact core d m words s⟩
  | .sts core a m => ⟨execSts_keepsQueue core a m s, execSts_intact core a m s⟩
  | .lane core d => ⟨execLane_keepsQueue core d s, execLane_intact core d s⟩
  | .rownum core d => ⟨execRownum_keepsQueue core d s, execRownum_intact core d s⟩
  | .add core d a b => ⟨execAdd_keepsQueue core d a b s, execAdd_intact core d a b s⟩
  | .sub core d a b => ⟨execSub_keepsQueue core d a b s, execSub_intact core d a b s⟩
  | .mul core d a b => ⟨execMul_keepsQueue core d a b s, execMul_intact core d a b s⟩
  | .fma core d a b c => ⟨execFma_keepsQueue core d a b c s, execFma_intact core d a b c s⟩
  | .min core d a b => ⟨execMin_keepsQueue core d a b s, execMin_intact core d a b s⟩
  | .max core d a b => ⟨execMax_keepsQueue core d a b s, execMax_intact core d a b s⟩
  | .abs core d a => ⟨execAbs_keepsQueue core d a s, execAbs_intact core d a s⟩
  | .neg core d a => ⟨execNeg_keepsQueue core d a s, execNeg_intact core d a s⟩
  | .scale core d a b => ⟨execScale_keepsQueue core d a b s, execScale_intact core d a b s⟩
  | .floor core d a => ⟨execFloor_keepsQueue core d a s, execFloor_intact core d a s⟩
  | .cmplt core d a b => ⟨execCmplt_keepsQueue core d a b s, execCmplt_intact core d a b s⟩
  | .cmple core d a b => ⟨execCmple_keepsQueue core d a b s, execCmple_intact core d a b s⟩
  | .cmpeq core d a b => ⟨execCmpeq_keepsQueue core d a b s, execCmpeq_intact core d a b s⟩
  | .sel core d a b c => ⟨execSel_keepsQueue core d a b c s, execSel_intact core d a b c s⟩
  | .isfin core d a => ⟨execIsfin_keepsQueue core d a s, execIsfin_intact core d a s⟩
  | .rcp core d a => ⟨execRcp_keepsQueue core d a s, execRcp_intact core d a s⟩
  | .sqrt core d a => ⟨execSqrt_keepsQueue core d a s, execSqrt_intact core d a s⟩
  | .rsqrt core d a => ⟨execRsqrt_keepsQueue core d a s, execRsqrt_intact core d a s⟩
  | .exp core d a => ⟨execExp_keepsQueue core d a s, execExp_intact core d a s⟩
  | .exp2 core d a => ⟨execExp2_keepsQueue core d a s, execExp2_intact core d a s⟩
  | .log core d a => ⟨execLog_keepsQueue core d a s, execLog_intact core d a s⟩
  | .log2 core d a => ⟨execLog2_keepsQueue core d a s, execLog2_intact core d a s⟩
  | .tanh core d a => ⟨execTanh_keepsQueue core d a s, execTanh_intact core d a s⟩
  | .sigm core d a => ⟨execSigm_keepsQueue core d a s, execSigm_intact core d a s⟩
  | .ramax core d a => ⟨execRamax_keepsQueue core d a s, execRamax_intact core d a s⟩
  | .rsum core d a m => ⟨execRsum_keepsQueue core d a m s, execRsum_intact core d a m s⟩
  | .rmax core d a => ⟨execRmax_keepsQueue core d a s, execRmax_intact core d a s⟩
  | .rmin core d a => ⟨execRmin_keepsQueue core d a s, execRmin_intact core d a s⟩
  | .rsumsq core d a m => ⟨execRsumsq_keepsQueue core d a m s, execRsumsq_intact core d a m s⟩
  | .csum core a m => ⟨execCsum_keepsQueue core a m s, execCsum_intact core a m s⟩
  | .cmax core a m => ⟨execCmax_keepsQueue core a m s, execCmax_intact core a m s⟩
  | .cget core d m => ⟨execCget_keepsQueue core d m s, execCget_intact core d m s⟩
  | .cvt core d a m => ⟨execCvt_keepsQueue core d a m s, execCvt_intact core d a m s⟩
  | .rscale core d a m => ⟨execRscale_keepsQueue core d a m s, execRscale_intact core d a m s⟩
  | .bscale core d a => ⟨execBscale_keepsQueue core d a s, execBscale_intact core d a s⟩
  | .tileSend core m => ⟨execTileSend_keepsQueue core m s, execTileSend_intact core m s⟩
  | .decisionPoint fn slot occ => ⟨execDecisionPoint_keepsQueue fn slot occ s, execDecisionPoint_intact fn slot occ s⟩
  | .occurrenceStart fn slot occ => ⟨execOccurrenceStart_keepsQueue fn slot occ s, execOccurrenceStart_intact fn slot occ s⟩
  | .slotEndStop fn slot occ => ⟨execSlotEndStop_keepsQueue fn slot occ s, execSlotEndStop_intact fn slot occ s⟩
  | .bubbleSuspend fn => ⟨execBubbleSuspend_keepsQueue fn s, execBubbleSuspend_intact fn s⟩
  | .bubbleResume fn => ⟨execBubbleResume_keepsQueue fn s, execBubbleResume_intact fn s⟩
  | .bubbleSubstepStart fn => ⟨execBubbleSubstepStart_keepsQueue fn s, execBubbleSubstepStart_intact fn s⟩
  | .almanacSwitch fn => ⟨execAlmanacSwitch_keepsQueue fn s, execAlmanacSwitch_intact fn s⟩
  | .transitMeasurement group rate => ⟨execTransitMeasurement_keepsQueue group rate s, execTransitMeasurement_intact group rate s⟩
  | .groupThermalLevel group tenths => ⟨execGroupThermalLevel_keepsQueue group tenths s, execGroupThermalLevel_intact group tenths s⟩
  | .stackThermalLevel stack tenths => ⟨execStackThermalLevel_keepsQueue stack tenths s, execStackThermalLevel_intact stack tenths s⟩
  | .adapterResident fn adapter outcome => ⟨execAdapterResident_keepsQueue fn adapter outcome s, execAdapterResident_intact fn adapter outcome s⟩
  | .earlyRead fn adapter => ⟨execEarlyRead_keepsQueue fn adapter s, execEarlyRead_intact fn adapter s⟩
  | .expertPredictedFetch core sram len mem => ⟨execExpertPredictedFetch_keepsQueue core sram len mem s, execExpertPredictedFetch_intact core sram len mem s⟩
  | .maintActivityStart id => ⟨execMaintActivityStart_keepsQueue id s, execMaintActivityStart_intact id s⟩
  | .maintActivityEnd id result => ⟨execMaintActivityEnd_keepsQueue id result s, execMaintActivityEnd_intact id result s⟩
  | .pageMove inst page dest => ⟨execPageMove_keepsQueue inst page dest s, execPageMove_intact inst page dest s⟩
  | .pageMoveComplete id finds => ⟨execPageMoveComplete_keepsQueue id finds s, execPageMoveComplete_intact id finds s⟩
  | .rekeyPage inst page => ⟨execRekeyPage_keepsQueue inst page s, execRekeyPage_intact inst page s⟩
  | .rekeyComplete inst page finds => ⟨execRekeyComplete_keepsQueue inst page finds s, execRekeyComplete_intact inst page finds s⟩
  | .lineRekeyComplete inst line => ⟨execLineRekeyComplete_keepsQueue inst line s, execLineRekeyComplete_intact inst line s⟩
  | .patrolScrubVisit part find => ⟨execPatrolScrubVisit_keepsQueue part find s, execPatrolScrubVisit_intact part find s⟩
  | .frameRetirement part frame sparedRow => ⟨execFrameRetirement_keepsQueue part frame sparedRow s, execFrameRetirement_intact part frame sparedRow s⟩
  | .channelRecal part channel => ⟨execChannelRecal_keepsQueue part channel s, execChannelRecal_intact part channel s⟩
  | .tenantScrub part frame => ⟨execTenantScrub_keepsQueue part frame s, execTenantScrub_intact part frame s⟩
  | .measurementHoldEnd id => ⟨execMeasurementHoldEnd_keepsQueue id s, execMeasurementHoldEnd_intact id s⟩
  | .sweepStart fn finds => ⟨execSweepStart_keepsQueue fn finds s, execSweepStart_intact fn finds s⟩
  | .sweepEnd fn => ⟨execSweepEnd_keepsQueue fn s, execSweepEnd_intact fn s⟩
  | .verdictFrame port f => ⟨execVerdictFrame_keepsQueue port f s, execVerdictFrame_intact port f s⟩
  | .verdictTimeout fn job => ⟨execVerdictTimeout_keepsQueue fn job s, execVerdictTimeout_intact fn job s⟩
  | .exportWindowResume fn job => ⟨execExportWindowResume_keepsQueue fn job s, execExportWindowResume_intact fn job s⟩
  | .recordSetDelivered fn job => ⟨execRecordSetDelivered_keepsQueue fn job s, execRecordSetDelivered_intact fn job s⟩
  | .workingCopyConverted fn job => ⟨execWorkingCopyConverted_keepsQueue fn job s, execWorkingCopyConverted_intact fn job s⟩
  | .shardSnapshotComplete fn job => ⟨execShardSnapshotComplete_keepsQueue fn job s, execShardSnapshotComplete_intact fn job s⟩
  | .portSignalDetect port => ⟨execPortSignalDetect_keepsQueue port s, execPortSignalDetect_intact port s⟩
  | .linkTrainingDone port => ⟨execLinkTrainingDone_keepsQueue port s, execLinkTrainingDone_intact port s⟩
  | .attestationDone port identityOk digest => ⟨execAttestationDone_keepsQueue port identityOk digest s, execAttestationDone_intact port identityOk digest s⟩
  | .portLossOfLock port => ⟨execPortLossOfLock_keepsQueue port s, execPortLossOfLock_intact port s⟩
  | .portSilenceTimeout port => ⟨execPortSilenceTimeout_keepsQueue port s, execPortSilenceTimeout_intact port s⟩
  | .dataFrame port f => ⟨execDataFrame_keepsQueue port f s, execDataFrame_intact port f s⟩
  | .signalFrame port f => ⟨execSignalFrame_keepsQueue port f s, execSignalFrame_intact port f s⟩
  | .collFrame port f => ⟨execCollFrame_keepsQueue port f s, execCollFrame_intact port f s⟩
  | .e2eAck port f => ⟨execE2eAck_keepsQueue port f s, execE2eAck_intact port f s⟩
  | .pathDown port f => ⟨execPathDown_keepsQueue port f s, execPathDown_intact port f s⟩
  | .loss port f => ⟨execLoss_keepsQueue port f s, execLoss_intact port f s⟩
  | .hail port f rtt => ⟨execHail_keepsQueue port f rtt s, execHail_intact port f rtt s⟩
  | .linkAck port f => ⟨execLinkAck_keepsQueue port f s, execLinkAck_intact port f s⟩
  | .topo port f => ⟨execTopo_keepsQueue port f s, execTopo_intact port f s⟩
  | .spdmFrame port f => ⟨execSpdmFrame_keepsQueue port f s, execSpdmFrame_intact port f s⟩
  | .hailTimer port => ⟨execHailTimer_keepsQueue port s, execHailTimer_intact port s⟩
  | .linkAckTimer port => ⟨execLinkAckTimer_keepsQueue port s, execLinkAckTimer_intact port s⟩
  | .e2eAckTimer flow => ⟨execE2eAckTimer_keepsQueue flow s, execE2eAckTimer_intact flow s⟩
  | .flowResendTimeout dest flow => ⟨execFlowResendTimeout_keepsQueue dest flow s, execFlowResendTimeout_intact dest flow s⟩
  | .flowNoPathTimeout dest flow => ⟨execFlowNoPathTimeout_keepsQueue dest flow s, execFlowNoPathTimeout_intact dest flow s⟩
  | .memberLossTimeout dev => ⟨execMemberLossTimeout_keepsQueue dev s, execMemberLossTimeout_intact dev s⟩
  | .linkKeyUpdate port => ⟨execLinkKeyUpdate_keepsQueue port s, execLinkKeyUpdate_intact port s⟩
  | .collectiveComplete fn coll => ⟨execCollectiveComplete_keepsQueue fn coll s, execCollectiveComplete_intact fn coll s⟩
  | .collectiveTimeout fn coll => ⟨execCollectiveTimeout_keepsQueue fn coll s, execCollectiveTimeout_intact fn coll s⟩
  | .flowMatch fn flow peerClass peerRate refused => ⟨execFlowMatch_keepsQueue fn flow peerClass peerRate refused s, execFlowMatch_intact fn flow peerClass peerRate refused s⟩
  | .flowMatchTimeout fn flow => ⟨execFlowMatchTimeout_keepsQueue fn flow s, execFlowMatchTimeout_intact fn flow s⟩
  | .rdmaReadResponse port req data checkOk ce => ⟨execRdmaReadResponse_keepsQueue port req data checkOk ce s, execRdmaReadResponse_intact port req data checkOk ce s⟩
  | .rdmaAck port req => ⟨execRdmaAck_keepsQueue port req s, execRdmaAck_intact port req s⟩
  | .rdmaNak port qpn psn => ⟨execRdmaNak_keepsQueue port qpn psn s, execRdmaNak_intact port qpn psn s⟩
  | .cnp port qpn => ⟨execCnp_keepsQueue port qpn s, execCnp_intact port qpn s⟩
  | .incomingRequestDrop port => ⟨execIncomingRequestDrop_keepsQueue port s, execIncomingRequestDrop_intact port s⟩
  | .rdmaAckTimeout port req => ⟨execRdmaAckTimeout_keepsQueue port req s, execRdmaAckTimeout_intact port req s⟩
  | .storageNoProgress port req => ⟨execStorageNoProgress_keepsQueue port req s, execStorageNoProgress_intact port req s⟩
  | .pfcFrame port pause => ⟨execPfcFrame_keepsQueue port pause s, execPfcFrame_intact port pause s⟩
  | .cmdDoorbell fn value be tee => ⟨execCmdDoorbell_keepsQueue fn value be tee s, execCmdDoorbell_intact fn value be tee s⟩
  | .commandFetchReturn fn entries => ⟨execCommandFetchReturn_keepsQueue fn entries s, execCommandFetchReturn_intact fn entries s⟩
  | .cmdEnableWrite fn value be tee => ⟨execCmdEnableWrite_keepsQueue fn value be tee s, execCmdEnableWrite_intact fn value be tee s⟩
  | .cplEnableWrite fn value be tee => ⟨execCplEnableWrite_keepsQueue fn value be tee s, execCplEnableWrite_intact fn value be tee s⟩
  | .cplHeadWrite fn value be tee => ⟨execCplHeadWrite_keepsQueue fn value be tee s, execCplHeadWrite_intact fn value be tee s⟩
  | .summaryStatusWrite fn value be tee => ⟨execSummaryStatusWrite_keepsQueue fn value be tee s, execSummaryStatusWrite_intact fn value be tee s⟩
  | .summaryEnableWrite fn value be tee => ⟨execSummaryEnableWrite_keepsQueue fn value be tee s, execSummaryEnableWrite_intact fn value be tee s⟩
  | .causeWrite fn offset value be tee => ⟨execCauseWrite_keepsQueue fn offset value be tee s, execCauseWrite_intact fn offset value be tee s⟩
  | .rcRegisterRead fn offset be tee => ⟨execRcRegisterRead_keepsQueue fn offset be tee s, execRcRegisterRead_intact fn offset be tee s⟩
  | .regLowHalfRead fn offset tee => ⟨execRegLowHalfRead_keepsQueue fn offset tee s, execRegLowHalfRead_intact fn offset tee s⟩
  | .regHighHalfRead fn offset tee => ⟨execRegHighHalfRead_keepsQueue fn offset tee s, execRegHighHalfRead_intact fn offset tee s⟩
  | .regLowHalfWrite fn offset value be tee => ⟨execRegLowHalfWrite_keepsQueue fn offset value be tee s, execRegLowHalfWrite_intact fn offset value be tee s⟩
  | .regHighHalfWrite fn offset value be tee => ⟨execRegHighHalfWrite_keepsQueue fn offset value be tee s, execRegHighHalfWrite_intact fn offset value be tee s⟩
  | .registerWrite fn offset value be tee => ⟨execRegisterWrite_keepsQueue fn offset value be tee s, execRegisterWrite_intact fn offset value be tee s⟩
  | .intrHoldoffExpiry fn => ⟨execIntrHoldoffExpiry_keepsQueue fn s, execIntrHoldoffExpiry_intact fn s⟩
  | .msixUnmask fn => ⟨execMsixUnmask_keepsQueue fn s, execMsixUnmask_intact fn s⟩
  | .hostReadCompletion tag status data finds => ⟨execHostReadCompletion_keepsQueue tag status data finds s, execHostReadCompletion_intact tag status data finds s⟩
  | .completionTimeout tag => ⟨execCompletionTimeout_keepsQueue tag s, execCompletionTimeout_intact tag s⟩
  | .flr fn => ⟨execFlr_keepsQueue fn s, execFlr_intact fn s⟩
  | .pfFlr => ⟨execPfFlr_keepsQueue s, execPfFlr_intact s⟩
  | .flrComplete fn => ⟨execFlrComplete_keepsQueue fn s, execFlrComplete_intact fn s⟩
  | .busMasterDisable fn => ⟨execBusMasterDisable_keepsQueue fn s, execBusMasterDisable_intact fn s⟩
  | .busMasterEnable fn => ⟨execBusMasterEnable_keepsQueue fn s, execBusMasterEnable_intact fn s⟩
  | .d3hotEntry fn => ⟨execD3hotEntry_keepsQueue fn s, execD3hotEntry_intact fn s⟩
  | .d0Return fn => ⟨execD0Return_keepsQueue fn s, execD0Return_intact fn s⟩
  | .vfEnableClear => ⟨execVfEnableClear_keepsQueue s, execVfEnableClear_intact s⟩
  | .vfEnableSet numVFs => ⟨execVfEnableSet_keepsQueue numVFs s, execVfEnableSet_intact numVFs s⟩
  | .pcieLinkDown => ⟨execPcieLinkDown_keepsQueue s, execPcieLinkDown_intact s⟩
  | .pcieLinkUp rate width => ⟨execPcieLinkUp_keepsQueue rate width s, execPcieLinkUp_intact rate width s⟩
  | .linkRetrain rate width => ⟨execLinkRetrain_keepsQueue rate width s, execLinkRetrain_intact rate width s⟩
  | .ideIntegrityFailure fn => ⟨execIdeIntegrityFailure_keepsQueue fn s, execIdeIntegrityFailure_intact fn s⟩
  | .tdispRequest fn m via => ⟨execTdispRequest_keepsQueue fn m via s, execTdispRequest_intact fn m via s⟩
  | .sessionReport fn e => ⟨execSessionReport_keepsQueue fn e s, execSessionReport_intact fn e s⟩
  | .linkPolicy fn e buf => ⟨execLinkPolicy_keepsQueue fn e buf s, execLinkPolicy_intact fn e buf s⟩
  | .consent fn e => ⟨execConsent_keepsQueue fn e s, execConsent_intact fn e s⟩
  | .instanceCreate fn e => ⟨execInstanceCreate_keepsQueue fn e s, execInstanceCreate_intact fn e s⟩
  | .instanceShares fn e buf => ⟨execInstanceShares_keepsQueue fn e buf s, execInstanceShares_intact fn e buf s⟩
  | .instanceResize fn e => ⟨execInstanceResize_keepsQueue fn e s, execInstanceResize_intact fn e s⟩
  | .instanceDestroy fn e => ⟨execInstanceDestroy_keepsQueue fn e s, execInstanceDestroy_intact fn e s⟩
  | .instanceQuery fn e => ⟨execInstanceQuery_keepsQueue fn e s, execInstanceQuery_intact fn e s⟩
  | .imageLoad fn e image map => ⟨execImageLoad_keepsQueue fn e image map s, execImageLoad_intact fn e image map s⟩
  | .imageUnload fn e => ⟨execImageUnload_keepsQueue fn e s, execImageUnload_intact fn e s⟩
  | .weightsLoad fn e manifest handles => ⟨execWeightsLoad_keepsQueue fn e manifest handles s, execWeightsLoad_intact fn e manifest handles s⟩
  | .weightsRepair fn e manifest handles => ⟨execWeightsRepair_keepsQueue fn e manifest handles s, execWeightsRepair_intact fn e manifest handles s⟩
  | .weightsDrop fn e => ⟨execWeightsDrop_keepsQueue fn e s, execWeightsDrop_intact fn e s⟩
  | .adapterRegister fn e handle => ⟨execAdapterRegister_keepsQueue fn e handle s, execAdapterRegister_intact fn e handle s⟩
  | .adapterWrite fn e buf => ⟨execAdapterWrite_keepsQueue fn e buf s, execAdapterWrite_intact fn e buf s⟩
  | .adapterRead fn e => ⟨execAdapterRead_keepsQueue fn e s, execAdapterRead_intact fn e s⟩
  | .adapterFetch fn e => ⟨execAdapterFetch_keepsQueue fn e s, execAdapterFetch_intact fn e s⟩
  | .unregister fn e => ⟨execUnregister_keepsQueue fn e s, execUnregister_intact fn e s⟩
  | .jobOpen fn e record tensors => ⟨execJobOpen_keepsQueue fn e record tensors s, execJobOpen_intact fn e record tensors s⟩
  | .jobClose fn e => ⟨execJobClose_keepsQueue fn e s, execJobClose_intact fn e s⟩
  | .reshard fn e map sets hostSet => ⟨execReshard_keepsQueue fn e map sets hostSet s, execReshard_intact fn e map sets hostSet s⟩
  | .jobQuery fn e => ⟨execJobQuery_keepsQueue fn e s, execJobQuery_intact fn e s⟩
  | .almanacSet fn e table => ⟨execAlmanacSet_keepsQueue fn e table s, execAlmanacSet_intact fn e table s⟩
  | .almanacQuery fn e => ⟨execAlmanacQuery_keepsQueue fn e s, execAlmanacQuery_intact fn e s⟩
  | .stepRun fn e list param => ⟨execStepRun_keepsQueue fn e list param s, execStepRun_intact fn e list param s⟩
  | .stepCancel fn e => ⟨execStepCancel_keepsQueue fn e s, execStepCancel_intact fn e s⟩
  | .syncRead fn e => ⟨execSyncRead_keepsQueue fn e s, execSyncRead_intact fn e s⟩
  | .syncSignal fn e => ⟨execSyncSignal_keepsQueue fn e s, execSyncSignal_intact fn e s⟩
  | .syncReset fn e => ⟨execSyncReset_keepsQueue fn e s, execSyncReset_intact fn e s⟩
  | .exportSet fn e handle => ⟨execExportSet_keepsQueue fn e handle s, execExportSet_intact fn e handle s⟩
  | .exportAck fn e => ⟨execExportAck_keepsQueue fn e s, execExportAck_intact fn e s⟩
  | .exportShard fn e handle ids => ⟨execExportShard_keepsQueue fn e handle ids s, execExportShard_intact fn e handle ids s⟩
  | .portMode fn e => ⟨execPortMode_keepsQueue fn e s, execPortMode_intact fn e s⟩
  | .portRetry fn e => ⟨execPortRetry_keepsQueue fn e s, execPortRetry_intact fn e s⟩
  | .deviceId fn e => ⟨execDeviceId_keepsQueue fn e s, execDeviceId_intact fn e s⟩
  | .qpOpen fn e => ⟨execQpOpen_keepsQueue fn e s, execQpOpen_intact fn e s⟩
  | .qpClose fn e => ⟨execQpClose_keepsQueue fn e s, execQpClose_intact fn e s⟩
  | .engineReset fn e => ⟨execEngineReset_keepsQueue fn e s, execEngineReset_intact fn e s⟩
  | .groupTest fn e => ⟨execGroupTest_keepsQueue fn e s, execGroupTest_intact fn e s⟩
  | .recal fn e => ⟨execRecal_keepsQueue fn e s, execRecal_intact fn e s⟩
  | .hold fn e => ⟨execHold_keepsQueue fn e s, execHold_intact fn e s⟩
  | .fwUpdate fn e buf patch => ⟨execFwUpdate_keepsQueue fn e buf patch s, execFwUpdate_intact fn e buf patch s⟩
  | .freeze fn e => ⟨execFreeze_keepsQueue fn e s, execFreeze_intact fn e s⟩
  | .save fn e handle => ⟨execSave_keepsQueue fn e handle s, execSave_intact fn e handle s⟩
  | .restore fn e package => ⟨execRestore_keepsQueue fn e package s, execRestore_intact fn e package s⟩
  | .thaw fn e => ⟨execThaw_keepsQueue fn e s, execThaw_intact fn e s⟩
  | .telemetryCores fn e => ⟨execTelemetryCores_keepsQueue fn e s, execTelemetryCores_intact fn e s⟩
  | .telemetryGroups fn e => ⟨execTelemetryGroups_keepsQueue fn e s, execTelemetryGroups_intact fn e s⟩
  | .telemetryClips fn e => ⟨execTelemetryClips_keepsQueue fn e s, execTelemetryClips_intact fn e s⟩
  | .telemetryEnergy fn e eArray eFull mv tenths => ⟨execTelemetryEnergy_keepsQueue fn e eArray eFull mv tenths s, execTelemetryEnergy_intact fn e eArray eFull mv tenths s⟩
  | .generationRaiseResume fn => ⟨execGenerationRaiseResume_keepsQueue fn s, execGenerationRaiseResume_intact fn s⟩
  | .engineDrainReport fn engine => ⟨execEngineDrainReport_keepsQueue fn engine s, execEngineDrainReport_intact fn engine s⟩
  | .removalFenceExpiry fn => ⟨execRemovalFenceExpiry_keepsQueue fn s, execRemovalFenceExpiry_intact fn s⟩
  | .setSealSecret fn via secret => ⟨execSetSealSecret_keepsQueue fn via secret s, execSetSealSecret_intact fn via secret s⟩
  | .setMigrationKey fn via key => ⟨execSetMigrationKey_keepsQueue fn via key s, execSetMigrationKey_intact fn via key s⟩
  | .clearSecrets fn via which => ⟨execClearSecrets_keepsQueue fn via which s, execClearSecrets_intact fn via which s⟩
  | .spdmGetMeasurements fn via index sign slot nonce => ⟨execSpdmGetMeasurements_keepsQueue fn via index sign slot nonce s, execSpdmGetMeasurements_intact fn via index sign slot nonce s⟩
  | .spdmGetCertificate fn via slot => ⟨execSpdmGetCertificate_keepsQueue fn via slot s, execSpdmGetCertificate_intact fn via slot s⟩
  | .spdmChallenge fn via slot nonce => ⟨execSpdmChallenge_keepsQueue fn via slot nonce s, execSpdmChallenge_intact fn via slot nonce s⟩
  | .spdmKeyExchange fn slot heartbeat => ⟨execSpdmKeyExchange_keepsQueue fn slot heartbeat s, execSpdmKeyExchange_intact fn slot heartbeat s⟩
  | .spdmKeyUpdate fn via confirm => ⟨execSpdmKeyUpdate_keepsQueue fn via confirm s, execSpdmKeyUpdate_intact fn via confirm s⟩
  | .timeAlign port t1 => ⟨execTimeAlign_keepsQueue port t1 s, execTimeAlign_intact port t1 s⟩
  | .timeAlignTimer t1 t2 t3 t4 => ⟨execTimeAlignTimer_keepsQueue t1 t2 t3 t4 s, execTimeAlignTimer_intact t1 t2 t3 t4 s⟩
  | .functionReset via inst elapsed => ⟨execFunctionReset_keepsQueue via inst elapsed s, execFunctionReset_intact via inst elapsed s⟩
  | .stallReset via inst elapsed => ⟨execStallReset_keepsQueue via inst elapsed s, execStallReset_intact via inst elapsed s⟩
  | .deviceReset via elapsed => ⟨execDeviceReset_keepsQueue via elapsed s, execDeviceReset_intact via elapsed s⟩
  | .zeroise via elapsed => ⟨execZeroise_keepsQueue via elapsed s, execZeroise_intact via elapsed s⟩
  | .porterThermal via elapsed => ⟨execPorterThermal_keepsQueue via elapsed s, execPorterThermal_intact via elapsed s⟩
  | .porterReport via inst elapsed => ⟨execPorterReport_keepsQueue via inst elapsed s, execPorterReport_intact via inst elapsed s⟩
  | .treeRead offset => ⟨execTreeRead_keepsQueue offset s, execTreeRead_intact offset s⟩
  | .testEnter => ⟨execTestEnter_keepsQueue s, execTestEnter_intact s⟩
  | .testExit => ⟨execTestExit_keepsQueue s, execTestExit_intact s⟩
  | .loopback target depth pattern ms => ⟨execLoopback_keepsQueue target depth pattern ms s, execLoopback_intact target depth pattern ms s⟩
  | .loopbackEnd records badFrames => ⟨execLoopbackEnd_keepsQueue records badFrames s, execLoopbackEnd_intact records badFrames s⟩
  | .mctpSetEndpointId eid => ⟨execMctpSetEndpointId_keepsQueue eid s, execMctpSetEndpointId_intact eid s⟩
  | .dynamicAddressAssignment addr => ⟨execDynamicAddressAssignment_keepsQueue addr s, execDynamicAddressAssignment_intact addr s⟩
  | .pldmGetSensor sensor measured => ⟨execPldmGetSensor_keepsQueue sensor measured s, execPldmGetSensor_intact sensor measured s⟩
  | .pldmSetEventReceiver eid => ⟨execPldmSetEventReceiver_keepsQueue eid s, execPldmSetEventReceiver_intact eid s⟩
  | .pcieLoopbackEntry enter => ⟨execPcieLoopbackEntry_keepsQueue enter s, execPcieLoopbackEntry_intact enter s⟩
  | .tapBypass => ⟨execTapBypass_keepsQueue s, execTapBypass_intact s⟩
  | .tapIdcode => ⟨execTapIdcode_keepsQueue s, execTapIdcode_intact s⟩
  | .tapSamplePreload preload => ⟨execTapSamplePreload_keepsQueue preload s, execTapSamplePreload_intact preload s⟩
  | .tapExtest => ⟨execTapExtest_keepsQueue s, execTapExtest_intact s⟩
  | .tapExtestPulse => ⟨execTapExtestPulse_keepsQueue s, execTapExtestPulse_intact s⟩
  | .tapExtestTrain => ⟨execTapExtestTrain_keepsQueue s, execTapExtestTrain_intact s⟩
  | .tapReset => ⟨execTapReset_keepsQueue s, execTapReset_intact s⟩
  | .pwrokRise otp flash straps => ⟨execPwrokRise_keepsQueue otp flash straps s, execPwrokRise_intact otp flash straps s⟩
  | .pwrokFall railsInBand => ⟨execPwrokFall_keepsQueue railsInBand s, execPwrokFall_intact railsInBand s⟩
  | .perstNFall => ⟨execPerstNFall_keepsQueue s, execPerstNFall_intact s⟩
  | .perstNRise => ⟨execPerstNRise_keepsQueue s, execPerstNRise_intact s⟩
  | .forceSafeNFall => ⟨execForceSafeNFall_keepsQueue s, execForceSafeNFall_intact s⟩
  | .forceSafeNRise => ⟨execForceSafeNRise_keepsQueue s, execForceSafeNRise_intact s⟩
  | .inputGlitch pin => ⟨execInputGlitch_keepsQueue pin s, execInputGlitch_intact pin s⟩
  | .timerefLoss => ⟨execTimerefLoss_keepsQueue s, execTimerefLoss_intact s⟩
  | .timerefReturn => ⟨execTimerefReturn_keepsQueue s, execTimerefReturn_intact s⟩
  | .linkRefclkLoss => ⟨execLinkRefclkLoss_keepsQueue s, execLinkRefclkLoss_intact s⟩
  | .linkRefclkReturn => ⟨execLinkRefclkReturn_keepsQueue s, execLinkRefclkReturn_intact s⟩
  | .pcieRefclkLoss => ⟨execPcieRefclkLoss_keepsQueue s, execPcieRefclkLoss_intact s⟩
  | .pcieRefclkReturn => ⟨execPcieRefclkReturn_keepsQueue s, execPcieRefclkReturn_intact s⟩
  | .supplyExcursion rail => ⟨execSupplyExcursion_keepsQueue rail s, execSupplyExcursion_intact rail s⟩
  | .supplyFailed rail => ⟨execSupplyFailed_keepsQueue rail s, execSupplyFailed_intact rail s⟩
  | .thermalTrip isStack index => ⟨execThermalTrip_keepsQueue isStack index s, execThermalTrip_intact isStack index s⟩
  | .memoryTrainingComplete failedParts => ⟨execMemoryTrainingComplete_keepsQueue failedParts s, execMemoryTrainingComplete_intact failedParts s⟩
  | .deviceResetRelease => ⟨execDeviceResetRelease_keepsQueue s, execDeviceResetRelease_intact s⟩
  | .baseDigestRecheck computed => ⟨execBaseDigestRecheck_keepsQueue computed s, execBaseDigestRecheck_intact computed s⟩
  | .keyEngineError => ⟨execKeyEngineError_keepsQueue s, execKeyEngineError_intact s⟩
  | .porterFault half => ⟨execPorterFault_keepsQueue half s, execPorterFault_intact half s⟩
  | .stallStateError fn => ⟨execStallStateError_keepsQueue fn s, execStallStateError_intact fn s⟩
  | .stallResetComplete fn => ⟨execStallResetComplete_keepsQueue fn s, execStallResetComplete_intact fn s⟩
  | .stallResetOverrun fn silent => ⟨execStallResetOverrun_keepsQueue fn silent s, execStallResetOverrun_intact fn silent s⟩
  | .functionResetOverrun fn => ⟨execFunctionResetOverrun_keepsQueue fn s, execFunctionResetOverrun_intact fn s⟩
  | .clerkWatchdogMiss half otherAnswers => ⟨execClerkWatchdogMiss_keepsQueue half otherAnswers s, execClerkWatchdogMiss_intact half otherAnswers s⟩
  | .clerkRestartComplete ok => ⟨execClerkRestartComplete_keepsQueue ok s, execClerkRestartComplete_intact ok s⟩
  | .offer => ⟨execOffer_keepsQueue s, execOffer_intact s⟩
  | .ready => ⟨execReady_keepsQueue s, execReady_intact s⟩
  | .grant => ⟨execGrant_keepsQueue s, execGrant_intact s⟩
  | .bridgeFailure => ⟨execBridgeFailure_keepsQueue s, execBridgeFailure_intact s⟩

theorem exec_pending {c : Instr} {s t : State} (h : exec c s = .next t) : t.pending = s.pending := (exec_keeps c s).1 t h

theorem exec_memWf {c : Instr} {s t : State} (wf : s.memWf = true) (h : exec c s = .next t) : t.memWf = true := ((exec_keeps c s).2 ⟨rfl, wf⟩ t h).2

/-- Settles O2: the command in front leaves the queue, its meaning or a nanosecond of device time keeps the rest, and both keep every memory canonical. -/
theorem stepKeepsMemories : Obligations.StepKeepsMemories := by
  unfold Obligations.StepKeepsMemories
  constructor
  · intro s t h
    unfold step at h
    split at h
    · next front => rw [exec_pending h, front, List.tail_cons]
    · next empty => rw [← Host.Outcome.next.inj h, idle_pending, empty, List.tail_nil]
  · intro s t wf h
    unfold step at h
    split at h
    · next c rest front => exact exec_memWf (s := { s with pending := rest }) wf h
    · rw [← Host.Outcome.next.inj h]
      exact (idle_intact s ⟨rfl, wf⟩).2

end Sys2Proof.Machine
end

section
/-! O1, O8, O53: a step of the device, the common refusals of a command (13_command_set R327 to R330), and the TAP (17_pins_test R450). -/

namespace Sys2Proof.Machine

/-! ## The step: O1 -/

/-- Settles O1: the step takes the command in front off the queue, and the rest is the state. -/
theorem stepRunsFront : Obligations.StepRunsFront := fun _ _ => rfl

/-! ## The common refusals: O8 -/

section ladder
variable (i : Nat) (e : Entry) (r : Rules) (act : State → State) (s : State)

/-- How a command in its ring whose object is free ends: by the refusal that applies to it, or with its own meaning. -/
def EndsBy : Option Nat → Prop
  | some st => runCmd i e r act s = if st = St.notAvailable then notHere i e (takeOff i e s) else refuseCmd i e st (takeOff i e s)
  | none => runCmd i e r act s = act (takeOff i e s)

theorem endsBy_whyNot (taken : (s.fn i).taken.contains e = true) (free : r.busy = false) : EndsBy i e r act s (whyNot i e r s) := by
  match why : whyNot i e r s with
  | none => simp only [EndsBy, runCmd, taken, free, why, Bool.not_true, Bool.or_self, Bool.false_eq_true, if_false]
  | some st =>
    by_cases away : st = St.notAvailable
    · exact (runCmd_notHere i taken free (away ▸ why)).trans (if_pos away).symm
    · exact (runCmd_refused i st taken free why away).trans (if_neg away).symm

/-- The refusals in their order (R328 to R330, R382, R386; log entry 27). -/
theorem whyNot_eq : whyNot i e r s =
    if r.pf = true ∧ i ≠ 0 then some St.badCommand
    else if r.foreign = true then some St.notAvailable
    else if (s.inst i).tdi = .error ∧ eFamily e ≠ 1 then some St.refusedState
    else if (s.inst i).frozen = true ∧ r.frozen = false then some St.refusedState
    else if r.stall = true ∧ (s.inst i).stall = none then some (if i = 0 then St.badCommand else St.refusedState)
    else if r.missing = true then some St.notAvailable
    else if onlyFields e r.fields = false ∨ addrsOk e = false ∨ r.bad = true then some St.badCommand
    else none := by
  simp [whyNot, or_assoc]

end ladder

/-- Settles O8: the command that is not here or whose object is busy, then the refusals in their order. -/
theorem commandRefused : Obligations.CommandRefused := by
  unfold Obligations.CommandRefused
  intro fn e r act s i n
  refine ⟨fun ignored => ignored.elim (runCmd_absent i) (runCmd_busy i), fun taken free => ?_⟩
  have ends := endsBy_whyNot i e r act s taken free
  simp only [whyNot_eq, apply_ite (EndsBy i e r act s)] at ends
  exact ends

/-! ## The TAP: O53 -/

/-- What a TAP row may do: it goes on, and only the TAP's own registers and what it shifts out change. -/
def TapOnly (c : Instr) (s : State) : Prop :=
  ∃ t, exec c s = .next t ∧ { t with sys := s.sys, free := s.free, out := s.out } = s ∧ t.sys = { s.sys with tapIr := t.sys.tapIr, preload := t.sys.preload } ∧ t.sys.tapIr ≤ 5

/-- Settles O53: row by row; each sets the TAP's instruction to its own code. -/
theorem tapReachesNothing : Obligations.TapReachesNothing := by
  unfold Obligations.TapReachesNothing
  intro preload s
  have bypass : TapOnly .tapBypass s := ⟨_, rfl, rfl, rfl, Nat.zero_le 5⟩
  have idcode : TapOnly .tapIdcode s := ⟨_, rfl, rfl, rfl, show 1 ≤ 5 by decide⟩
  have sample : TapOnly (.tapSamplePreload preload) s := ⟨_, rfl, rfl, rfl, show 2 ≤ 5 by decide⟩
  have extest : TapOnly .tapExtest s := ⟨_, rfl, rfl, rfl, show 3 ≤ 5 by decide⟩
  have pulse : TapOnly .tapExtestPulse s := ⟨_, rfl, rfl, rfl, show 4 ≤ 5 by decide⟩
  have train : TapOnly .tapExtestTrain s := ⟨_, rfl, rfl, rfl, show 5 ≤ 5 by decide⟩
  have reset : TapOnly .tapReset s := ⟨_, rfl, rfl, rfl, show 1 ≤ 5 by decide⟩
  simp only [List.forall_mem_cons, List.not_mem_nil, false_implies, implies_true, and_true]
  exact ⟨bypass, idcode, sample, extest, pulse, train, reset⟩

end Sys2Proof.Machine
end

section
/-! O9, O10, O11: the SESSION, INSTANCE and IMAGE commands (13_command_set, Tables 13-7 to 13-9). -/

namespace Sys2Proof.Machine

/-- Settles O9: each command is accepted, and none of its own refusals applies. -/
theorem sessionCompletes : Obligations.SessionCompletes := by
  unfold Obligations.SessionCompletes
  intro fn e bs s i s0 n
  refine ⟨fun ok current fits here => ?_, fun ok few here => ?_, fun ok => next_runCmd ok rfl⟩
  · refine next_runCmd ok ?_
    have kept : (if (s0.inst i).reported = blockInputs s0 i then s0 else makeReport i 0 s0) = s0 := if_pos current
    exact (congrArg (fun t : State => intoBuf i e (t.inst i).report (t.inst i).report.length t) kept).trans (intoBuf_fits i _ _ fits here)
  · exact next_runCmd ok ((if_neg (Nat.not_lt.mpr few)).trans (withBuf_some i n bs _ here))

/-! ## INSTANCE: O10 -/

theorem createStall_fits {i : Nat} {e : Entry} {s s1 : State} {st : Stall} (fresh : s.stall (eObj e) = none) (function : s.fnExists (eObj e) = true)
    (inService : s.sys.testState = false) (planned : planStall s (eObj e) (askOf e) = some (st, s1)) :
    createStall i e s = answerCmd i e St.done st.ranges
      (followHeat (eObj e) ((raiseOrWait (eObj e) (clearCores st.cores (dropObjects st s1))).updInst (eObj e) (fun n => { n with stall := some st }))) := by
  simp only [createStall, fresh, function, inService, planned, Option.isSome_none, Bool.not_true, Bool.or_self, Bool.false_eq_true, if_false]

/-- Settles O10: each command is accepted, and none of its own refusals applies. -/
theorem instanceCompletes : Obligations.InstanceCompletes := by
  unfold Obligations.InstanceCompletes
  intro fn e bs st s s1
  dsimp only
  refine ⟨fun ok fresh function inService planned => next_runCmd ok (createStall_fits fresh function inService planned), fun ok stall image replaces => ?_,
    fun ok stall here => ?_, fun ok other => next_runCmd ok (if_neg other), fun ok => next_runCmd ok rfl⟩
  · refine next_runCmd ok ?_
    simp only [stall, image, replaces, if_true]
  · have there : ((takeOff fn.toNat e s).stall (eObj e)).isNone = false := Option.isNone_eq_false_iff.mpr stall
    exact next_runCmd ok ((if_neg (ne_true_of_eq_false there)).trans (withBuf_some _ 128 bs _ here))

/-! ## IMAGE: O11 -/

/-- Settles O11: each command is accepted, and none of its own refusals applies. -/
theorem imageCompletes : Obligations.ImageCompletes := by
  unfold Obligations.ImageCompletes
  intro fn e bs map st im s
  dsimp only
  refine ⟨fun ok unloaded mapless checked here => ?_, fun ok stall image steps jobs => ?_⟩
  · refine next_runCmd ok ?_
    simp only [unloaded, mapless, checked, withBuf_some _ _ _ _ here, Option.isSome_none, bne_self_eq_false, Bool.false_and, Bool.false_eq_true, if_true, if_false]
  · refine next_runCmd ok ?_
    simp only [stall, image, steps, jobs, List.isEmpty_nil, Bool.not_true, Bool.or_self, Bool.false_eq_true, if_false]

end Sys2Proof.Machine
end

section
/-! O12, O13, O14, O15, O18: the WEIGHTS, ADAPTER, JOB, STEP, ALMANAC, SYNC, MIGRATE and TELEMETRY commands (13_command_set, Tables 13-9 to 13-14). -/

namespace Sys2Proof.Machine

/-! ## WEIGHTS and ADAPTER: O12 -/

/-- REGISTER of an adapter that is not in the store names no buffer. -/
theorem registerRules_inDevice {e : Entry} {s : State} {i : Nat} (inDevice : bit e 384 = false) :
    ({ fields := objBits ++ buf1 ++ [(356, 352), (383, 368), (384, 384), (447, 416)], stall := true, foreign := ownerBits (eObj e) != i, busy := adapterBusy s i (eObj e)
       bad := eObj e % 2 ^ 26 == 2 ^ 26 - 1 || decide (fld e 354 352 > 4) || (bit e 355 && bit e 356) || fld e 447 416 == 0 || (eAddr e != 0 || eBytes e != 0) } : Rules) =
    { fields := objBits ++ buf1 ++ [(356, 352), (383, 368), (384, 384), (447, 416)], stall := true, foreign := ownerBits (eObj e) != i, busy := adapterBusy s i (eObj e)
      bad := eObj e % 2 ^ 26 == 2 ^ 26 - 1 || decide (fld e 354 352 > 4) || (bit e 355 && bit e 356) || fld e 447 416 == 0
        || (if bit e 384 then eBytes e != 64 else eAddr e != 0 || eBytes e != 0) } := by
  simp only [inDevice, Bool.false_eq_true, if_false]

/-- WRITE must name the size of its adapter. -/
theorem adapterWriteRules_size {e : Entry} {s : State} {i : Nat} {a : Adapter} (found : s.adapterOf i (eObj e) = some a) :
    ({ adapterRules s i e buf1 with bad := eBytes e != a.size } : Rules) =
      { adapterRules s i e buf1 with bad := match s.adapterOf i (eObj e) with | some a => eBytes e != a.size | none => false } := by
  rw [found]

/-- Settles O12: each command is accepted, and none of its own refusals applies. -/
theorem weightsAndAdapters : Obligations.WeightsAndAdapters := by
  unfold Obligations.WeightsAndAdapters
  constructor
  · intro fn e m h s
    dsimp only
    refine ⟨fun ok unheld unused here => ?_, fun ok here => ?_, fun ok unused => next_runCmd ok (if_neg (ne_true_of_eq_false unused))⟩
    · refine next_runCmd ok ?_
      simp only [unheld, unused, withBuf_some _ _ _ _ here, Bool.or_self, Bool.false_eq_true, if_false]
    · exact next_runCmd ok ((withBuf_some _ _ m _ here).trans (withBuf_some _ _ h _ here))
  · intro fn e bs a st s
    dsimp only
    refine ⟨fun ok inDevice free room stall share => ?_, fun ok found unused here => ?_, fun ok found fits whole sound present here => ?_,
      fun ok found stall resident => ?_, fun ok found stall absent tiers fits => ?_, fun ok unused idle => ?_⟩
    · refine next_runCmd (registerRules_inDevice inDevice ▸ ok) ?_
      simp only [free, Nat.not_le.mpr room, stall, Nat.not_le.mpr share, inDevice, enterAdapter, Option.isSome_none, decide_false, Bool.not_false, Bool.false_eq_true, if_true, if_false]
    · refine next_runCmd (adapterWriteRules_size found ▸ ok) ?_
      have unused' : (takeOff fn.toNat e s).inJob fn.toNat (eObj e) = false := unused
      simp only [unused', withBuf_some _ _ _ _ here, Bool.false_eq_true, if_false]
    · refine next_runCmd ok ?_
      simp only [found, Nat.not_lt.mpr fits, sound, present, intoBuf_fits _ _ _ (whole ▸ fits) here, Bool.false_eq_true, if_false]
    · refine next_runCmd ok ?_
      simp only [found, stall, resident, if_true]
    · refine next_runCmd ok ?_
      simp only [found, stall, absent, tiers, Nat.not_lt.mpr fits, decide_false, Bool.or_self, Bool.false_eq_true, if_false]
    · refine next_runCmd ok ?_
      simp only [unused, idle, forEach, Bool.false_eq_true, if_false]

/-! ## JOB: O13 -/

section job
variable {e : Entry} {s : State} {i : Nat} {j : Job} (found : s.jobOf i (eObj e) = some j)
include found

/-- CLOSE waits for the snapshot of the job that it names. -/
theorem jobCloseRules_snapshot :
    ({ jobRules s i e [] with busy := j.snapshot.isSome } : Rules) = { jobRules s i e [] with busy := ((s.jobOf i (eObj e)).bind (·.snapshot)).isSome } := by
  rw [found, Option.bind_some]

/-- RESHARD without FROM_SETS waits for the re-shard of the job that it names, and names no second buffer. -/
theorem reshardRules_fresh (fresh : bit e 416 = false) :
    ({ jobRules s i e (buf1 ++ buf2 ++ [(415, 352), (416, 416)]) with
       busy := j.reshard.isSome, bad := eBytes e == 0 || eBytes e % 8 != 0 || (eAddr2 e != 0 || eBytes2 e != 0) } : Rules) =
    { jobRules s i e (buf1 ++ buf2 ++ [(415, 352), (416, 416)]) with
      busy := ((s.jobOf i (eObj e)).bind (·.reshard)).isSome, bad := eBytes e == 0 || eBytes e % 8 != 0 || (!bit e 416 && (eAddr2 e != 0 || eBytes2 e != 0)) } := by
  rw [found, Option.bind_some, fresh, Bool.not_false, Bool.true_and]

end job

/-- Settles O13: each command is accepted, and none of its own refusals applies. -/
theorem jobCompletes : Obligations.JobCompletes := by
  unfold Obligations.JobCompletes
  intro fn e bs tab sets hostSet j s
  dsimp only
  refine ⟨fun ok here sound => ?_, fun ok found idle still apart => ?_, fun ok found => ?_, fun ok fresh found here mapOk ready squares => ?_⟩
  · refine next_runCmd ok ((withBuf_some _ _ bs _ here).trans ?_)
    simp only [sound, withBuf_some _ _ _ _ here, Bool.false_eq_true, if_false]
  · refine next_runCmd (jobCloseRules_snapshot found ▸ ok) ?_
    have found' : (takeOff fn.toNat e s).jobOf fn.toNat (eObj e) = some j := found
    simp only [found', idle, still, apart, List.any_nil, Option.isSome_none, Bool.or_self, Bool.false_eq_true, if_false]
  · exact next_runCmd ok (t := answerCmd fn.toNat e St.done (jobWord j) (takeOff fn.toNat e s)) (by simp only [found])
  · refine next_runCmd (reshardRules_fresh found fresh ▸ ok) ((withBuf_some _ _ bs _ here).trans ?_)
    have found' : (takeOff fn.toNat e s).jobOf fn.toNat (eObj e) = some j := found
    simp only [found', fresh, mapOk, ready, squares, Bool.not_true, Bool.false_eq_true, if_false]

/-! ## STEP: O14 -/

/-- The step of a RUN that is not fine-tuning, with the runs of its list. -/
def servingStep (e : Entry) (list : Bytes) : Step :=
  { stepOfEntry e with runs := parseRuns (bit e 362) list (listCount e) 0, lr := 0, gmul := 0, eTs := [] }

theorem submitStep_admitted {i : Nat} {e : Entry} {list : Bytes} {st : Stall} {pr : Program} {s : State} (serving : (stepOfEntry e).kind ≠ 1)
    (own : (servingStep e list).runs.any (fun r => idMissing s i r.1) = false) (fills : runsBad (servingStep e list) (servingStep e list).runs = false)
    (stall : s.stall i = some st) (program : s.progOf i (fld e 359 352) = some pr) (admitted : stepRefusal s i st pr (servingStep e list) = none) :
    submitStep i e (stepOfEntry e) list [] s = enterStep i (servingStep e list) s := by
  have program : s.progOf i (stepOfEntry e).program = some pr := program
  have noRate : BitVec.ofNat 32 (num [] 0 4) = 0 := rfl
  have noFactor : BitVec.ofNat 32 (num [] 4 4) = 0 := rfl
  have sort : (stepOfEntry e).sort = bit e 362 := rfl
  simp only [servingStep, sort] at own fills admitted ⊢
  cases job : s.jobOf i (stepOfEntry e).job with
  | none => simp only [submitStep, job, sort, noRate, noFactor, own, fills, stall, program, admitted, Bool.false_eq_true, if_false]
  | some j => simp only [submitStep, job, sort, noRate, noFactor, serving, own, fills, stall, program, admitted, Bool.false_eq_true, if_false]

theorem paramBytes_serving {s : State} {i : Nat} {p : Step} (serving : p.kind ≠ 1) : paramBytes s i p = 0 := if_pos (bne_iff_ne.mpr serving)

/-- Settles O14: each command is accepted, and none of its own refusals applies. -/
theorem stepCommands : Obligations.StepCommands := by
  unfold Obligations.StepCommands
  intro fn e bs param st pr p s
  dsimp only
  refine ⟨fun ok serving image here own fills stall program admitted => ?_, fun ok found => ?_⟩
  · have others : ((stepOfEntry e).kind = 1) = False := eq_false serving
    refine next_runCmd ok ?_
    simp only [others, Option.isNone_eq_false_iff.mpr image, withBuf_some _ _ _ _ here, paramBytes_serving (p := stepOfEntry e) serving, if_true, if_false, Bool.false_eq_true]
    exact submitStep_admitted serving own fills stall program admitted
  · refine next_runCmd ok ?_
    simp only [found]

/-! ## ALMANAC and SYNC: O15 -/

theorem setAlmanac_sound {i : Nat} {e : Entry} {bs : Bytes} {tbl : Almanac} {st : Stall} {im : Image} {s : State} (table : parseTable bs = some tbl) (stall : s.stall i = some st)
    (image : (s.inst i).image = some im) (suits : wrongClass im tbl = false) (outlasted : tbl.slots.any (fun sl => sl.bubble && !outlasts s st sl.length) = false) (aligned : unaligned s = false) :
    setAlmanac i e bs s = s.updInst i (fun n => { n with
      nextAlmanac := some { tbl with start := if tbl.start = 0 then (s.now.toNat / tbl.cycle + 1) * tbl.cycle else tbl.start, tag := some (eTag e) } }) := by
  simp only [setAlmanac, table, stall, image, suits, outlasted, aligned, Bool.false_eq_true, if_false]

/-- Settles O15: each command is accepted, and none of its own refusals applies. -/
theorem almanacAndSync : Obligations.AlmanacAndSync := by
  unfold Obligations.AlmanacAndSync
  constructor
  · intro fn e bs tbl st im s
    dsimp only
    refine ⟨fun ok here table stall image suits outlasted aligned => ?_, fun ok => next_runCmd ok rfl⟩
    exact next_runCmd ok ((withBuf_some _ _ bs _ here).trans (setAlmanac_sound table stall image suits outlasted aligned))
  · intro fn e s
    exact ⟨fun ok => next_runCmd ok rfl, fun ok => next_runCmd ok rfl, fun ok => next_runCmd ok rfl⟩

/-! ## MIGRATE and TELEMETRY: O18 -/

/-- Settles O18: each command is accepted, and none of its own refusals applies. -/
theorem migrateAndTelemetry : Obligations.MigrateAndTelemetry := by
  unfold Obligations.MigrateAndTelemetry
  constructor
  · intro fn e bs handle st key s
    dsimp only
    refine ⟨fun ok other stall thawed open_ closed idle => ?_, fun ok frozen => ?_, fun ok stall key frozen inBuffer => ?_, fun ok here inBuffer => ?_⟩
    · refine next_runCmd ok ?_
      simp only [other, Option.isNone_eq_false_iff.mpr stall, thawed, open_, closed, idle, forEach, decide_false, Bool.or_self, Bool.false_eq_true, if_false]
    · refine next_runCmd ok ?_
      simp only [frozen, Bool.not_true, Bool.false_eq_true, if_false]
    · refine next_runCmd ok ?_
      simp only [stall, key, frozen, inBuffer, Bool.not_true, Bool.not_false, Bool.false_eq_true, if_true, if_false]
    · refine next_runCmd ok ((withBuf_some _ _ bs _ here).trans ?_)
      simp only [inBuffer, Bool.not_false, if_true]
  · intro fn e eArray eFull mv tenths st im s
    dsimp only
    refine ⟨fun ok stall fits here => ?_, fun ok stall fits here => ?_, fun ok image fits here => ?_, fun ok unowned => ?_⟩
    · refine next_runCmd ok ?_
      simp only [stall, intoBuf_fits _ _ _ fits here]
    · refine next_runCmd ok ?_
      simp only [stall, intoBuf_fits _ _ _ fits here]
    · refine next_runCmd ok ?_
      simp only [image, intoBuf_fits _ _ _ fits here]
    · refine next_runCmd ok ?_
      simp only [unowned, Option.isSome_none, Bool.false_eq_true, if_false]

end Sys2Proof.Machine
end

section
/-! O51: the Porter's operations (15_errors R405 to R407). -/

namespace Sys2Proof.Machine

section porter
variable {via : PorterVia} {op : Nat} {inst : Option Nat} {elapsed : BitVec 16} {act : State → State} {result : State → Bytes} {s : State}

theorem porterOp_unpowered (off : s.porterRuns = false) : porterOp via op inst elapsed act result s = s := if_pos (by rw [off]; rfl)

section powered
variable (powered : s.porterRuns = true)
include powered

theorem porterOp_mgmt_busy (busy : s.sys.porter.busy = true) : porterOp .mgmt op inst elapsed act result s = s.emit (.mgmt 1 []) := by
  simp only [porterOp, powered, busy, Bool.not_true, Bool.false_eq_true, if_true, if_false]
  rfl

theorem porterOp_window_idle (idle : s.sys.porter.busy = false) : porterOp .window op inst elapsed act result s = s := by
  simp only [porterOp, powered, idle, Bool.not_true, Bool.false_and, Bool.false_eq_true, if_false]

theorem porterOp_mgmt_idle (idle : s.sys.porter.busy = false) :
    porterOp .mgmt op inst elapsed act result s = endPorter .mgmt op elapsed (result (act s)) (act s) := by
  simp only [porterOp, powered, idle, Bool.not_true, Bool.false_eq_true, if_false]

theorem porterOp_window_held (busy : s.sys.porter.busy = true) (names : s.sys.porter.op = op) (meant : ∀ k, inst = some k → s.sys.porter.inst.toNat = k) :
    porterOp .window op inst elapsed act result s = endPorter .window op elapsed (result (act s)) (act s) := by
  cases inst with
  | none => simp only [porterOp, powered, busy, names, beq_self_eq_true, Bool.not_true, Bool.and_self, Bool.false_eq_true, if_true, if_false]
  | some k => simp only [porterOp, powered, busy, names, meant k rfl, beq_self_eq_true, Bool.not_true, Bool.and_self, Bool.false_eq_true, if_true, if_false]

end powered

/-- What becomes of a row whose meaning is an operation of the Porter, over the window and over the bus. -/
theorem porterRow {c : PorterVia → Instr} (means : ∀ v, exec (c v) s = .next (porterOp v op inst elapsed act result s)) :
    (s.porterRuns = false → exec (c .window) s = .next s ∧ exec (c .mgmt) s = .next s) ∧
    (s.porterRuns = true → s.sys.porter.busy = true → exec (c .mgmt) s = .next (s.emit (.mgmt 1 []))) ∧
    (s.porterRuns = true → s.sys.porter.busy = false → exec (c .window) s = .next s) ∧
    (s.porterRuns = true → s.sys.porter.busy = false → exec (c .mgmt) s = .next (endPorter .mgmt op elapsed (result (act s)) (act s))) ∧
    (s.porterRuns = true → s.sys.porter.busy = true → s.sys.porter.op = op → (∀ k, inst = some k → s.sys.porter.inst.toNat = k) →
      exec (c .window) s = .next (endPorter .window op elapsed (result (act s)) (act s))) := by
  simp only [means]
  refine ⟨fun off => ⟨?_, ?_⟩, fun powered busy => ?_, fun powered idle => ?_, fun powered idle => ?_, fun powered busy names meant => ?_⟩
  · rw [porterOp_unpowered off]
  · rw [porterOp_unpowered off]
  · rw [porterOp_mgmt_busy powered busy]
  · rw [porterOp_window_idle powered idle]
  · rw [porterOp_mgmt_idle powered idle]
  · rw [porterOp_window_held powered busy names meant]

end porter

theorem length_leBytes (n v : Nat) : (leBytes n v).length = n := by
  induction n generalizing v with
  | zero => rfl
  | succ n ih => rw [leBytes, List.length_cons, ih]

theorem length_thermalResult (s : State) : (thermalResult s).length = 152 := by
  simp [thermalResult, List.length_flatMap, length_leBytes]

/-- The Porter's registers as an operation that ends leaves them. -/
def porterDone (op : Nat) (elapsed : BitVec 16) (result : Bytes) (y : Sys) : Sys :=
  { y with porter := { y.porter with busy := false, done := true, lastOp := BitVec.ofNat 4 op, elapsed := elapsed, result := result } }

/-- An operation's end is recorded as PORTER_ACTED; over the bus it is answered too. -/
theorem endPorter_leaves (via : PorterVia) (op : Nat) (elapsed : BitVec 16) (result : Bytes) (s : State) :
    (endPorter via op elapsed result s).sys = (raiseDev 15 0 op (s.updSys (porterDone op elapsed result))).sys ∧
    (endPorter via op elapsed result s).causes = (raiseDev 15 0 op (s.updSys (porterDone op elapsed result))).causes := by
  cases via with
  | window => exact ⟨rfl, rfl⟩
  | mgmt => exact ⟨rfl, rfl⟩

/-- Settles O51: each operation, then what the end of one leaves. -/
theorem porterOperations : Obligations.PorterOperations := by
  unfold Obligations.PorterOperations
  intro fn elapsed s
  refine ⟨porterRow (c := fun v => .functionReset v fn elapsed) fun _ => rfl, porterRow (c := fun v => .stallReset v fn elapsed) fun _ => rfl,
    porterRow (c := fun v => .deviceReset v elapsed) fun _ => rfl, porterRow (c := fun v => .zeroise v elapsed) fun _ => rfl,
    porterRow (c := fun v => .porterThermal v elapsed) (act := fun s => s) (result := thermalResult) fun _ => rfl,
    porterRow (c := fun v => .porterReport v fn elapsed) (act := fun s => s) (result := fun s => (s.inst fn.toNat).report) fun _ => rfl,
    length_thermalResult s, fun via op result small => ?_⟩
  obtain ⟨sys, causes⟩ := endPorter_leaves via op elapsed result s
  have kept := (raiseDev_noted 15 0 op (s.updSys (porterDone op elapsed result))).posted.sys
  simp only [sys, causes]
  rw [kept]
  exact ⟨rfl, rfl, Nat.mod_eq_of_lt small, rfl, rfl, raiseIn_bit ..⟩

end Sys2Proof.Machine
end

section
/-! O52: the management bus, loop-backs, MCTP, I3C and PLDM (17_pins_test R442 to R448, Table 17-6). -/

namespace Sys2Proof.Machine

theorem onBus_powered {act : State → State} {s : State} (powered : s.porterRuns = true) : onBus act s = act s := if_pos powered

/-- A row of the management bus of a device that has power. -/
theorem next_onBus {act : State → State} {s t : State} (powered : s.porterRuns = true) (acts : act s = t) :
    (Host.Outcome.next (onBus act s) : Host.Outcome State Fault Refusal) = .next t :=
  congrArg Host.Outcome.next ((onBus_powered powered).trans acts)

section loopback
variable {target : LoopTarget} {depth : BitVec 3} {pattern : BitVec 4} {ms : BitVec 16} {s : State} (powered : s.porterRuns = true)
include powered

theorem execLoopback_invalid (invalid : ¬loopValid target depth.toNat pattern.toNat ms.toNat = true) : exec (.loopback target depth pattern ms) s = .next (mgmtAnswer 3 [] s) :=
  next_onBus powered (if_pos (by simpa using invalid))

variable (valid : loopValid target depth.toNat pattern.toNat ms.toNat = true)
include valid

theorem execLoopback_other {l : LoopTest} (other : s.sys.loop = some l) : exec (.loopback target depth pattern ms) s = .next (mgmtAnswer 1 [] s) := by
  refine next_onBus powered ?_
  simp only [valid, other, Option.isSome_some, Bool.not_true, Bool.false_eq_true, if_true, if_false]

theorem execLoopback_unready (free : s.sys.loop = none) (needs : loopNeeds s { target := target, depth := depth.toNat } = false) :
    exec (.loopback target depth pattern ms) s = .next (mgmtAnswer 2 [] s) := by
  refine next_onBus powered ?_
  simp only [valid, free, needs, Option.isSome_none, Bool.not_true, Bool.not_false, Bool.false_eq_true, if_true, if_false]

/-- A loop-back that starts is recorded, and nothing is answered before its end. -/
theorem execLoopback_starts (free : s.sys.loop = none) (needs : loopNeeds s { target := target, depth := depth.toNat } = true) :
    ∃ t, exec (.loopback target depth pattern ms) s = .next t ∧ t.sys.loop = some { target := target, depth := depth.toNat } ∧ t.out = s.out ∧ t.lines = s.lines := by
  have sound : ¬(!loopValid target depth.toNat pattern.toNat ms.toNat) = true := by rw [valid]; decide
  have alone : ¬s.sys.loop.isSome = true := by rw [free]; decide
  have ready : ¬(!loopNeeds s { target := target, depth := depth.toNat }) = true := by rw [needs]; decide
  refine ⟨_, next_onBus powered ((if_neg sound).trans ((if_neg alone).trans (if_neg ready))), ?_⟩
  cases target <;> exact ⟨rfl, rfl, rfl⟩

end loopback

/-- A loop-back that found no bad frame ends with its records. -/
theorem execLoopbackEnd_sound {records : Bytes} {l : LoopTest} {s : State} (runs : s.sys.loop = some l) :
    exec (.loopbackEnd records []) s = .next ((endLoop s).emit (.mgmt 0 records)) := by
  change execLoopbackEnd records [] s = _
  cases memory : l.dram with
  | none => simp only [execLoopbackEnd, runs, memory, mgmtAnswer]
  | some part => simp only [execLoopbackEnd, runs, memory, mgmtAnswer, List.filter_nil, forEach]

/-- Settles O52: while the device has power each row of the bus; then the link partner's row and a loop-back's end. -/
theorem managementBus : Obligations.ManagementBus := by
  unfold Obligations.ManagementBus
  intro offset ms target depth pattern records eid addr sensor measured l s
  dsimp only
  refine ⟨fun powered => ⟨?_, next_onBus powered rfl, fun free => ?_, fun runs needs => ?_, execLoopback_invalid powered, fun valid => execLoopback_other powered valid,
    execLoopback_unready powered, execLoopback_starts powered, ?_, next_onBus powered rfl, next_onBus powered rfl, next_onBus powered rfl, fun perst clock unlooped => ?_⟩,
    rfl, fun free => ?_, execLoopbackEnd_sound⟩
  · refine next_onBus powered ?_
    simp only [Bool.and_eq_true, decide_eq_true_eq, beq_iff_eq, and_assoc]
    rfl
  · refine next_onBus powered ?_
    simp only [free]
    rfl
  · refine next_onBus powered ?_
    simp only [runs, needs, if_true]
    rfl
  · refine next_onBus powered ?_
    simp only [Bool.or_eq_true, decide_eq_true_eq]
    rfl
  · exact congrArg Host.Outcome.next ((if_pos rfl).trans (if_pos (by simp only [perst, clock, powered, unlooped, Bool.not_false, Bool.and_self])))
  · change execLoopbackEnd records [] s = _
    simp only [execLoopbackEnd, free]

end Sys2Proof.Machine
end

section
/-! O56: the Clerks, the token and the bridge (16_power_reset R428 to R434). -/

namespace Sys2Proof.Machine

/-! ## The Clerks' watchdogs and restarts -/

section noted
variable {s t : State} (noted : Noted s t)
include noted

theorem Noted.fwAct : fwAct t = fwAct s := by
  obtain ⟨_, _, _, _, rfl⟩ := noted.1
  rfl

theorem Noted.clerkUp (half : Half) : t.clerkUp half = s.clerkUp half := by
  obtain ⟨_, _, _, _, rfl⟩ := noted.1
  cases half <;> rfl

end noted

section clerks
variable {half : Half} {a : Act} {s : State}

theorem setClerk_clerkUp (up : Bool) : (setClerk half up s).clerkUp half = up := by cases half <;> rfl
theorem setClerk_clerkUp_other (up : Bool) : (setClerk half up s).clerkUp (otherHalf half) = s.clerkUp (otherHalf half) := by cases half <;> rfl
theorem setClerk_token (up : Bool) : (setClerk half up s).sys.token = s.sys.token := by cases half <;> rfl
theorem setClerk_fwAct (up : Bool) : fwAct (setClerk half up s) = fwAct s := by cases half <;> rfl

/-- Where no live update runs, none fails. -/
theorem failUpdate_none (idle : fwAct s = none) : failUpdate s = s := by simp only [failUpdate, idle]

/-- A Clerk that runs, in a device whose halves both go on. -/
def Watched (half : Half) (s : State) : Prop := s.live = true ∧ s.clerkUp half = true ∧ s.sys.stoppedHalf = none

theorem execClerkWatchdogMiss_watched {answers : Bool} (up : Watched half s) :
    exec (.clerkWatchdogMiss half answers) s = .next (
      if !answers || !s.clerkUp (otherHalf half) || !s.sys.bridgeOk then deviceFatal 11 5 0 (setClerk .west false (setClerk .east false s))
      else if s.sys.token == some half then takeover half s
      else
        let s1 := raiseDev 11 4 (halfCode half) (setClerk half false s)
        if s.sys.fwStage ≤ 1 then failUpdate s1 else s1) := by
  obtain ⟨live, here, both⟩ := up
  have counts : ¬(!s.live || !s.clerkUp half || s.sys.stoppedHalf == some half) = true := by simp [live, here, both]
  exact congrArg Host.Outcome.next (if_neg counts)

section answered
variable (up : Watched half s) (other : s.clerkUp (otherHalf half) = true) (bridge : s.sys.bridgeOk = true)
include up other bridge

theorem execClerkWatchdogMiss_holder (holds : s.sys.token = some half) : exec (.clerkWatchdogMiss half true) s = .next (takeover half s) := by
  rw [execClerkWatchdogMiss_watched up]
  simp only [other, bridge, holds, beq_self_eq_true, Bool.not_true, Bool.or_self, Bool.false_eq_true, if_true, if_false]

/-- A miss of the Clerk that does not preside only stops it. -/
theorem execClerkWatchdogMiss_other (free : s.sys.token ≠ some half) (idle : fwAct s = none) :
    exec (.clerkWatchdogMiss half true) s = .next (raiseDev 11 4 (halfCode half) (setClerk half false s)) := by
  have still : fwAct (raiseDev 11 4 (halfCode half) (setClerk half false s)) = none :=
    (raiseDev_noted ..).fwAct.trans ((setClerk_fwAct false).trans idle)
  rw [execClerkWatchdogMiss_watched up]
  simp only [other, bridge, beq_eq_false_iff_ne.mpr free, failUpdate_none still, ite_self, Bool.not_true, Bool.or_self, Bool.false_eq_true, if_false]

end answered

/-- Where the other Clerk does not answer, none presides. -/
theorem execClerkWatchdogMiss_unanswered (up : Watched half s) :
    exec (.clerkWatchdogMiss half false) s = .next (deviceFatal 11 5 0 (setClerk .west false (setClerk .east false s))) := by
  rw [execClerkWatchdogMiss_watched up]
  simp only [Bool.not_false, Bool.true_or, if_true]

theorem execClerkRestartComplete_idle (idle : fwAct s = none) (both : s.sys.stoppedHalf = none) :
    exec (.clerkRestartComplete true) s = .next (setClerk .west true (setClerk .east true s)) := by
  change execClerkRestartComplete true s = _
  simp only [execClerkRestartComplete, idle, both, Option.isSome_none, Bool.not_true, Bool.or_self, Bool.false_eq_true, if_false]

/-- In an update the Clerk that does not hold the token has the new patch set (Table 16-4). -/
theorem execClerkRestartComplete_update (runs : fwAct s = some a) (first : s.sys.fwStage = 0) (holds : s.sys.token = some half) :
    exec (.clerkRestartComplete true) s = .next ((setClerk (otherHalf half) true s).updSys (fun y => { y with fwStage := 1 })) := by
  change execClerkRestartComplete true s = _
  simp only [execClerkRestartComplete, runs, first, holds, if_true]

/-! ## The token passes by OFFER, READY and GRANT -/

section messages
variable (bridge : s.sys.bridgeOk = true)
include bridge

theorem execOffer_stage (holds : s.sys.token = some half) (runs : fwAct s = some a) (stage : s.sys.fwStage = 1) (first : s.sys.lastMsg = .none) :
    exec .offer s = .next (s.updSys (fun y => { y with lastMsg := .offer })) := by
  refine congrArg Host.Outcome.next (if_pos ?_)
  rw [bridge, holds, runs, stage, first]
  rfl

theorem execReady_offered (holds : s.sys.token = some half) (offered : s.sys.lastMsg = .offer) :
    exec .ready s = .next (s.updSys (fun y => { y with lastMsg := .ready, token := none, grantTo := some (otherHalf half) })) := by
  change execReady s = _
  simp only [execReady, holds, bridge, offered, beq_self_eq_true, Bool.and_self, if_true]

/-- The Clerk that GRANT reaches holds the token; in an update its stage goes on. -/
theorem execGrant_holds (granted : s.sys.grantTo = some half) (here : s.clerkUp half = true) :
    ∃ u, exec .grant s = .next u ∧ u.sys.token = some half ∧ u.sys.grantTo = none ∧ u.sys.lastMsg = .grant ∧ (s.sys.fwStage = 1 → u.sys.fwStage = 2) := by
  have means : exec .grant s = .next (raiseDev 11 2 (halfCode half + 1 <<< 1) (s.updSys (fun y => { y with
      lastMsg := .grant, token := some half, grantTo := none, fwStage := if y.fwStage = 1 then 2 else y.fwStage }))) := by
    change execGrant s = _
    simp only [execGrant, granted, bridge, here, Bool.and_self, if_true]
  refine ⟨_, means, ?_⟩
  rw [(raiseDev_noted ..).posted.sys]
  exact ⟨rfl, rfl, rfl, fun first => if_pos first⟩

end messages

end clerks

/-! ## Half mode -/

/-- The state in which one half goes on with the token, before anything is recorded or stopped. -/
def halved (keep : Half) (s : State) : State :=
  setClerk (otherHalf keep) false (s.updSys (fun y => { y with bridgeOk := false, stoppedHalf := some (otherHalf keep), token := some keep, grantTo := none }))

section halved
variable (keep : Half) (s : State)

theorem halved_ports : (halved keep s).ports = s.ports := by cases keep <;> rfl
theorem halved_insts : (halved keep s).insts = s.insts := by cases keep <;> rfl
theorem halved_fwAct : fwAct (halved keep s) = fwAct s := setClerk_fwAct false

end halved

/-- A port goes OFF. -/
def closePort (port : Nat) (s : State) : State := s.updPort port (fun q => { q with st := .off })

/-- No port is UP. -/
def State.linksDown (s : State) : Prop := ∀ p, (s.port p).st ≠ .up

theorem closePort_linksDown {s : State} (port : Nat) (down : s.linksDown) : (closePort port s).linksDown := by
  intro p
  by_cases same : p = port
  · rw [same, closePort, State.port_updPort_self]
    simp
  · rw [closePort, State.port_updPort_ne _ same]
    exact down p

/-- Where no port is UP, none has an event to record as it goes OFF. -/
theorem forEach_closePort (reason : Nat) (ports : List Nat) : ∀ {s : State}, s.linksDown →
    forEach (fun p s => (if (s.port p).st == .up && (s.port p).mode == .sfl then portDown p reason s else s).updPort p (fun q => { q with st := .off })) ports s = forEach closePort ports s := by
  induction ports with
  | nil => intro s _; rfl
  | cons port ports ih =>
    intro s down
    have quiet : ¬((s.port port).st == .up && (s.port port).mode == .sfl) = true := by simp [down port]
    simp only [forEach, if_neg quiet]
    exact ih (closePort_linksDown port down)

theorem forEach_closePort_st (ports : List Nat) : ∀ (s : State) (p : Nat), p ∈ ports ∨ (s.port p).st = .off → ((forEach closePort ports s).port p).st = .off := by
  induction ports with
  | nil => intro s p off; exact off.resolve_left (List.not_mem_nil)
  | cons port ports ih =>
    intro s p off
    refine ih (closePort port s) p ?_
    by_cases same : p = port
    · right
      rw [same, closePort, State.port_updPort_self]
    · rw [closePort, State.port_updPort_ne _ same]
      exact off.imp_left fun mem => (List.mem_cons.mp mem).resolve_left same

theorem forEach_closePort_sys (ports : List Nat) (s : State) : (forEach closePort ports s).sys = s.sys := forEach_keeps State.sys (fun _ _ => by rfl) ports s
theorem forEach_closePort_insts (ports : List Nat) (s : State) : (forEach closePort ports s).insts = s.insts := forEach_keeps State.insts (fun _ _ => by rfl) ports s

/-- The link retrains to x8 where it is up. -/
def narrowLink (s : State) : State :=
  if s.sys.linkUp then raiseDev 13 3 (s.sys.linkRate.toNat + 8 <<< 4) (s.updSys (fun y => { y with linkWidth := 8 })) else s

section narrowLink
variable (s : State)

theorem narrowLink_sys : (narrowLink s).sys = { s.sys with linkWidth := if s.sys.linkUp then 8 else s.sys.linkWidth, attnN := (narrowLink s).sys.attnN } := by
  unfold narrowLink
  split
  · exact (raiseDev_noted ..).posted.sys
  · rfl

theorem narrowLink_port (p : Nat) : (narrowLink s).port p = s.port p := by
  unfold narrowLink
  split
  · exact congrArg (Tbl.get {} · p) (raiseDev_noted ..).posted.ports
  · rfl

end narrowLink

/-- Half mode of a device with no stall, no link and no activity. -/
theorem enterHalf_idle {keep : Half} {s : State} (insts : s.insts = []) (ports : s.ports = []) (acts : s.acts = []) :
    ∃ u, Noted (halved keep s) u ∧ enterHalf keep s = narrowLink (forEach closePort (halfPorts (otherHalf keep)) u) := by
  unfold enterHalf
  extract_lets stop s1 s2 s3 s4 s5 s6 s7
  have unhailed : s1 = s := by simp only [s1, hailStopping, ports, forEach]
  have s2_eq : s2 = halved keep s := by simp only [s2, unhailed]; rfl
  have told3 : Noted s2 s3 := by
    simp only [s3]
    split
    · exact raiseDev_noted ..
    · exact Noted.refl _
  have told4 : Noted s2 s4 := told3.trans ((raiseDev_noted ..).trans (raiseDev_noted ..))
  have s2_ports : s2.ports = [] := by rw [s2_eq, halved_ports, ports]
  have s2_fwAct : fwAct s2 = none := by rw [s2_eq, halved_fwAct, fwAct, acts]; rfl
  have s2_insts : s2.insts = [] := by rw [s2_eq, halved_insts, insts]
  have s5_eq : s5 = s4 := by simp only [s5, failUpdate_none (told4.fwAct.trans s2_fwAct), ite_self]
  have down : s5.linksDown := by
    intro p
    rw [s5_eq, State.port, told4.posted.ports, s2_ports]
    exact PortSt.noConfusion
  have s6_eq : s6 = forEach closePort (halfPorts stop) s5 := forEach_closePort 4 (halfPorts stop) down
  have s6_insts : s6.insts = [] := by rw [s6_eq, forEach_closePort_insts, s5_eq, told4.posted.insts, s2_insts]
  have s7_eq : s7 = s6 := by simp only [s7, State.instNums, s6_insts, List.map_nil, forEach]
  refine ⟨s4, s2_eq ▸ told4, ?_⟩
  rw [s7_eq, s6_eq, s5_eq]
  rfl

/-- Half mode of such a device, register by register. -/
theorem enterHalf_idle_leaves {keep : Half} {s : State} (insts : s.insts = []) (ports : s.ports = []) (acts : s.acts = []) :
    let u := enterHalf keep s
    u.sys.bridgeOk = false ∧ u.sys.stoppedHalf = some (otherHalf keep) ∧ u.sys.token = some keep ∧ u.clerkUp (otherHalf keep) = false ∧ (s.sys.linkUp = true → u.sys.linkWidth = 8) ∧
      ∀ p ∈ halfPorts (otherHalf keep), (u.port p).st = .off := by
  obtain ⟨u, told, means⟩ := enterHalf_idle (keep := keep) insts ports acts
  have sys := narrowLink_sys (forEach closePort (halfPorts (otherHalf keep)) u)
  rw [forEach_closePort_sys, told.posted.sys] at sys
  simp only [means]
  refine ⟨?_, ?_, ?_, ?_, fun up => ?_, fun p mem => ?_⟩
  · rw [sys]; cases keep <;> rfl
  · rw [sys]; cases keep <;> rfl
  · rw [sys]; cases keep <;> rfl
  · cases keep with
    | west => exact congrArg Sys.eastClerk sys
    | east => exact congrArg Sys.westClerk sys
  · rw [sys]; cases keep <;> exact if_pos up
  · rw [narrowLink_port]
    exact forEach_closePort_st _ u p (.inl mem)

/-- Settles O56: the watchdogs and restarts, the messages, the bridge. -/
theorem clerksAndToken : Obligations.ClerksAndToken := by
  unfold Obligations.ClerksAndToken
  intro half a s y t up
  refine ⟨fun here => execClerkWatchdogMiss_holder here, fun here other bridge free idle => ?_, execClerkWatchdogMiss_unanswered, execClerkRestartComplete_idle, execClerkRestartComplete_update,
    execOffer_stage, execReady_offered, execGrant_holds, fun bridge on => ?_, fun bridge => ?_, enterHalf_idle_leaves⟩
  · refine ⟨_, execClerkWatchdogMiss_other here other bridge free idle, ?_, ?_, ?_⟩
    · exact ((raiseDev_noted ..).clerkUp _).trans (setClerk_clerkUp false)
    · exact ((raiseDev_noted ..).clerkUp _).trans ((setClerk_clerkUp_other false).trans other)
    · rw [(raiseDev_noted ..).posted.sys]
      exact setClerk_token false
  · have powered : (s.sys.phase == .starting || s.sys.phase == .operational) = true := by
      rcases on with operational | starting
      · rw [operational]; rfl
      · rw [starting]; rfl
    exact congrArg Host.Outcome.next (if_neg (by rw [bridge, powered]; decide))
  · exact congrArg Host.Outcome.next (if_pos (by rw [bridge]; rfl))

end Sys2Proof.Machine
end

section
/-! O50: attestation, secrets, TDISP, removals and common time (14_isolation R366 to R373, R391 to R394; 16_power_reset R426). -/

namespace Sys2Proof.Machine

/-! ## SPDM, secrets, TDISP -/

theorem State.inst_emit (o : Out) (i : Nat) (s : State) : (s.emit o).inst i = s.inst i := rfl

section spdm
variable {i : Nat} {via : SpdmVia} {act : State → State} {s t : State} (responds : s.responds i = true)
include responds

theorem next_onSpdm (sound : viaOk (s.inst i) via = true) (acts : act s = t) : (Host.Outcome.next (onSpdm i via act s) : Host.Outcome State Fault Refusal) = .next t := by
  simp only [onSpdm, responds, sound, acts, Bool.not_true, Bool.false_eq_true, if_false]

theorem next_onSpdm_dropped (unsound : viaOk (s.inst i) via = false) : (Host.Outcome.next (onSpdm i via act s) : Host.Outcome State Fault Refusal) = .next (raiseDevFor 14 2 i i s) := by
  simp only [onSpdm, responds, unsound, Bool.not_true, Bool.not_false, Bool.false_eq_true, if_true, if_false]

/-- A request over SPDM acts where its session is good, and is dropped and counted elsewhere (R371). -/
theorem spdmRow {c : Instr} (means : exec c s = .next (onSpdm i via act s)) (acts : act s = t) :
    (viaOk (s.inst i) via = true → exec c s = .next t) ∧ (viaOk (s.inst i) via = false → exec c s = .next (raiseDevFor 14 2 i i s)) :=
  ⟨fun sound => means.trans (next_onSpdm responds sound acts), fun unsound => means.trans (next_onSpdm_dropped responds unsound)⟩

/-- A secret is taken or refused (R372). -/
theorem secretRow {c : Instr} {g : Inst → Inst} (means : exec c s = .next (vendorRequest i via g s)) :
    (viaOk (s.inst i) via = true → secretsAllowed (s.inst i) via = true → exec c s = .next ((s.updInst i g).emit (.doe i [0]))) ∧
    (viaOk (s.inst i) via = true → secretsAllowed (s.inst i) via = false → exec c s = .next (s.emit (.doe i [1]))) ∧
    (viaOk (s.inst i) via = false → exec c s = .next (raiseDevFor 14 2 i i s)) :=
  ⟨fun sound allowed => means.trans (next_onSpdm responds sound (if_pos allowed)), fun sound refused => means.trans (next_onSpdm responds sound (if_neg (ne_true_of_eq_false refused))),
    fun unsound => means.trans (next_onSpdm_dropped responds unsound)⟩

end spdm

/-- The blocks that a request for one block, or for the count, gets (R370). -/
theorem execSpdmGetMeasurements_block {fn : FnId} {via : SpdmVia} {index : BitVec 8} {slot : BitVec 1} {nonce : BitVec 256} {s : State} (few : index.toNat ≤ 8) :
    exec (.spdmGetMeasurements fn via index false slot nonce) s =
      .next (onSpdm fn.toNat via (fun s => s.emit (.doe fn.toNat (if index = 0 then [8] else blockRecord s fn.toNat index.toNat))) s) := by
  have single : index ≠ 0xFF := by rintro rfl; exact absurd few (by decide)
  change execSpdmGetMeasurements fn via index false slot nonce s = _
  simp only [execSpdmGetMeasurements, single, few, Bool.and_false, Bool.false_eq_true, if_false, if_true, List.append_nil]

/-- Where no session is open, KEY_EXCHANGE opens the first. -/
theorem execSpdmKeyExchange_first {fn : FnId} {slot : BitVec 1} {heartbeat : BitVec 8} {s : State} (responds : s.responds fn.toNat = true) (fresh : (s.inst fn.toNat).sessions = []) :
    ∃ t, exec (.spdmKeyExchange fn slot heartbeat) s = .next t ∧
      (t.inst fn.toNat).sessions = [{ id := 1, slot := slot.toNat, heartbeat := heartbeat.toNat, keyGen := 0, updating := false }] := by
  have first : [1, 2].find? (fun k => (s.inst fn.toNat).sessions.all (fun x => x.id != k)) = some 1 := by rw [fresh]; rfl
  refine ⟨_, next_onSpdm responds rfl rfl, ?_⟩
  simp only [first]
  simp only [State.inst_emit, State.inst_updInst_self, fresh, List.nil_append]

/-- KEY_UPDATE renews the keys of its session, and both are accepted (R371). -/
theorem execSpdmKeyUpdate_renews {fn : FnId} {id : Nat} {old : Bool} {s : State} (responds : s.responds fn.toNat = true) (sound : viaOk (s.inst fn.toNat) (.session id old) = true) :
    ∃ t, exec (.spdmKeyUpdate fn (.session id old) false) s = .next t ∧
      (t.inst fn.toNat).sessions = (s.inst fn.toNat).sessions.map (fun x => if x.id == id then { x with keyGen := x.keyGen + 1, updating := true } else x) := by
  refine ⟨_, next_onSpdm responds sound rfl, ?_⟩
  simp only [State.inst_emit, State.inst_updInst_self, Bool.false_eq_true, if_false]

section tdisp
variable {fn : FnId} {m : Tdisp} {id : Nat} {old : Bool} {f : Inst → Inst} {s : State}

/-- A TDISP message that the TDI takes is answered with the state it leads to (R373). -/
theorem execTdispRequest_taken (responds : s.responds fn.toNat = true) (virtual : fn.toNat ≠ 0) (sound : viaOk (s.inst fn.toNat) (.session id old) = true)
    (leads : tdispNext s fn.toNat m (.session id old) = some f) :
    exec (.tdispRequest fn m (.session id old)) s = .next ((s.updInst fn.toNat f).emit
      (.doe fn.toNat ([0, BitVec.ofNat 8 (f (s.inst fn.toNat)).tdi.code] ++ (if m = .getReport then tdiReport else [])))) := by
  refine next_onSpdm responds sound ?_
  simp only [if_neg virtual, leads, State.inst_updInst_self]

section leads
variable {i stream : Nat}

theorem tdispNext_lock (unlocked : (s.inst i).tdi = .unlocked) (selective : stream < 64)
    (free : s.insts.all (fun x => x.1 == i || x.2.tdi == .unlocked || x.2.stream != stream) = true) :
    tdispNext s i (.lock stream) (.session id old) = some (fun n => { n with tdi := .locked, stream := stream, lockSession := some id }) :=
  if_pos (by rw [unlocked, free, decide_eq_true selective]; rfl)

theorem tdispNext_start (locked : (s.inst i).tdi = .locked) (holds : (s.inst i).lockSession = some id) :
    tdispNext s i .start (.session id old) = some (fun n => { n with tdi := .run }) :=
  if_pos (by rw [locked, holds, beq_self_eq_true, beq_self_eq_true]; rfl)

theorem tdispNext_stop (holds : (s.inst i).lockSession = some id) :
    tdispNext s i .stop (.session id old) = some (fun n => { n with tdi := .unlocked, stream := 0, lockSession := none }) :=
  if_pos (by rw [holds, beq_self_eq_true, Bool.or_true])

theorem bound_iff {n : Inst} : (n.tdi == .locked || n.tdi == .run) = true ↔ n.tdi = .locked ∨ n.tdi = .run := by
  rw [Bool.or_eq_true, beq_iff_eq, beq_iff_eq]

theorem tdispNext_getReport (bound : (s.inst i).tdi = .locked ∨ (s.inst i).tdi = .run) : tdispNext s i .getReport (.session id old) = some (fun n => n) :=
  if_pos (bound_iff.mpr bound)

end leads

end tdisp

/-! ## Removal, generations, time -/

section removal
variable {fn : FnId} {r : Removal} {s : State} (removal : (s.inst fn.toNat).removal = some r)
include removal

theorem execEngineDrainReport_drained {engine : Nat} (raised : (s.inst fn.toNat).raiseWaits = false) (done : drained s fn.toNat engine = true) :
    let left := r.waiting.filter (· != engine)
    let s1 := s.updInst fn.toNat (fun n => { n with removal := some { r with waiting := left } })
    exec (.engineDrainReport fn engine) s = .next (if left = [] then endRemoval fn.toNat false s1 else s1) := by
  change execEngineDrainReport fn engine s = _
  simp only [execEngineDrainReport, removal, raised, done, List.isEmpty_iff, Bool.not_true, Bool.or_self, Bool.false_eq_true, if_false]

/-- The fence ends a removal whose generation has been raised (R394). -/
theorem execRemovalFenceExpiry_due (raised : (s.inst fn.toNat).raiseWaits = false) (due : r.fenceAt ≤ s.now.toNat) :
    exec (.removalFenceExpiry fn) s = .next (endRemoval fn.toNat true s) := by
  have passed : s.now.toNat ≥ r.fenceAt := due
  change execRemovalFenceExpiry fn s = _
  simp only [execRemovalFenceExpiry, removal, raised, passed, decide_true, Bool.not_false, Bool.and_self, if_true]

theorem execRemovalFenceExpiry_early (early : s.now.toNat < r.fenceAt) : exec (.removalFenceExpiry fn) s = .next s := by
  have within : ¬s.now.toNat ≥ r.fenceAt := Nat.not_le.mpr early
  change execRemovalFenceExpiry fn s = _
  simp only [execRemovalFenceExpiry, removal, within, decide_false, Bool.false_and, Bool.false_eq_true, if_false]

end removal

/-- What a raise of the generation leaves of the old one (R366). -/
theorem raiseGen_inst (i : Nat) (s : State) :
    (raiseGen i false s).inst i = { s.inst i with gen := (s.inst i).gen + 1, rootKey := s.free, epoch := 1, nextMap := 0, debug := decide (i = 0), profile := decide (i = 0),
                                                  sessions := [], raiseWaits := false, sealSecret := none, migKey := none } :=
  State.inst_updInst_self i _

/-- The offset of an exchange is kept, and sets device time while no almanac is installed (R426, R427). -/
theorem execTimeAlignTimer_offset {t1 t2 t3 t4 : BitVec 64} {parent : Nat} {s : State} (installed : s.sys.devId ≠ 0x3FFF) (other : timeRoot s ≠ s.sys.devId.toNat) (aligns : timeParent s = some parent) :
    let off := alignOf t1.toNat t2.toNat t3.toNat t4.toNat
    ∃ t, exec (.timeAlignTimer t1 t2 t3 t4) s = .next t ∧ t.sys.alignOffset = off ∧ (s.noAlmanac = false → t.now = s.now) ∧
      (s.noAlmanac = true → 0 ≤ off → t.now = s.now + BitVec.ofNat 64 off.toNat) ∧ (s.noAlmanac = true → off < 0 → t.now = s.now ∧ t.sys.heldBack = s.sys.heldBack + (-off).toNat) := by
  intro off
  have goes : ¬(decide (s.sys.devId = 0x3FFF) || decide (timeRoot s = s.sys.devId.toNat) || (timeParent s).isNone) = true := by
    rw [decide_eq_false installed, decide_eq_false other, aligns]; exact Bool.false_ne_true
  cases free : s.noAlmanac with
  | false =>
    have planned : (!s.noAlmanac) = true := by rw [free]; rfl
    exact ⟨_, congrArg Host.Outcome.next ((if_neg goes).trans (if_pos planned)), rfl, fun _ => rfl, nofun, nofun⟩
  | true =>
    have unplanned : ¬(!s.noAlmanac) = true := by rw [free]; decide
    by_cases ahead : off ≥ 0
    · exact ⟨_, congrArg Host.Outcome.next ((if_neg goes).trans ((if_neg unplanned).trans (if_pos ahead))), rfl, nofun, fun _ _ => rfl,
        fun _ behind => absurd ahead (Int.not_le.mpr behind)⟩
    · exact ⟨_, congrArg Host.Outcome.next ((if_neg goes).trans ((if_neg unplanned).trans (if_neg ahead))), rfl, nofun, fun _ sets => absurd sets ahead, fun _ _ => ⟨rfl, rfl⟩⟩

/-- Settles O50: the messages of a function that responds; then removals, raises and the exchanges of time. -/
theorem attestationRemovalTime : Obligations.AttestationRemovalTime := by
  unfold Obligations.AttestationRemovalTime
  constructor
  · intro fn via index which hb slot nonce key stream id old s i n tells signed report through secret inSession responds
    have request {m : Tdisp} {f : Inst → Inst} (leads : tdispNext s i m (.session id old) = some f) : inSession m f (if m = .getReport then tdiReport else []) :=
      fun virtual sound => execTdispRequest_taken responds virtual sound leads
    refine ⟨spdmRow responds rfl rfl, fun low high => spdmRow responds (execSpdmGetMeasurements_block high) ?_, spdmRow responds (execSpdmGetMeasurements_block (Nat.zero_le 8)) rfl,
      spdmRow responds rfl rfl, spdmRow responds rfl rfl, execSpdmKeyExchange_first responds, execSpdmKeyUpdate_renews responds, secretRow responds rfl, secretRow responds rfl, secretRow responds rfl,
      fun unlocked low free => request (tdispNext_lock unlocked low free), fun locked holds => request (tdispNext_start locked holds), fun holds => request (tdispNext_stop holds),
      fun bound => ⟨request (tdispNext_getReport bound), congrArg Host.Outcome.next (if_pos (bound_iff.mpr bound))⟩⟩
    have one : index ≠ 0 := by rintro rfl; exact absurd low (by decide)
    rw [if_neg one]
  · intro fn engine r port t1 t2 t3 t4 parent s i n off left s1
    refine ⟨fun removal => execEngineDrainReport_drained removal, fun removal => execRemovalFenceExpiry_due removal, fun removal => execRemovalFenceExpiry_early removal,
      fun waits clear => ?_, fun waits used => ?_, fun link up => ?_, execTimeAlignTimer_offset⟩
    · refine ⟨_, congrArg Host.Outcome.next (if_pos (by rw [waits, clear]; rfl)), ?_⟩
      rw [raiseGen_inst]
      exact ⟨rfl, rfl, rfl, rfl, rfl, rfl, rfl⟩
    · exact congrArg Host.Outcome.next (if_neg (by rw [waits, used]; decide))
    · exact congrArg Host.Outcome.next (if_pos (by rw [link, up]; rfl))

end Sys2Proof.Machine
end
